-- ==== Sys2Proof/Word.lean ====
section
/-! DEFINITION. Word and lane types, and finite maps as sorted lists of key and value. -/

namespace Sys2Proof

/-- A byte of memory. -/
abbrev Byte := BitVec 8
/-- A register of one lane (R10: v and s registers are 32 bits wide). -/
abbrev Word := BitVec 32
/-- A 64-bit value: an even and odd register pair (R11), an address, a control register. -/
abbrev Dword := BitVec 64
/-- A lane mask; bit l belongs to lane l (R6). -/
abbrev Mask := BitVec 32
/-- A lane of a warp (R1: 32 lanes). -/
abbrev Lane := Fin 32

/-- All lanes, in increasing order (R8). -/
def allLanes : List Lane := List.finRange 32

/-- Lane l is in mask m. -/
def Mask.has (m : Mask) (l : Lane) : Bool := m.getLsbD l.val

/-- The mask of the lanes for which f holds. -/
def Mask.ofFn (f : Lane → Bool) : Mask :=
  allLanes.foldl (fun m l => if f l then m ||| ((1#32) <<< l.val) else m) 0#32

/-- The lanes of a mask in increasing order. -/
def Mask.lanes (m : Mask) : List Lane := allLanes.filter (fun l => Mask.has m l)

/-- The lowest lane of a mask. -/
def Mask.low? (m : Mask) : Option Lane := allLanes.find? (fun l => Mask.has m l)

/-- The number of lanes in a mask. -/
def Mask.count (m : Mask) : Nat := (Mask.lanes m).length

/-- The mask that holds lane l alone. -/
def Mask.one (l : Lane) : Mask := (1#32) <<< l.val

/-- a is contained in b. -/
def Mask.sub (a b : Mask) : Bool := a &&& ~~~b == 0#32

/-- One value per lane. -/
abbrev LaneVec (α : Type) := Vector α 32

/-- A finite map from numbers to values: a list in increasing key order. -/
abbrev FMap (α : Type) := List (Nat × α)

namespace FMap

/-- The value at key n. -/
def get? {α : Type} : FMap α → Nat → Option α
  | [], _ => none
  | (k, a) :: t, n => if n = k then some a else get? t n

/-- The value at key n, or d. -/
def getD {α : Type} (m : FMap α) (n : Nat) (d : α) : α := (get? m n).getD d

/-- Puts a at key n, at its place in the order. -/
def ins {α : Type} : FMap α → Nat → α → FMap α
  | [], n, a => [(n, a)]
  | (k, b) :: t, n, a =>
    if n = k then (n, a) :: t
    else if n < k then (n, a) :: (k, b) :: t
    else (k, b) :: ins t n a

/-- Removes key n. -/
def del {α : Type} (m : FMap α) (n : Nat) : FMap α := m.filter (fun e => e.1 != n)

/-- Applies f to the value at key n, if there is one. -/
def modify {α : Type} : FMap α → Nat → (α → α) → FMap α
  | [], _, _ => []
  | (k, a) :: t, n, f => if n = k then (k, f a) :: t else (k, a) :: modify t n f

/-- Keys strictly increasing. -/
def sorted {α : Type} : FMap α → Bool
  | [] => true
  | [_] => true
  | (k, _) :: (k', b) :: t => decide (k < k') && sorted ((k', b) :: t)

end FMap

/-- Bits hi down to lo of a number. -/
def bits (x lo n : Nat) : Nat := (x >>> lo) % 2 ^ n

/-- Replaces n bits of x from lo upward by v. -/
def setBits (x lo n v : Nat) : Nat :=
  x - (bits x lo n) * 2 ^ lo + (v % 2 ^ n) * 2 ^ lo

/-- A number read as two's complement of n bits. -/
def toSigned (n x : Nat) : Int :=
  if x % 2 ^ n < 2 ^ (n - 1) then ((x % 2 ^ n : Nat) : Int) else ((x % 2 ^ n : Nat) : Int) - (2 ^ n : Nat)

/-- The n-bit encoding of an integer, modulo 2^n (R50). -/
def ofInt (n : Nat) (x : Int) : Nat := (x % (2 ^ n : Nat)).toNat

/-- Inserts an element before the first that is greater. -/
def insertBy {α : Type} (le : α → α → Bool) (a : α) : List α → List α
  | [] => [a]
  | b :: t => if le a b then a :: b :: t else b :: insertBy le a t

/-- A list in increasing order; equal elements keep their places. -/
def sortBy {α : Type} (le : α → α → Bool) (l : List α) : List α := l.foldr (insertBy le) []

/-- Division rounded up. -/
def ceilDiv (a b : Nat) : Nat := (a + b - 1) / b

end Sys2Proof
end

