-- ==== Sys2Proof/Syntax.lean ====
section
/-! DEFINITION. The syntax of instruction words (spec/04) and of the part's other steps (spec/95): one constructor of
`Instr` for each row of the opcode table. -/

namespace Sys2Proof

/-- Integer types of groups 0x0 to 0x2 (R50, R79), in TY code order. -/
inductive IType where
  | s8 | s16 | s32 | s64 | z8 | z16 | z32 | z64
  deriving DecidableEq, Repr

/-- Floating-point register formats (R52, R79), in TY code order. -/
inductive FType where
  | f16 | bf16 | f32 | f64 | e5m2 | e4m3 | e2m1
  deriving DecidableEq, Repr

/-- Rounding modes (R17, R60). -/
inductive RMode where
  | rne | rtz | rup | rdn
  deriving DecidableEq, Repr

/-- Cache classes (R80, R215), in CLS code order. -/
inductive CacheClass where
  | normal | evictFirst | evictLast
  deriving DecidableEq, Repr

/-- Orderings (R80, R237). -/
inductive Order where
  | rlx | acq | rel | acqrel
  deriving DecidableEq, Repr

/-- Scopes (R80, R234). -/
inductive Scope where
  | warp | wg | dev | sys
  deriving DecidableEq, Repr

/-- What an operand code names as a register, constant or literal (R83). -/
inductive Src where
  /-- v0 to v255 -/
  | v (n : Fin 256)
  /-- s0 to s159 -/
  | s (n : Fin 160)
  /-- special operands, codes 416 + n (R14) -/
  | special (n : Fin 23)
  /-- integer constants, codes 448 + n, value n - 16 -/
  | int (n : Fin 48)
  /-- floating-point constants, codes 496 + n (R84) -/
  | fp (n : Fin 15)
  /-- the literal word (R85) -/
  | lit (w : Dword)
  deriving DecidableEq, Repr

/-- What stands in an operand position: nothing (code 0, bits 0), a register, constant or literal with its last-use and
wait bits, a predicate (R86), or an extension field with its wait bit (R78; the wait bit is used by the accumulator
positions of R323 alone). -/
inductive Opd where
  | none
  | src (o : Src) (lastUse wait : Bool)
  | pred (neg : Bool) (p : Fin 8)
  | ext (n : Fin 512) (wait : Bool)
  deriving DecidableEq, Repr

/-- A guard: predicate and negation (R77). -/
structure Guard where
  neg : Bool
  p : Fin 8
  deriving DecidableEq, Repr

/-- The guard "always" (R77). -/
def Guard.always : Guard := ⟨false, 7⟩

/-- A format F or X word (R77); sub holds the sub-op field of a block form (R93), 0 for the others. -/
structure WordF where
  guard : Guard
  dst : Opd
  a : Opd
  b : Opd
  c : Opd
  mod : BitVec 6
  sub : BitVec 4
  deriving DecidableEq, Repr

/-- A format M word (R80); sub holds SZ, AOP or WCOND (R93). -/
structure WordM where
  guard : Guard
  data : Opd
  base : Opd
  off : BitVec 18
  cls : CacheClass
  ord : Order
  scp : Scope
  xm : BitVec 2
  sub : BitVec 4
  deriving DecidableEq, Repr

/-- A format B word (R82). -/
structure WordB where
  guard : Guard
  disp : BitVec 24
  ct : Opd
  bmod : BitVec 13
  deriving DecidableEq, Repr

/-- The half-ops of R91. -/
inductive HalfOp where
  | iadd | isub | imul | imin | imax | and | or | xor | andn | shl | shr | sar
  | fadd | fsub | fmul | fmin | fmax | fadd2 | fmul2
  deriving DecidableEq, Repr

/-- One half of a paired word (R88). -/
structure Half where
  op : HalfOp
  hd : Fin 256
  hs : Opd
  hmod : BitVec 5
  deriving DecidableEq, Repr

/-- A fabric message of R445, with what the receiver's check of it finds: the sealed tag is verified outside the model. -/
structure Message where
  oseq : Nat
  srcCtx : Nat
  srcPart : Nat
  srcDev : Nat
  srcSess : Nat
  dstDev : Nat
  dstPart : Nat
  /-- the tag that it carries (R445) -/
  tag : BitVec 256
  /-- UINT: payload, vector, target context -/
  payload : Dword
  vector : Nat
  target : Nat
  /-- TASK: the record as 128 bytes and the argument bytes -/
  record : BitVec 1024
  args : List Byte
  deriving DecidableEq, Repr

/-- A partition descriptor (R419). -/
structure Desc where
  valid : Bool
  prot : Bool
  dbg : Bool
  cores : BitVec 72
  banks : BitVec 128
  pch : BitVec 512
  lpch : BitVec 32
  ports : BitVec 6
  gondolas : BitVec 16
  lodge : BitVec 64
  keys : BitVec 64
  share : BitVec 16
  scrubPend : Nat
  ctxBase : Nat
  ctxCnt : Nat
  deriving DecidableEq, Repr

/-- What authenticates a request of the management session (R460): its sequence number, and whether its tag verifies. -/
structure Auth where
  seq : Nat
  ok : Bool
  deriving DecidableEq, Repr

/-- A request of the management session for a partition (R419, R460). -/
structure MgmtTo where
  auth : Auth
  part : Nat
  deriving DecidableEq, Repr

/-- The widths of a host or management data movement (R461). -/
inductive DbgOp where
  | read (len : Nat)
  | write (data : List Byte)
  deriving DecidableEq, Repr

/-- A PCIe AtomicOp received from a fabric (R442). -/
inductive AtomicOp where
  | fetchAdd (x : Dword) | swap (x : Dword) | cas (cmp new : Dword)
  deriving DecidableEq, Repr

/-- A request of a host at the device, as it enters: the partition whose function takes it, and the origin and sequence number that
it carries from the host's own system (R2, R479). -/
structure Requester where
  part : Nat
  origin : Nat
  oseq : Dword
  deriving DecidableEq, Repr

/-- A host's snoop of a 64-byte line (R442), with the origin and sequence number of the host's own system (R2, R479). -/
structure HostSnoop where
  line : Nat
  origin : Nat
  oseq : Dword
  deriving DecidableEq, Repr

/-- A host takes a 64-byte line for itself (R442): its snoop, and what it then writes into its memory there, if it writes (log 115). -/
structure HostTake where
  snoop : HostSnoop
  data : Option (BitVec 512)
  deriving DecidableEq, Repr

/-- The steps of the part. The first group are the instruction words; the second are the steps that no word encodes, each
with what its agent supplies. -/
inductive Instr where
  -- group 0x0: integer arithmetic (R105)
  | iadd (f : WordF) | iaddc (f : WordF) | isub (f : WordF) | isubb (f : WordF) | imul (f : WordF) | imulh (f : WordF)
  | imad (f : WordF) | imadw (f : WordF) | idiv (f : WordF) | irem (f : WordF) | iabs (f : WordF) | ineg (f : WordF)
  | imin (f : WordF) | imax (f : WordF) | isad (f : WordF) | lea (f : WordF) | idp4 (f : WordF) | idp2 (f : WordF)
  -- group 0x1: logic and bits (R111)
  | and (f : WordF) | or (f : WordF) | xor (f : WordF) | andn (f : WordF) | orn (f : WordF)
  | shl (f : WordF) | shr (f : WordF) | sar (f : WordF) | rot (f : WordF) | fsh (f : WordF)
  | bfe (f : WordF) | bfi (f : WordF) | popc (f : WordF) | clz (f : WordF) | ctz (f : WordF) | brev (f : WordF)
  | bswz (f : WordF) | blut (f : WordF)
  -- group 0x2: compare, select, move (R118)
  | icmp (f : WordF) | sel (f : WordF) | mov (f : WordF) | movl (f : WordF) | cvti (f : WordF) | p2v (f : WordF)
  | v2p (f : WordF) | iclamp (f : WordF) | plut (f : WordF)
  -- format H (R88)
  | pairedWord (hi lo : Half)
  -- group 0x3: floating-point arithmetic (R129)
  | fadd (f : WordF) | fsub (f : WordF) | fmul (f : WordF) | ffma (f : WordF) | fmin (f : WordF) | fmax (f : WordF)
  | fminm (f : WordF) | fmaxm (f : WordF) | fcmp (f : WordF) | fclass (f : WordF) | fsgn (f : WordF) | fscale (f : WordF)
  | frnd (f : WordF) | fdot2 (f : WordF) | fdot4 (f : WordF) | fadd2 (f : WordF) | fmul2 (f : WordF) | ffma2 (f : WordF)
  -- group 0x4: special functions, conversions, random numbers (R138, R141, R147)
  | frcp (f : WordF) | frsq (f : WordF) | fsqrt (f : WordF) | fdiv (f : WordF) | fexp2 (f : WordF) | flog2 (f : WordF)
  | fsinpi (f : WordF) | fcospi (f : WordF) | ftanh (f : WordF) | fcvt (f : WordF) | ftoi (f : WordF) | itof (f : WordF)
  | fcvtsr (f : WordF) | fgete (f : WordF) | fgetm (f : WordF) | rngpx (f : WordF) | rngf (f : WordF)
  -- group 0x5: control (R150)
  | bra (b : WordB) | brx (b : WordB) | call (b : WordB) | callx (b : WordB) | ret (b : WordB) | loop (b : WordB) | lbrk (b : WordB)
  | exit (f : WordF) | nop (f : WordF) | trap (f : WordF) | tret (f : WordF) | bkpt (f : WordF)
  | movxRead (f : WordF) | movxWrite (f : WordF)
  /-- ILLEG; bits 51:0 are not checked (R166) -/
  | illeg (low : BitVec 52)
  -- group 0x6: cross-lane (R196)
  | shfl (f : WordF) | vote (f : WordF) | bcast (f : WordF) | matchx (f : WordF) | wsync (f : WordF) | redx (f : WordF)
  | scanx (f : WordF) | reform (b : WordB) | bar (f : WordF)
  -- groups 0x7 to 0x9: memory (R256)
  | pref (m : WordM) | ld (m : WordM) | st (m : WordM) | atom (m : WordM) | red (m : WordM) | lds (m : WordM) | sts (m : WordM)
  | atoms (m : WordM)
  /-- the data of load `id` arrive (R260) -/
  | loadComplete (id : Nat)
  | waitv (m : WordM)
  /-- lane l of the warp at `place` reads its WAITV location again (R268) -/
  | waitvReread (place : Nat) (l : Lane)
  | fence (f : WordF) | cctlIinv (m : WordM) | cctlL1inv (m : WordM) | cctlClean (m : WordM) | cctlDemote (m : WordM)
  | retain (f : WordF) | unpin (f : WordF)
  -- group 0xA: copies and barrier objects (R290)
  | copy (f : WordF) | copyo (f : WordF) | region (f : WordF) | rgnclr (f : WordF) | touch (f : WordF) | cseal (f : WordF)
  | cwait (f : WordF) | ctest (f : WordF) | waitp (f : WordF) | bari (f : WordF) | bara (f : WordF) | barw (f : WordF)
  | bart (f : WordF) | barcnt (f : WordF)
  /-- copy `id` moves what is left of it and ends (R294, R297) -/
  | copyComplete (id : Nat)
  /-- the last bytes of copy or staging `id` land in chunk `chunk` (R298) -/
  | chunkPresent (id chunk : Nat)
  /-- staging `id` moves what is left of it and ends (R308) -/
  | stagingComplete (id : Nat)
  -- group 0xB: the matrix unit (R323)
  | tld (f : WordF) | tst (f : WordF) | tzero (f : WordF) | mma (f : WordF) | mloop (f : WordF) | mvloop (f : WordF)
  | mgenIdent (f : WordF) | mgenOnes (f : WordF) | mgenPerm (f : WordF)
  | accz (f : WordF) | accld (f : WordF) | accst (f : WordF) | accrd (f : WordF) | mwait (f : WordF)
  /-- the multiplier of unit `unit` of core `core` finishes a K-step (R334) -/
  | kStepComplete (core unit : Nat)
  /-- the matrix instruction at the head of a track's queue completes (R325) -/
  | matrixComplete (core track : Nat)
  -- group 0xC (R356, R447)
  | spawn (f : WordF) | spawnj (f : WordF) | yield (f : WordF) | tsend (f : WordF)
  -- group 0xD (R377, R398)
  | svc (f : WordF) | sret (f : WordF) | errinjReg (f : WordF) | errinjMem (f : WordF) | errinjCe (f : WordF)
  | errinjSpad (f : WordF) | uisend (f : WordF) | uiwait (f : WordF) | uiret (f : WordF)
  -- steps of tracks and warps
  /-- long instruction `id` completes (R126) -/
  | longComplete (id : Nat)
  /-- RUN of the warp at `place` has reached 256 (R172) -/
  | rotation (place : Nat)
  /-- a warp of the track whose WAITC is 64 or more is picked (R173) -/
  | waitcPriority (core track : Nat)
  /-- the spilled warp at `place` reads its entries back (R178) -/
  | spillRestore (place : Nat)
  | lineAgeTrigger (core line : Nat)
  | lineDispatch (core : Nat)
  | warpEnd (place : Nat)
  -- translation and faults
  | faultTableAdmit (part : Nat)
  | faultdoneRetry (part origin : Nat) (oseq : Dword)
  | faultdoneDeny (part origin : Nat) (oseq : Dword)
  /-- a gondola of the partition serves its oldest tier miss (R227) -/
  | pageIn (part : Nat)
  | tlbinvPage (part ctx vpage : Nat)
  | tlbinvContext (part ctx : Nat)
  | tlbinvPartition (part : Nat)
  | tlbinvDone (part : Nat)
  | retregWrite (part i : Nat) (v : BitVec 128)
  -- Chairlift
  | notify (part q : Nat) (tail : BitVec 16)
  | candidateRead (part q : Nat)
  | workgroupPlace (part : Nat)
  | recordStart (wg : Nat)
  | workgroupEnd (wg : Nat)
  | joinDecrement (launch : Nat)
  | fenceCore (part : Nat)
  | swap (core : Nat)
  | sliceEnd (wg : Nat)
  | drainTimeout (wg : Nat)
  | workgroupRestore (part : Nat)
  -- user interrupts and messages
  | uiDiversion (place : Nat)
  | taskLanding (part sess : Nat)
  | sessionEstablish (part sess : Nat) (tx rx : Bool) (keyslot peerPart peerDev peerSess port : Nat)
  -- ports and hosts
  | completionTimeout (port : Nat)
  | expanderLostNotice (place : Nat)
  | portClr (part port : Nat)
  | snpdata (q : HostSnoop)
  | snpinv (take : HostTake)
  | snpcur (q : HostSnoop)
  /-- the host answers the snoop of a 64-byte line, with its data if it held the line modified (R441) -/
  | birsp (line : Nat) (data : Option (BitVec 512))
  | extentAccepted (part i : Nat) (accept : Bool)
  | extentReleased (part i : Nat)
  | checkpointSave (part : Nat) (remote : Bool) (dest : Nat)
  | checkpointRestore (part : Nat) (remote : Bool) (dest : Nat)
  | checkpointResume (part : Nat) | checkpointUnit (part : Nat)
  -- Patrol
  | partset (q : MgmtTo) (d : Desc) (scrub : Bool)
  | keyload (part slot key : Nat) | keykill (part slot : Nat) | keykillAck (slot engine : Nat)
  | ctxprot (part ctx slot : Nat) | ctxunprot (part ctx : Nat)
  | dbgunlock (part : Nat) (mask : BitVec 16) (token : Nat) | attest (part : Nat) | pcmdUnknown (part cmd : Nat)
  | scrubGranule (channel : Nat)
  | open (share nonce signature : Nat) | cread (q : Auth) (addr len : Nat) | cwrite (q : Auth) (addr : Nat) (data : Dword)
  | bootstage (ok : Bool) (unit : Nat)
  | fatal (unit syndrome : Nat) | clockGate (core : Nat)
  -- DRAM
  | activate (pch bank row : Nat) | directedRefresh (pch bank row : Nat) | refreshWindowWrap (pch bank : Nat)
  | sparingStart (pch src : Nat) | sparingRowCopy (pch : Nat) | remapEntryWrite (stack i : Nat) (v : Word)
  | tokenRefill (controller : Nat)
  -- the Lodge
  | lodgeStart (part j : Nat) | lodgeQueueNotify (part j : Nat) (tail : BitVec 16) | lodgeRecordWrite (part : Nat) (errorQueue : Bool)
  -- others
  | registerWrite (part off size : Nat) (v : BitVec 128)
  | writeAcknowledged (id : Nat)
  | atomicComplete (id : Nat)
  | l2rctlWrite (part : Nat) (v : Dword)
  -- steps of the world outside the part: hosts, fabrics, the management controller
  | hostInterruptWrite (req : Requester) (ctx off size : Nat) (data : BitVec 128)
  | fabricUint (port : Nat) (m : Message)
  | fabricTask (port : Nat) (m : Message)
  | portLoss (port cause : Nat)
  | linkTrain (port width rate : Nat)
  | hostMemRead (req : Requester) (dpa len : Nat)
  | hostMemWrite (req : Requester) (dpa : Nat) (data : List Byte)
  | hostAtomicop (req : Requester) (dpa : Nat) (wide : Bool) (op : AtomicOp)
  | extentOffer (part i : Nat) | extentRelease (part i : Nat)
  | patrolRequest (q : Auth) (part cmd : Nat) (arg : List Byte) (d : Desc) (scrub : Bool)
  | dbgmem (q : Auth) (part : Nat) (control : Bool) (addr : Nat) (op : DbgOp)
  | mgmtReset (q : Auth) (cold : Bool)
  | functionLevelReset (part : Nat) | thermal (temp power : Nat)
  /-- after the word at LEND has executed: the back-edge (R156) -/
  | issueAtLend
  | mctpControl | coldReset | warmReset
  deriving DecidableEq, Repr

end Sys2Proof
end

