-- ==== Sys2Proof/Machine/Encoding.lean ====
section
/-! DEFINITION. The forms of instruction words, their opcodes (R92, R93) and the format view of an instruction. -/

namespace Sys2Proof

/-- The forms of formats F and X (R92). -/
inductive FKind where
  | iadd | iaddc | isub | isubb | imul | imulh | imad | imadw | idiv | irem | iabs | ineg | imin | imax | isad
  | lea | idp4 | idp2 | and | or | xor | andn | orn | shl | shr | sar | rot | fsh | bfe | bfi | popc | clz | ctz
  | brev | bswz | blut | icmp | sel | mov | movl | cvti | p2v | v2p | iclamp | plut | fadd | fsub | fmul | ffma
  | fmin | fmax | fminm | fmaxm | fcmp | fclass | fsgn | fscale | frnd | fdot2 | fdot4 | fadd2 | fmul2 | ffma2
  | frcp | frsq | fsqrt | fdiv | fexp2 | flog2 | fsinpi | fcospi | ftanh | fcvt | ftoi | itof | fcvtsr | fgete
  | fgetm | rngpx | rngf | exit | nop | trap | tret | bkpt | movxRead | movxWrite | shfl | vote | bcast | matchx
  | wsync | redx | scanx | bar | fence | retain | unpin | copy | copyo | region | rgnclr | touch | cseal | cwait
  | ctest | waitp | bari | bara | barw | bart | barcnt | tld | tst | tzero | mma | mloop | mvloop | mgenIdent
  | mgenOnes | mgenPerm | accz | accld | accst | accrd | mwait | spawn | spawnj | yield | tsend | svc | sret
  | errinjReg | errinjMem | errinjCe | errinjSpad | uisend | uiwait | uiret
  deriving DecidableEq, Repr

/-- The forms of format M (R92). -/
inductive MKind where
  | pref | ld | st | atom | red | lds | sts | atoms | waitv | cctlIinv | cctlL1inv | cctlClean | cctlDemote
  deriving DecidableEq, Repr

/-- The forms of format B (R92). -/
inductive BKind where
  | bra | brx | call | callx | ret | loop | lbrk | reform
  deriving DecidableEq, Repr

/-- Every format F and X form, in opcode order. -/
def FKind.all : List FKind :=
  [.iadd, .iaddc, .isub, .isubb, .imul, .imulh, .imad, .imadw, .idiv, .irem, .iabs, .ineg, .imin, .imax, .isad,
   .lea, .idp4, .idp2, .and, .or, .xor, .andn, .orn, .shl, .shr, .sar, .rot, .fsh, .bfe, .bfi, .popc, .clz, .ctz,
   .brev, .bswz, .blut, .icmp, .sel, .mov, .movl, .cvti, .p2v, .v2p, .iclamp, .plut, .fadd, .fsub, .fmul, .ffma,
   .fmin, .fmax, .fminm, .fmaxm, .fcmp, .fclass, .fsgn, .fscale, .frnd, .fdot2, .fdot4, .fadd2, .fmul2, .ffma2,
   .frcp, .frsq, .fsqrt, .fdiv, .fexp2, .flog2, .fsinpi, .fcospi, .ftanh, .fcvt, .ftoi, .itof, .fcvtsr, .fgete,
   .fgetm, .rngpx, .rngf, .exit, .nop, .trap, .tret, .bkpt, .movxRead, .movxWrite, .shfl, .vote, .bcast, .matchx,
   .wsync, .redx, .scanx, .bar, .fence, .retain, .unpin, .copy, .copyo, .region, .rgnclr, .touch, .cseal, .cwait,
   .ctest, .waitp, .bari, .bara, .barw, .bart, .barcnt, .tld, .tst, .tzero, .mma, .mloop, .mvloop, .mgenIdent,
   .mgenOnes, .mgenPerm, .accz, .accld, .accst, .accrd, .mwait, .spawn, .spawnj, .yield, .tsend, .svc, .sret,
   .errinjReg, .errinjMem, .errinjCe, .errinjSpad, .uisend, .uiwait, .uiret]

/-- The opcode, of a block form the lowest (R92, R93). -/
def FKind.opcode : FKind → Nat
  | .iadd => 0x001 | .iaddc => 0x002 | .isub => 0x003 | .isubb => 0x004 | .imul => 0x005 | .imulh => 0x006
  | .imad => 0x007 | .imadw => 0x008 | .idiv => 0x009 | .irem => 0x00A | .iabs => 0x00B | .ineg => 0x00C
  | .imin => 0x00D | .imax => 0x00E | .isad => 0x00F | .lea => 0x010 | .idp4 => 0x011 | .idp2 => 0x012
  | .and => 0x081 | .or => 0x082 | .xor => 0x083 | .andn => 0x084 | .orn => 0x085 | .shl => 0x086 | .shr => 0x087
  | .sar => 0x088 | .rot => 0x089 | .fsh => 0x08A | .bfe => 0x08B | .bfi => 0x08C | .popc => 0x08D | .clz => 0x08E
  | .ctz => 0x08F | .brev => 0x090 | .bswz => 0x091 | .blut => 0x098 | .icmp => 0x101 | .sel => 0x103
  | .mov => 0x104 | .movl => 0x105 | .cvti => 0x106 | .p2v => 0x107 | .v2p => 0x108 | .iclamp => 0x109
  | .plut => 0x110 | .fadd => 0x181 | .fsub => 0x182 | .fmul => 0x183 | .ffma => 0x184 | .fmin => 0x185
  | .fmax => 0x186 | .fminm => 0x187 | .fmaxm => 0x188 | .fcmp => 0x189 | .fclass => 0x18A | .fsgn => 0x18B
  | .fscale => 0x18C | .frnd => 0x18D | .fdot2 => 0x18E | .fdot4 => 0x18F | .fadd2 => 0x190 | .fmul2 => 0x191
  | .ffma2 => 0x192 | .frcp => 0x201 | .frsq => 0x202 | .fsqrt => 0x203 | .fdiv => 0x204 | .fexp2 => 0x205
  | .flog2 => 0x206 | .fsinpi => 0x207 | .fcospi => 0x208 | .ftanh => 0x209 | .fcvt => 0x20A | .ftoi => 0x20B
  | .itof => 0x20C | .fcvtsr => 0x20D | .fgete => 0x20E | .fgetm => 0x20F | .rngpx => 0x210 | .rngf => 0x211
  | .exit => 0x288 | .nop => 0x289 | .trap => 0x28A | .tret => 0x28B | .bkpt => 0x28C | .movxRead => 0x28D
  | .movxWrite => 0x28D | .shfl => 0x301 | .vote => 0x302 | .bcast => 0x305 | .matchx => 0x306 | .wsync => 0x307
  | .redx => 0x310 | .scanx => 0x318 | .bar => 0x309 | .fence => 0x481 | .retain => 0x483 | .unpin => 0x484
  | .copy => 0x501 | .copyo => 0x502 | .region => 0x503 | .rgnclr => 0x504 | .touch => 0x505 | .cseal => 0x506
  | .cwait => 0x507 | .ctest => 0x508 | .waitp => 0x509 | .bari => 0x50A | .bara => 0x50B | .barw => 0x50C
  | .bart => 0x50D | .barcnt => 0x50E | .tld => 0x581 | .tst => 0x582 | .tzero => 0x583 | .mma => 0x584
  | .mloop => 0x585 | .mvloop => 0x586 | .mgenIdent => 0x587 | .mgenOnes => 0x587 | .mgenPerm => 0x587
  | .accz => 0x588 | .accld => 0x589 | .accst => 0x58A | .accrd => 0x58B | .mwait => 0x58C | .spawn => 0x601
  | .spawnj => 0x602 | .yield => 0x603 | .tsend => 0x604 | .svc => 0x681 | .sret => 0x682 | .errinjReg => 0x683
  | .errinjMem => 0x683 | .errinjCe => 0x683 | .errinjSpad => 0x683 | .uisend => 0x684 | .uiwait => 0x685
  | .uiret => 0x686

/-- The instruction of a form and its word's fields. -/
def FKind.mk : FKind → WordF → Instr
  | .iadd, w => .iadd w | .iaddc, w => .iaddc w | .isub, w => .isub w | .isubb, w => .isubb w
  | .imul, w => .imul w | .imulh, w => .imulh w | .imad, w => .imad w | .imadw, w => .imadw w
  | .idiv, w => .idiv w | .irem, w => .irem w | .iabs, w => .iabs w | .ineg, w => .ineg w | .imin, w => .imin w
  | .imax, w => .imax w | .isad, w => .isad w | .lea, w => .lea w | .idp4, w => .idp4 w | .idp2, w => .idp2 w
  | .and, w => .and w | .or, w => .or w | .xor, w => .xor w | .andn, w => .andn w | .orn, w => .orn w
  | .shl, w => .shl w | .shr, w => .shr w | .sar, w => .sar w | .rot, w => .rot w | .fsh, w => .fsh w
  | .bfe, w => .bfe w | .bfi, w => .bfi w | .popc, w => .popc w | .clz, w => .clz w | .ctz, w => .ctz w
  | .brev, w => .brev w | .bswz, w => .bswz w | .blut, w => .blut w | .icmp, w => .icmp w | .sel, w => .sel w
  | .mov, w => .mov w | .movl, w => .movl w | .cvti, w => .cvti w | .p2v, w => .p2v w | .v2p, w => .v2p w
  | .iclamp, w => .iclamp w | .plut, w => .plut w | .fadd, w => .fadd w | .fsub, w => .fsub w
  | .fmul, w => .fmul w | .ffma, w => .ffma w | .fmin, w => .fmin w | .fmax, w => .fmax w | .fminm, w => .fminm w
  | .fmaxm, w => .fmaxm w | .fcmp, w => .fcmp w | .fclass, w => .fclass w | .fsgn, w => .fsgn w
  | .fscale, w => .fscale w | .frnd, w => .frnd w | .fdot2, w => .fdot2 w | .fdot4, w => .fdot4 w
  | .fadd2, w => .fadd2 w | .fmul2, w => .fmul2 w | .ffma2, w => .ffma2 w | .frcp, w => .frcp w
  | .frsq, w => .frsq w | .fsqrt, w => .fsqrt w | .fdiv, w => .fdiv w | .fexp2, w => .fexp2 w
  | .flog2, w => .flog2 w | .fsinpi, w => .fsinpi w | .fcospi, w => .fcospi w | .ftanh, w => .ftanh w
  | .fcvt, w => .fcvt w | .ftoi, w => .ftoi w | .itof, w => .itof w | .fcvtsr, w => .fcvtsr w
  | .fgete, w => .fgete w | .fgetm, w => .fgetm w | .rngpx, w => .rngpx w | .rngf, w => .rngf w
  | .exit, w => .exit w | .nop, w => .nop w | .trap, w => .trap w | .tret, w => .tret w | .bkpt, w => .bkpt w
  | .movxRead, w => .movxRead w | .movxWrite, w => .movxWrite w | .shfl, w => .shfl w | .vote, w => .vote w
  | .bcast, w => .bcast w | .matchx, w => .matchx w | .wsync, w => .wsync w | .redx, w => .redx w
  | .scanx, w => .scanx w | .bar, w => .bar w | .fence, w => .fence w | .retain, w => .retain w
  | .unpin, w => .unpin w | .copy, w => .copy w | .copyo, w => .copyo w | .region, w => .region w
  | .rgnclr, w => .rgnclr w | .touch, w => .touch w | .cseal, w => .cseal w | .cwait, w => .cwait w
  | .ctest, w => .ctest w | .waitp, w => .waitp w | .bari, w => .bari w | .bara, w => .bara w
  | .barw, w => .barw w | .bart, w => .bart w | .barcnt, w => .barcnt w | .tld, w => .tld w | .tst, w => .tst w
  | .tzero, w => .tzero w | .mma, w => .mma w | .mloop, w => .mloop w | .mvloop, w => .mvloop w
  | .mgenIdent, w => .mgenIdent w | .mgenOnes, w => .mgenOnes w | .mgenPerm, w => .mgenPerm w
  | .accz, w => .accz w | .accld, w => .accld w | .accst, w => .accst w | .accrd, w => .accrd w
  | .mwait, w => .mwait w | .spawn, w => .spawn w | .spawnj, w => .spawnj w | .yield, w => .yield w
  | .tsend, w => .tsend w | .svc, w => .svc w | .sret, w => .sret w | .errinjReg, w => .errinjReg w
  | .errinjMem, w => .errinjMem w | .errinjCe, w => .errinjCe w | .errinjSpad, w => .errinjSpad w
  | .uisend, w => .uisend w | .uiwait, w => .uiwait w | .uiret, w => .uiret w

/-- Every format M form, in opcode order. -/
def MKind.all : List MKind :=
  [.pref, .ld, .st, .atom, .red, .lds, .sts, .atoms, .waitv, .cctlIinv, .cctlL1inv, .cctlClean, .cctlDemote]

/-- The opcode, of a block form the lowest (R92, R93). -/
def MKind.opcode : MKind → Nat
  | .pref => 0x381 | .ld => 0x388 | .st => 0x390 | .atom => 0x3A0 | .red => 0x3B0 | .lds => 0x408 | .sts => 0x410
  | .atoms => 0x420 | .waitv => 0x490 | .cctlIinv => 0x482 | .cctlL1inv => 0x482 | .cctlClean => 0x482
  | .cctlDemote => 0x482

/-- The instruction of a form and its word's fields. -/
def MKind.mk : MKind → WordM → Instr
  | .pref, w => .pref w | .ld, w => .ld w | .st, w => .st w | .atom, w => .atom w | .red, w => .red w
  | .lds, w => .lds w | .sts, w => .sts w | .atoms, w => .atoms w | .waitv, w => .waitv w
  | .cctlIinv, w => .cctlIinv w | .cctlL1inv, w => .cctlL1inv w | .cctlClean, w => .cctlClean w
  | .cctlDemote, w => .cctlDemote w

/-- Every format B form, in opcode order. -/
def BKind.all : List BKind :=
  [.bra, .brx, .call, .callx, .ret, .loop, .lbrk, .reform]

/-- The opcode, of a block form the lowest (R92, R93). -/
def BKind.opcode : BKind → Nat
  | .bra => 0x281 | .brx => 0x282 | .call => 0x283 | .callx => 0x284 | .ret => 0x285 | .loop => 0x286
  | .lbrk => 0x287 | .reform => 0x308

/-- The instruction of a form and its word's fields. -/
def BKind.mk : BKind → WordB → Instr
  | .bra, w => .bra w | .brx, w => .brx w | .call, w => .call w | .callx, w => .callx w | .ret, w => .ret w
  | .loop, w => .loop w | .lbrk, w => .lbrk w | .reform, w => .reform w

/-- The formats an instruction word has (R75); `event` for a step without a word. -/
inductive Form where
  | f (k : FKind) (w : WordF)
  | m (k : MKind) (w : WordM)
  | b (k : BKind) (w : WordB)
  | h (hi lo : Half)
  | illeg (low : BitVec 52)
  | event
  deriving DecidableEq, Repr

/-- The format view of an instruction. -/
def formOf (i : Instr) : Form :=
  match i with
  | .iadd w => .f .iadd w | .iaddc w => .f .iaddc w | .isub w => .f .isub w | .isubb w => .f .isubb w
  | .imul w => .f .imul w | .imulh w => .f .imulh w | .imad w => .f .imad w | .imadw w => .f .imadw w
  | .idiv w => .f .idiv w | .irem w => .f .irem w | .iabs w => .f .iabs w | .ineg w => .f .ineg w
  | .imin w => .f .imin w | .imax w => .f .imax w | .isad w => .f .isad w | .lea w => .f .lea w
  | .idp4 w => .f .idp4 w | .idp2 w => .f .idp2 w | .and w => .f .and w | .or w => .f .or w | .xor w => .f .xor w
  | .andn w => .f .andn w | .orn w => .f .orn w | .shl w => .f .shl w | .shr w => .f .shr w | .sar w => .f .sar w
  | .rot w => .f .rot w | .fsh w => .f .fsh w | .bfe w => .f .bfe w | .bfi w => .f .bfi w | .popc w => .f .popc w
  | .clz w => .f .clz w | .ctz w => .f .ctz w | .brev w => .f .brev w | .bswz w => .f .bswz w
  | .blut w => .f .blut w | .icmp w => .f .icmp w | .sel w => .f .sel w | .mov w => .f .mov w
  | .movl w => .f .movl w | .cvti w => .f .cvti w | .p2v w => .f .p2v w | .v2p w => .f .v2p w
  | .iclamp w => .f .iclamp w | .plut w => .f .plut w | .fadd w => .f .fadd w | .fsub w => .f .fsub w
  | .fmul w => .f .fmul w | .ffma w => .f .ffma w | .fmin w => .f .fmin w | .fmax w => .f .fmax w
  | .fminm w => .f .fminm w | .fmaxm w => .f .fmaxm w | .fcmp w => .f .fcmp w | .fclass w => .f .fclass w
  | .fsgn w => .f .fsgn w | .fscale w => .f .fscale w | .frnd w => .f .frnd w | .fdot2 w => .f .fdot2 w
  | .fdot4 w => .f .fdot4 w | .fadd2 w => .f .fadd2 w | .fmul2 w => .f .fmul2 w | .ffma2 w => .f .ffma2 w
  | .frcp w => .f .frcp w | .frsq w => .f .frsq w | .fsqrt w => .f .fsqrt w | .fdiv w => .f .fdiv w
  | .fexp2 w => .f .fexp2 w | .flog2 w => .f .flog2 w | .fsinpi w => .f .fsinpi w | .fcospi w => .f .fcospi w
  | .ftanh w => .f .ftanh w | .fcvt w => .f .fcvt w | .ftoi w => .f .ftoi w | .itof w => .f .itof w
  | .fcvtsr w => .f .fcvtsr w | .fgete w => .f .fgete w | .fgetm w => .f .fgetm w | .rngpx w => .f .rngpx w
  | .rngf w => .f .rngf w | .exit w => .f .exit w | .nop w => .f .nop w | .trap w => .f .trap w
  | .tret w => .f .tret w | .bkpt w => .f .bkpt w | .movxRead w => .f .movxRead w
  | .movxWrite w => .f .movxWrite w | .shfl w => .f .shfl w | .vote w => .f .vote w | .bcast w => .f .bcast w
  | .matchx w => .f .matchx w | .wsync w => .f .wsync w | .redx w => .f .redx w | .scanx w => .f .scanx w
  | .bar w => .f .bar w | .fence w => .f .fence w | .retain w => .f .retain w | .unpin w => .f .unpin w
  | .copy w => .f .copy w | .copyo w => .f .copyo w | .region w => .f .region w | .rgnclr w => .f .rgnclr w
  | .touch w => .f .touch w | .cseal w => .f .cseal w | .cwait w => .f .cwait w | .ctest w => .f .ctest w
  | .waitp w => .f .waitp w | .bari w => .f .bari w | .bara w => .f .bara w | .barw w => .f .barw w
  | .bart w => .f .bart w | .barcnt w => .f .barcnt w | .tld w => .f .tld w | .tst w => .f .tst w
  | .tzero w => .f .tzero w | .mma w => .f .mma w | .mloop w => .f .mloop w | .mvloop w => .f .mvloop w
  | .mgenIdent w => .f .mgenIdent w | .mgenOnes w => .f .mgenOnes w | .mgenPerm w => .f .mgenPerm w
  | .accz w => .f .accz w | .accld w => .f .accld w | .accst w => .f .accst w | .accrd w => .f .accrd w
  | .mwait w => .f .mwait w | .spawn w => .f .spawn w | .spawnj w => .f .spawnj w | .yield w => .f .yield w
  | .tsend w => .f .tsend w | .svc w => .f .svc w | .sret w => .f .sret w | .errinjReg w => .f .errinjReg w
  | .errinjMem w => .f .errinjMem w | .errinjCe w => .f .errinjCe w | .errinjSpad w => .f .errinjSpad w
  | .uisend w => .f .uisend w | .uiwait w => .f .uiwait w | .uiret w => .f .uiret w
  | .pref w => .m .pref w | .ld w => .m .ld w | .st w => .m .st w | .atom w => .m .atom w | .red w => .m .red w
  | .lds w => .m .lds w | .sts w => .m .sts w | .atoms w => .m .atoms w | .waitv w => .m .waitv w
  | .cctlIinv w => .m .cctlIinv w | .cctlL1inv w => .m .cctlL1inv w | .cctlClean w => .m .cctlClean w
  | .cctlDemote w => .m .cctlDemote w
  | .bra w => .b .bra w | .brx w => .b .brx w | .call w => .b .call w | .callx w => .b .callx w
  | .ret w => .b .ret w | .loop w => .b .loop w | .lbrk w => .b .lbrk w | .reform w => .b .reform w
  | .pairedWord hi lo => .h hi lo
  | .illeg low => .illeg low
  | .issueAtLend => .event | .loadComplete .. => .event | .waitvReread .. => .event | .copyComplete .. => .event
  | .chunkPresent .. => .event | .stagingComplete .. => .event | .kStepComplete .. => .event
  | .matrixComplete .. => .event | .longComplete .. => .event | .rotation .. => .event
  | .waitcPriority .. => .event | .spillRestore .. => .event | .lineAgeTrigger .. => .event
  | .lineDispatch .. => .event | .warpEnd .. => .event | .faultTableAdmit .. => .event
  | .faultdoneRetry .. => .event | .faultdoneDeny .. => .event | .pageIn .. => .event | .tlbinvPage .. => .event
  | .tlbinvContext .. => .event | .tlbinvPartition .. => .event | .tlbinvDone .. => .event
  | .retregWrite .. => .event | .notify .. => .event | .candidateRead .. => .event | .workgroupPlace .. => .event
  | .recordStart .. => .event | .workgroupEnd .. => .event | .joinDecrement .. => .event | .fenceCore .. => .event
  | .swap .. => .event | .sliceEnd .. => .event | .drainTimeout .. => .event | .workgroupRestore .. => .event
  | .uiDiversion .. => .event | .hostInterruptWrite .. => .event | .fabricUint .. => .event
  | .fabricTask .. => .event | .taskLanding .. => .event | .sessionEstablish .. => .event | .portLoss .. => .event
  | .completionTimeout .. => .event | .expanderLostNotice .. => .event | .portClr .. => .event
  | .linkTrain .. => .event | .hostMemRead .. => .event | .hostMemWrite .. => .event | .hostAtomicop .. => .event
  | .snpdata .. => .event | .snpinv .. => .event | .snpcur .. => .event | .birsp .. => .event
  | .extentOffer .. => .event | .extentRelease .. => .event | .extentAccepted .. => .event
  | .extentReleased .. => .event | .checkpointSave .. => .event | .checkpointRestore .. => .event
  | .checkpointResume .. => .event | .checkpointUnit .. => .event | .partset .. => .event | .keyload .. => .event
  | .keykill .. => .event | .keykillAck .. => .event | .ctxprot .. => .event | .ctxunprot .. => .event
  | .dbgunlock .. => .event | .attest .. => .event | .pcmdUnknown .. => .event | .scrubGranule .. => .event
  | .open .. => .event | .cread .. => .event | .cwrite .. => .event | .patrolRequest .. => .event
  | .dbgmem .. => .event | .mgmtReset .. => .event | .mctpControl => .event | .coldReset => .event
  | .warmReset => .event | .functionLevelReset .. => .event | .bootstage .. => .event | .thermal .. => .event
  | .fatal .. => .event | .clockGate .. => .event | .activate .. => .event | .directedRefresh .. => .event
  | .refreshWindowWrap .. => .event | .sparingStart .. => .event | .sparingRowCopy .. => .event
  | .remapEntryWrite .. => .event | .tokenRefill .. => .event | .lodgeStart .. => .event
  | .lodgeQueueNotify .. => .event | .lodgeRecordWrite .. => .event | .registerWrite .. => .event
  | .writeAcknowledged .. => .event | .atomicComplete .. => .event | .l2rctlWrite .. => .event

end Sys2Proof
end

