-- ==== Sys2Proof/Machine/Positions.lean ====
section
/-! DEFINITION. What each operand position of each form accepts (R78, R83 to R87 and the tables of the instruction
chapters), as data read by both the decoder and the well-formedness check. -/

namespace Sys2Proof

/-- Which special operands (R14) a source position accepts. -/
inductive SpecialAcc where
  /-- none of them -/
  | no
  /-- %active alone (R193) -/
  | active
  /-- the uniform ones (R78) -/
  | uniform
  /-- every one of them -/
  | any
  deriving DecidableEq, Repr

/-- Which inline constants (R84) a source position accepts. -/
inductive ConstAcc where
  | no
  | int
  | fp (t : FType)
  deriving DecidableEq, Repr

/-- An operand position of a form. -/
inductive PosSpec where
  /-- not used: code 0, last-use and wait bits 0 (R78) -/
  | none
  /-- a destination: v and s registers whose number is a multiple of `step`, with `span` registers up to number 255 -/
  | dst (v s : Bool) (step span : Nat)
  /-- a source: v and s registers in steps of `step` (2 for a 64-bit operand, R11), specials, constants, the literal;
  `last` for a position that takes a last-use bit on a v register -/
  | src (v s : Bool) (special : SpecialAcc) (const : ConstAcc) (lit : Bool) (step : Nat) (last : Bool)
  /-- a predicate source, `neg` if it may be negated (R86) -/
  | predSrc (neg : Bool)
  /-- a predicate destination (R86) -/
  | predDst
  /-- an extension modifier field with the codes it accepts; `wait` if its wait bit may be 1 (R78, R323) -/
  | ext (codes : List Nat) (wait : Bool)
  deriving DecidableEq, Repr

/-- The four operand positions of a format F or X word. -/
structure SpecF where
  d : PosSpec
  a : PosSpec
  b : PosSpec
  c : PosSpec
  deriving DecidableEq, Repr

/-- Registers an operand of n bits takes (R11). -/
def regsOf (n : Nat) : Nat := if n = 64 then 2 else 1

/-- The width of an integer type code (R79). -/
def ityBits (ty : Nat) : Nat := 8 * 2 ^ (ty % 4)

/-- The format of a TY code of groups 0x3 and 0x4 (R79). -/
def ftyOf (ty : Nat) : FType :=
  match ty with
  | 0 => .f16 | 1 => .bf16 | 2 => .f32 | 3 => .f64 | 4 => .e5m2 | 5 => .e4m3 | _ => .e2m1

/-- The integer type of a TY code of groups 0x0 to 0x2 (R79). -/
def ityOf (ty : Nat) : IType :=
  match ty with
  | 0 => .s8 | 1 => .s16 | 2 => .s32 | 3 => .s64 | 4 => .z8 | 5 => .z16 | 6 => .z32 | _ => .z64

/-- Bits of a register format. -/
def FType.bits : FType → Nat
  | .f16 => 16 | .bf16 => 16 | .f32 => 32 | .f64 => 64 | .e5m2 => 8 | .e4m3 => 8 | .e2m1 => 4

/-- The floating-point constant codes that format t accepts (R84), counted from 496. -/
def fpConstOk (t : FType) (n : Nat) : Bool :=
  match t with
  | .e4m3 => n != 14
  | .e2m1 => n != 14 && n != 0 && n != 12
  | _ => true

/-! Shorthands of the position tables. -/

/-- A source of an integer type of n bits. -/
def srcI (n : Nat) : PosSpec := .src true true .any .int true (regsOf n) true
/-- A source of a floating-point format. -/
def srcF (t : FType) : PosSpec := .src true true .any (.fp t) true (regsOf t.bits) true
/-- A uniform u32 source of format X (R78). -/
def srcU : PosSpec := .src false true .uniform .int true 1 false
/-- An s register, an integer constant or the literal. -/
def srcS (n : Nat) : PosSpec := .src false true .no .int true (regsOf n) false
/-- An even s pair or the literal. -/
def srcPair : PosSpec := .src false true .no .no true 2 false
/-- s registers alone, the first a multiple of n. -/
def srcGroup (n : Nat) : PosSpec := .src false true .no .no false n false
/-- A member mask (R193). -/
def srcMask : PosSpec := .src false true .active .int true 1 false
/-- v or s registers alone, the first a multiple of n. -/
def srcR (n : Nat) : PosSpec := .src true true .no .no false n true
/-- A destination of n bits, v or s. -/
def dstR (n : Nat) : PosSpec := .dst true true (regsOf n) (regsOf n)
/-- A destination of n bits, s alone. -/
def dstS (n : Nat) : PosSpec := .dst false true (regsOf n) (regsOf n)
/-- A tile register (R323). -/
def tilePos : PosSpec := .ext (List.range 8) false
/-- An accumulator (R323); its wait bit acts on the lease (R322). -/
def accPos : PosSpec := .ext [0, 1] true

/-- The type classes of R99 and R124. -/
def tyW : List Nat := [2, 3, 6, 7]
/-- Signed types (R99). -/
def tyS : List Nat := [0, 1, 2, 3]
/-- Every integer type (R99). -/
def tyAll : List Nat := List.range 8

/-- Gives the positions when a condition on the modifiers holds. -/
def specIf (ok : Bool) (d a b c : PosSpec) : Option SpecF := if ok then some ⟨d, a, b, c⟩ else Option.none

/-- Index and width of each control register (R15). -/
def ctlRegs : List (Nat × Nat) :=
  [(0x00, 32), (0x01, 32), (0x04, 64), (0x05, 32), (0x06, 32), (0x07, 32), (0x08, 64), (0x09, 64), (0x0A, 64),
   (0x10, 64), (0x11, 64), (0x12, 64), (0x13, 64)] ++
  (List.range 8).map (fun i => (0x18 + i, 32)) ++ [(0x20, 32), (0x21, 64), (0x22, 64)] ++
  (List.range 4).map (fun i => (0x30 + i, 64)) ++ (List.range 4).map (fun i => (0x34 + i, 64)) ++
  (List.range 4).map (fun i => (0x38 + i, 32)) ++ (List.range 4).map (fun i => (0x3C + i, 32))

/-- The width of a control register. -/
def ctlWidth (i : Nat) : Option Nat := (ctlRegs.find? (fun e => e.1 == i)).map Prod.snd

/-- The ext codes of REDX and SCANX (R197). -/
def ropExt (scan : Bool) (rop : Nat) : List Nat :=
  (List.range 64).filter (fun n =>
    (n / 32 == 0 || scan) && (n / 8 % 4 == 0 || rop == 7) && (n % 8 == 0 || (rop == 6 && n % 8 ≤ 4)))

/-- The ext codes of ACCRD for a type code (R339). -/
def accrdExt (ty : Nat) : List Nat :=
  (List.range 16).filter (fun n =>
    !(ty == 3 && n % 4 == 0) && (n / 4 % 2 == 0 || (if n ≥ 8 then ty != 3 else ty == 4 || ty == 5)))

/-- The ext codes of FCVT for a destination type code (R141, R142). -/
def fcvtExt (ty : Nat) : List Nat :=
  (List.range 16).filter (fun n => n % 8 ≤ 6 && (n / 8 == 0 || ty == 4 || ty == 5))

/-- The positions of an integer form: a type class, the sub-ops, and which sources it has. -/
def specInt (mod : Nat) (tys subs : List Nat) (b c : Bool) : Option SpecF :=
  let t := mod / 8
  let n := ityBits t
  specIf (tys.contains t && subs.contains (mod % 8)) (dstR n) (srcI n) (if b then srcI n else .none)
    (if c then srcI n else .none)

/-- The positions of a floating-point form of one type. -/
def specFp (mod : Nat) (tys rmf : List Nat) (b c : Bool) : Option SpecF :=
  let t := ftyOf (mod / 8)
  specIf (tys.contains (mod / 8) && rmf.contains (mod % 8)) (dstR t.bits) (srcF t) (if b then srcF t else .none)
    (if c then srcF t else .none)

/-- The positions of a packed form of one 32-bit register (R131, R132); `wideC` when d and c are binary32. -/
def specPacked (mod : Nat) (tys : List Nat) (c wideC : Bool) : Option SpecF :=
  let t := ftyOf (mod / 8)
  let p : PosSpec := .src true true .any (.fp t) true 1 true
  specIf (tys.contains (mod / 8) && decide (mod % 8 ≤ 4)) (dstR 32) p p
    (if wideC then srcF .f32 else if c then p else .none)

/-- RMF values of the instructions that round. -/
def rmfs : List Nat := [0, 1, 2, 3, 4]

/-- Which of several forms of one opcode a MOD value selects (R167, R323, R377); every other form has its opcode alone. -/
def FKind.selects (k : FKind) (mod : Nat) : Bool :=
  match k with
  | .movxRead => mod % 2 == 0
  | .movxWrite => mod % 2 == 1
  | .mgenIdent => mod % 4 == 0
  | .mgenPerm => mod % 4 == 1
  | .mgenOnes => mod % 4 == 2
  | .errinjReg => mod % 4 == 0
  | .errinjMem => mod % 4 == 1
  | .errinjCe => mod % 4 == 2
  | .errinjSpad => mod % 4 == 3
  | _ => true

/-- Opcodes a form takes (R93). -/
def FKind.block (k : FKind) : Nat :=
  match k with
  | .blut | .plut | .redx | .scanx => 8
  | _ => 1

/-- The positions of a format F or X form under its MOD field, its sub-op, and the codes that stand in SB and SC; none
where the MOD field holds no value the form accepts (DETAIL 0x0006). An extension code that is not listed gives the width of its low
bits here (log 18). -/
def fSpec (k : FKind) (mod sub cb cc : Nat) : Option SpecF :=
  let t := mod / 8
  let n := ityBits t
  match k with
  | .iadd | .isub | .imul => specInt mod tyAll [0, 1] true false
  | .iaddc | .isubb => specIf (tyW.contains t && mod % 8 == 0) (dstR n) (srcI n) (srcI n) (.predSrc false)
  | .imulh => specInt mod tyW [0] true false
  | .imad => specInt mod tyAll [0, 1] true true
  | .imadw => specIf (mod == 0x10 || mod == 0x30) (dstR 64) (srcI 32) (srcI 32) (srcI 64)
  | .idiv | .irem | .imin | .imax => specInt mod tyAll [0] true false
  | .iabs => specInt mod tyS [0, 1] false false
  | .ineg => if t ≥ 4 then specInt mod tyAll [0] false false else specInt mod tyAll [0, 1] false false
  | .isad => specInt mod tyAll [0] true true
  | .lea => specIf (tyW.contains t) (dstR 64) (srcI 64) (srcI n) .none
  | .idp4 => specIf ((t == 0 || t == 4) && decide (mod % 8 ≤ 3)) (dstR 32) (srcI 32) (srcI 32) (srcI 32)
  | .idp2 => specIf ((t == 1 || t == 5) && decide (mod % 8 ≤ 3)) (dstR 32) (srcI 32) (srcI 32) (srcI 32)
  | .and | .or | .xor | .andn | .orn => specInt mod tyW [0] true false
  | .shl | .shr | .sar | .rot =>
    specIf (tyW.contains t && decide (mod % 8 ≤ 1)) (dstR n) (srcI n) (srcI 32) .none
  | .fsh => specIf (tyW.contains t && decide (mod % 8 ≤ 3)) (dstR n) (srcI n) (srcI n) (srcI 32)
  | .bfe => specIf (tyW.contains t && mod % 8 == 0) (dstR n) (srcI n) (srcI 32) .none
  | .bfi => specIf (tyW.contains t && mod % 8 == 0) (dstR n) (srcI n) (srcI n) (srcI 32)
  | .popc | .clz | .ctz => specIf (tyW.contains t && mod % 8 == 0) (dstR 32) (srcI n) .none .none
  | .brev => specInt mod tyW [0] false false
  | .bswz => specInt mod [6] [0] true true
  | .blut =>
    let m := if mod % 2 = 1 then 64 else 32
    specIf true (dstR m) (srcI m) (srcI m) (srcI m)
  | .icmp => specIf (decide (mod % 8 ≤ 5)) .predDst (srcI n) (srcI n) (.predSrc true)
  | .sel => specIf (tyW.contains t && mod % 8 == 0) (dstR n) (srcI n) (srcI n) (.predSrc true)
  | .mov => specInt mod tyW [0] false false
  | .movl => specIf (mod == 0x38) (dstR 64) (srcI 32) (srcI 32) .none
  | .cvti => specIf true (dstR n) (srcI (ityBits (mod % 8))) .none (.ext [0, 1] false)
  | .p2v => specIf (mod == 0x30) (.dst true false 1 1) .none .none .none
  | .v2p => specIf (mod == 0x30) .none (srcI 32) (srcI 32) .none
  | .iclamp => specInt mod tyAll [0] true true
  | .plut => specIf (mod % 2 == 0) .predDst (.predSrc true) (.predSrc true) (.predSrc true)
  | .fadd | .fsub | .fmul => specFp mod tyS rmfs true false
  | .ffma => specFp mod tyS rmfs true true
  | .fmin | .fmax | .fminm | .fmaxm => specFp mod tyS [0] true false
  | .fcmp =>
    specIf (decide (t ≤ 3) && mod % 8 == 0) .predDst (srcF (ftyOf t)) (srcF (ftyOf t)) (.ext (List.range 16) false)
  | .fclass => specIf (decide (t ≤ 6) && mod % 8 == 0) (dstR 32) (srcF (ftyOf t)) .none .none
  | .fsgn =>
    specIf (decide (t ≤ 3) && mod % 8 == 0) (dstR (ftyOf t).bits) (srcF (ftyOf t)) (srcF (ftyOf t))
      (.ext [0, 1, 2] false)
  | .fscale =>
    specIf (decide (t ≤ 3) && decide (mod % 8 ≤ 4)) (dstR (ftyOf t).bits) (srcF (ftyOf t)) (srcI 32) .none
  | .frnd => specFp mod tyS rmfs false false
  | .fdot2 => specPacked mod [0, 1] true true
  | .fdot4 => specPacked mod [4, 5] true true
  | .fadd2 | .fmul2 => specPacked mod [0, 1] false false
  | .ffma2 => specPacked mod [0, 1] true false
  | .frcp | .frsq | .fexp2 | .flog2 | .fsinpi | .fcospi | .ftanh => specFp mod [0, 1, 2] [0] false false
  | .fsqrt => specFp mod tyS rmfs false false
  | .fdiv => specFp mod tyS rmfs true false
  | .fcvt =>
    specIf (decide (t ≤ 6) && decide (mod % 8 ≤ 4)) (dstR (ftyOf t).bits)
      (srcF (if cc % 8 ≤ 6 then ftyOf (cc % 8) else .f32)) .none (.ext (fcvtExt t) false)
  | .ftoi =>
    specIf (decide (t ≤ 6) && decide (mod % 8 ≤ 4)) (dstR (ityBits cc)) (srcF (ftyOf t)) .none
      (.ext (List.range 8) false)
  | .itof =>
    specIf (decide (t ≤ 3) && decide (mod % 8 ≤ 4)) (dstR (ftyOf t).bits) (srcI (ityBits cc)) .none
      (.ext (List.range 8) false)
  | .fcvtsr =>
    specIf ([0, 1, 4, 5, 6].contains t && mod % 8 == 0) (dstR (ftyOf t).bits) (srcF .f32) (srcI 32)
      (.ext (if t = 6 then [0] else [0, 1]) false)
  | .fgete => specIf (decide (t ≤ 3) && mod % 8 == 0) (dstR 32) (srcF (ftyOf t)) .none .none
  | .fgetm => specFp mod tyS [0] false false
  | .rngpx => specIf (mod == 0) (.dst true true 4 4) (srcR 4) (srcR 2) .none
  | .rngf => specIf (mod == 0x10 || mod == 0x18) (dstR (ftyOf t).bits) (srcI 32) .none .none
  | .exit | .nop | .tret | .bar | .uiret => specIf (mod == 0) .none .none .none .none
  | .trap | .bkpt => specIf (mod == 0) .none (srcS 32) .none .none
  | .movxRead =>
    let m := if mod / 2 % 2 = 1 then 64 else 32
    specIf (decide (mod / 4 = 0) && (ctlWidth cb).all (· == m)) (dstS m) .none
      (.ext (ctlRegs.map Prod.fst) false) .none
  | .movxWrite =>
    let m := if mod / 2 % 2 = 1 then 64 else 32
    specIf (decide (mod / 4 = 0) && (ctlWidth cb).all (· == m)) .none (srcS m)
      (.ext (ctlRegs.map Prod.fst) false) .none
  | .shfl =>
    let m := if mod / 8 % 2 = 1 then 64 else 32
    specIf true (dstR m) (srcI m) (srcI 32) srcMask
  | .vote =>
    specIf (decide (mod / 8 ≤ 2)) (if mod / 8 = 2 then dstR 32 else .predDst) (.predSrc true) .none srcMask
  | .bcast =>
    let m := if mod / 8 % 2 = 1 then 64 else 32
    specIf (mod / 32 == 0) (dstR m) (srcI m) (if mod / 16 = 1 then .none else srcU) .none
  | .matchx =>
    let m := if mod / 8 % 2 = 1 then 64 else 32
    specIf (decide (mod / 16 ≤ 1)) (dstR 32) (srcI m) .none srcMask
  | .wsync => specIf (mod == 0) .none srcMask .none .none
  | .redx =>
    if sub ≤ 5 then specIf (tyW.contains t) (dstR n) (srcI n) (.ext (ropExt false sub) false) srcMask
    else specIf (decide (t ≤ 3)) (dstR (ftyOf t).bits) (srcF (ftyOf t)) (.ext (ropExt false sub) false) srcMask
  | .scanx =>
    if sub ≤ 5 then specIf (tyW.contains t) (dstR n) (srcI n) (.ext (ropExt true sub) false) srcMask
    else specIf (decide (t ≤ 3)) (dstR (ftyOf t).bits) (srcF (ftyOf t)) (.ext (ropExt true sub) false) srcMask
  | .fence => specIf (mod % 4 == 0 && mod / 16 != 0) .none .none .none .none
  | .retain => specIf (mod == 0) (dstS 32) srcPair srcPair (.src false true .no .int false 1 false)
  | .unpin => specIf (mod == 0) (dstS 32) (.src false true .no .int false 1 false) .none .none
  | .copy => specIf (decide (mod ≤ 1)) .none (srcGroup 8) .none .none
  | .copyo => specIf (decide (mod ≤ 1)) .none (srcGroup 8) srcU .none
  | .region => specIf (mod == 0) (dstS 32) srcU (srcGroup 8) .none
  | .rgnclr | .touch | .cwait | .mwait | .svc => specIf (mod == 0) .none srcU .none .none
  | .cseal | .yield => specIf (mod == 0) (dstS 32) .none .none .none
  | .ctest => specIf (mod == 0) .predDst srcU .none .none
  | .waitp | .bari | .barw => specIf (mod == 0) .none srcU srcU .none
  | .bara => specIf (decide (mod ≤ 1)) (dstS 32) srcU srcU .none
  | .bart => specIf (mod == 0) .predDst srcU srcU .none
  | .barcnt => specIf (mod == 0) (dstS 64) srcU .none .none
  | .tld | .tst => specIf (mod == 0) .none tilePos srcU srcU
  | .tzero => specIf (mod == 0) .none tilePos .none .none
  | .mma => specIf (mod == 0) .none tilePos tilePos accPos
  | .mloop => specIf (mod % 4 == 0 && mod / 16 != mod / 4 % 4) .none srcU (srcGroup 4) accPos
  | .mvloop => specIf true .none srcPair srcU accPos
  | .mgenIdent | .mgenOnes => specIf (decide (mod / 4 = 0)) .none tilePos .none .none
  | .mgenPerm => specIf (decide (mod / 4 = 0)) .none tilePos tilePos .none
  | .accz => specIf (decide (mod ≤ 1)) .none .none .none accPos
  | .accld => specIf (decide (mod ≤ 1)) .none srcU .none accPos
  | .accst => specIf (mod == 0) .none srcU .none accPos
  | .accrd =>
    let ok := if cb / 8 % 2 = 1 then (t == 2 || t == 3) && mod % 8 == 0 else decide (t ≤ 6) && decide (mod % 8 ≤ 4)
    specIf ok (.dst true true (if t = 3 then 2 else 1) (2 ^ (cb % 4))) srcU (.ext (accrdExt t) false) accPos
  | .spawn => specIf (mod == 0) (dstS 32) srcPair .none .none
  | .spawnj => specIf (mod == 0) (dstS 32) srcPair srcPair .none
  | .tsend => specIf (mod == 0) (dstS 32) srcPair srcPair srcU
  | .sret => specIf (mod == 0) .none (.src true false .no .no true 2 true) .none .none
  | .errinjReg => specIf (decide (mod / 4 = 0)) (dstR 32) .none .none .none
  | .errinjMem | .errinjCe => specIf (decide (mod / 4 = 0)) .none (srcR 2) .none .none
  | .errinjSpad => specIf (decide (mod / 4 = 0)) .none (srcR 1) .none .none
  | .uisend => specIf (mod == 0) .none srcU srcU (srcS 64)
  | .uiwait => specIf (decide (mod ≤ 1)) (dstS 32) .none .none .none

/-- Forms whose s destination is illegal whatever the sources (R195, R323). -/
def FKind.noUniformDst (k : FKind) (mod : Nat) : Bool :=
  match k with
  | .shfl | .scanx | .accrd => true
  | .matchx => mod / 16 == 0
  | _ => false

/-- The four forms that give a uniform result from vector sources (R87, R195). -/
def FKind.exemptUniform (k : FKind) : Bool :=
  match k with
  | .bcast | .redx | .vote | .matchx => true
  | _ => false

/-- Opcodes a format M form takes (R93). -/
def MKind.block (k : MKind) : Nat :=
  match k with
  | .ld | .st | .lds | .sts | .waitv => 8
  | .atom | .red | .atoms => 16
  | _ => 1

/-- Which CCTL form an XM value selects (R271). -/
def MKind.selects (k : MKind) (xm : Nat) : Bool :=
  match k with
  | .cctlIinv => xm == 0
  | .cctlL1inv => xm == 1
  | .cctlClean => xm == 2
  | .cctlDemote => xm == 3
  | _ => true

/-- The sub-op values of a format M form (R256). -/
def MKind.subOk (k : MKind) (sub : Nat) : Bool :=
  match k with
  | .ld | .lds => decide (sub ≤ 6)
  | .st | .sts => [0, 2, 4, 5, 6].contains sub
  | .atom | .atoms => decide (sub ≤ 14)
  | .red => decide (sub ≤ 14) && sub != 8 && sub != 9
  | .waitv => decide (sub ≤ 7)
  | _ => sub == 0

/-- The cache class, ordering, scope and XM values of a format M form (R256). -/
def MKind.modOk (k : MKind) (sub : Nat) (cls ord scp xm : Nat) : Bool :=
  match k with
  | .ld => decide (cls ≤ 2) && decide (ord ≤ 1) && (xm == 0 || (xm == 1 && sub == 6))
  | .st => decide (cls ≤ 2) && (ord == 0 || ord == 2) && (xm == 0 || (xm == 1 && sub == 6))
  | .atom => decide (cls ≤ 2) && decide (xm ≤ 1)
  | .red => decide (cls ≤ 2) && (ord == 0 || ord == 2) && decide (xm ≤ 1)
  | .pref => decide (cls ≤ 2) && ord == 0 && scp == 2 && decide (xm ≤ 1)
  | .lds => cls == 0 && decide (ord ≤ 1) && xm == 0
  | .sts => cls == 0 && (ord == 0 || ord == 2) && xm == 0
  | .atoms => cls == 0 && decide (xm ≤ 1)
  | .waitv => cls == 0 && decide (ord ≤ 1) && decide (xm ≤ 1)
  | .cctlIinv | .cctlL1inv | .cctlClean | .cctlDemote => cls == 0 && ord == 0 && scp == 2

/-- Registers the data of a load or store of size code SZ takes (R93, R260). -/
def szRegs (sub : Nat) : Nat := if sub = 6 then 4 else if sub = 5 then 2 else 1

/-- The DATA position of a format M form (R256). -/
def mData (k : MKind) (sub xm : Nat) : PosSpec :=
  let wide := if xm % 2 = 1 then 2 else 1
  match k with
  | .ld | .lds => .dst true true (szRegs sub) (szRegs sub)
  | .st | .sts =>
    if sub = 6 then .src true true .no .no false 4 true else .src true true .no .int true (szRegs sub) true
  | .atom | .atoms => .src true true .no .no false (if sub = 9 then 2 * wide else wide) false
  | .red | .waitv => .src true true .no .int true wide true
  | .pref | .cctlIinv | .cctlL1inv | .cctlClean | .cctlDemote => .none

/-- The BASE position of a format M form (R80, R256, R271). -/
def mBase (k : MKind) : PosSpec :=
  match k with
  | .lds | .sts | .atoms => srcR 1
  | .cctlIinv => .src false true .no .no false 160 false
  | _ => srcR 2

/-- Whether DATA is a destination of the form (R256). -/
def MKind.dataIsDst (k : MKind) : Bool :=
  match k with
  | .ld | .lds | .atom | .atoms => true
  | _ => false

/-- Whether DATA is a pure source of the form (R76). -/
def MKind.dataIsSrc (k : MKind) : Bool :=
  match k with
  | .st | .sts | .red | .waitv => true
  | _ => false

/-- Whether the form uses DISP (R150, R196). -/
def BKind.usesDisp (k : BKind) : Bool :=
  match k with
  | .bra | .call | .loop | .reform => true
  | _ => false

/-- The CT position of a format B form (R151). -/
def BKind.ct (k : BKind) : PosSpec :=
  match k with
  | .brx | .callx | .ret => .src true true .no .no true 2 true
  | .loop => srcS 32
  | _ => .none

/-- The BMOD values of a format B form (R150, R151, R196). -/
def BKind.bmodOk (k : BKind) (bmod : Nat) : Bool :=
  match k with
  | .call | .callx => bmod % 32 == 0 && bmod / 32 % 2 == 0
  | .lbrk => decide (bmod ≤ 3)
  | .reform => decide (bmod ≤ 32)
  | _ => bmod == 0

/-- TRAPCAUSE.OPND of a bad BMOD: 4 for an odd return register (R151). -/
def BKind.bmodOpnd (k : BKind) (bmod : Nat) : Nat :=
  match k with
  | .call | .callx => if bmod % 32 = 0 then 4 else 0
  | _ => 0

/-- The half-op of a half-opcode (R91). -/
def halfOpOf (n : Nat) : Option HalfOp :=
  match n with
  | 0x01 => some .iadd | 0x02 => some .isub | 0x03 => some .imul | 0x04 => some .imin | 0x05 => some .imax
  | 0x08 => some .and | 0x09 => some .or | 0x0A => some .xor | 0x0B => some .andn | 0x0C => some .shl
  | 0x0D => some .shr | 0x0E => some .sar
  | 0x20 => some .fadd | 0x21 => some .fsub | 0x22 => some .fmul | 0x23 => some .fmin | 0x24 => some .fmax
  | 0x28 => some .fadd2 | 0x29 => some .fmul2
  | _ => Option.none

/-- The half-opcode of a half-op (R91). -/
def HalfOp.code : HalfOp → Nat
  | .iadd => 0x01 | .isub => 0x02 | .imul => 0x03 | .imin => 0x04 | .imax => 0x05
  | .and => 0x08 | .or => 0x09 | .xor => 0x0A | .andn => 0x0B | .shl => 0x0C | .shr => 0x0D | .sar => 0x0E
  | .fadd => 0x20 | .fsub => 0x21 | .fmul => 0x22 | .fmin => 0x23 | .fmax => 0x24
  | .fadd2 => 0x28 | .fmul2 => 0x29

/-- The format of an HMOD format code (R91). -/
def hmodFmt (hmod : Nat) : FType := if hmod / 8 = 0 then .f16 else if hmod / 8 = 1 then .bf16 else .f32

/-- The HS position of a half-op, none where HMOD holds no value it accepts (R91). -/
def halfSpec (op : HalfOp) (hmod : Nat) : Option PosSpec :=
  let t := hmodFmt hmod
  match op with
  | .iadd | .isub | .imul | .imin | .imax | .and | .or | .xor | .andn | .shl | .shr | .sar =>
    if hmod % 16 = 0 then some (.src true true .any .int false 1 true) else Option.none
  | .fadd | .fsub | .fmul =>
    if hmod / 8 ≤ 2 ∧ hmod % 8 ≤ 4 then some (.src true true .any (.fp t) false 1 true) else Option.none
  | .fmin | .fmax =>
    if hmod / 8 ≤ 2 ∧ hmod % 8 = 0 then some (.src true true .any (.fp t) false 1 true) else Option.none
  | .fadd2 | .fmul2 =>
    if hmod / 8 ≤ 1 ∧ hmod % 8 ≤ 4 then some (.src true true .any (.fp t) false 1 true) else Option.none

end Sys2Proof
end

