-- ==== Sys2Proof/Machine/Words.lean ====
section
/-! DEFINITION. Operand codes (R83 to R87): how a position reads a code with its last-use and wait bits, the code of an
operand, and the checks 7 to 13 of R97 for one position. -/

namespace Sys2Proof

/-- An operand field as it stands in a word: its code, last-use bit and wait bit. -/
structure RawOpd where
  code : BitVec 9
  lu : Bool
  w : Bool
  deriving DecidableEq, Repr

/-- The code of a source (R83). -/
def Src.code : Src → Nat
  | .v n => n.val
  | .s n => 256 + n.val
  | .special n => 416 + n.val
  | .int n => 448 + n.val
  | .fp n => 496 + n.val
  | .lit _ => 511

/-- What a code names; `lit` is the literal word (R83, R85). -/
def srcOfCode (code : Nat) (lit : Dword) : Option Src :=
  if h : code < 256 then some (.v ⟨code, h⟩)
  else if h : code - 256 < 160 then some (.s ⟨code - 256, h⟩)
  else if h : code - 416 < 23 then some (.special ⟨code - 416, h⟩)
  else if code < 448 then none
  else if h : code - 448 < 48 then some (.int ⟨code - 448, h⟩)
  else if h : code - 496 < 15 then some (.fp ⟨code - 496, h⟩)
  else some (.lit lit)

/-- The per-lane special operands (R14): %lane, %tid and %lanemask, counted from 416. -/
def specialPerLane (n : Nat) : Bool := n == 0 || n == 1 || (decide (13 ≤ n) && decide (n ≤ 17))

/-- Special operand n is accepted; at 64-bit width %clockhi and %frame.hi are not (R14). -/
def specialOk (a : SpecialAcc) (wide : Bool) (n : Nat) : Bool :=
  (match a with
    | .no => false
    | .active => n == 12
    | .uniform => !specialPerLane n
    | .any => true) && !(wide && (n == 19 || n == 21))

/-- A source position accepts what a code names (R83, R84). -/
def srcAccepts (v s : Bool) (sp : SpecialAcc) (c : ConstAcc) (lit : Bool) (step : Nat) (o : Src) : Bool :=
  match o with
  | .v n => v && n.val % step == 0
  | .s n => s && n.val % step == 0
  | .special n => specialOk sp (step == 2) n.val
  | .int _ => c == .int
  | .fp n => (match c with
    | .fp t => fpConstOk t n.val
    | _ => false)
  | .lit _ => lit

/-- A position accepts a code (checks 8 to 11 of R97). -/
def PosSpec.accepts (p : PosSpec) (code : Nat) : Bool :=
  match p with
  | .none => true
  | .dst v s step span =>
    match srcOfCode code 0 with
    | some (.v n) => v && n.val % step == 0 && decide (n.val + span ≤ 256)
    | some (.s n) => s && n.val % step == 0
    | _ => false
  | .src v s sp c lit step _ =>
    match srcOfCode code 0 with
    | some o => srcAccepts v s sp c lit step o
    | Option.none => false
  | .predSrc neg => decide (code < 16) && (neg || decide (code < 8))
  | .predDst => decide (code < 8)
  | .ext codes _ => codes.contains code

/-- An unused position holds zeros (check 7). -/
def PosSpec.unusedOk (p : PosSpec) (r : RawOpd) : Bool :=
  match p with
  | .none => r.code == 0 && !r.lu && !r.w
  | _ => true

/-- The last-use bit stands only where it may (check 12; R24, R85, R86; log 18). -/
def PosSpec.lastOk (p : PosSpec) (r : RawOpd) : Bool :=
  match p with
  | .none => true
  | .src _ _ _ _ _ _ last => !r.lu || (last && decide (r.code.toNat < 256))
  | _ => !r.lu

/-- The wait bit is one the position may hold (check 13; R28, R78, R85, R86; log 18). -/
def PosSpec.waitOk (p : PosSpec) (r : RawOpd) : Bool :=
  match p with
  | .none => true
  | .dst _ _ _ _ => !r.w
  | .src _ _ _ _ _ _ _ => r.w || decide (r.code.toNat < 416)
  | .predSrc _ => r.w
  | .predDst => !r.w
  | .ext _ wait => wait || !r.w

/-- The operand that a position reads from a field. -/
def PosSpec.readOpd (p : PosSpec) (r : RawOpd) (lit : Dword) : Opd :=
  match p with
  | .none => .none
  | .dst _ _ _ _ | .src _ _ _ _ _ _ _ =>
    match srcOfCode r.code.toNat lit with
    | some o => .src o r.lu r.w
    | Option.none => .none
  | .predSrc _ | .predDst => .pred (r.code.toNat / 8 % 2 == 1) ⟨r.code.toNat % 8, Nat.mod_lt _ (by decide)⟩
  | .ext _ _ => .ext ⟨r.code.toNat, r.code.isLt⟩ r.w

/-- The field that holds an operand at a source position: a predicate source has wait bit 1 (R86). -/
def rawSrc (o : Opd) : RawOpd :=
  match o with
  | .none => ⟨0, false, false⟩
  | .src x lu w => ⟨BitVec.ofNat 9 x.code, lu, w⟩
  | .pred neg p => ⟨BitVec.ofNat 9 ((if neg then 8 else 0) + p.val), false, true⟩
  | .ext n w => ⟨BitVec.ofNat 9 n.val, false, w⟩

/-- The field that holds an operand at a destination position, which has no last-use or wait bit. -/
def rawDst (o : Opd) : RawOpd := ⟨(rawSrc o).code, false, false⟩

/-- The literal word of an operand, if it is the literal. -/
def Opd.lit? (o : Opd) : Option Dword :=
  match o with
  | .src (.lit w) _ _ => some w
  | _ => Option.none

/-- The operand is the literal. -/
def Opd.isLit (o : Opd) : Bool := o.lit?.isSome

/-- The operand at a position is one that the position reads from an acceptable field. -/
def PosSpec.wf (p : PosSpec) (dst : Bool) (o : Opd) : Bool :=
  let r := if dst then rawDst o else rawSrc o
  p.accepts r.code.toNat && p.unusedOk r && p.lastOk r && p.waitOk r && p.readOpd r (o.lit?.getD 0) == o

/-- An operand read per lane: a v register, a per-lane special operand or a predicate (R87, R101). -/
def Opd.perLane (o : Opd) : Bool :=
  match o with
  | .src (.v _) _ _ => true
  | .src (.special n) _ _ => specialPerLane n.val
  | .pred _ _ => true
  | _ => false

/-- The operand is a uniform register. -/
def Opd.isS (o : Opd) : Bool :=
  match o with
  | .src (.s _) _ _ => true
  | _ => false

/-- The uniform-destination rule (check 16; R87, R101, R195, R323) of a format F or X word. -/
def uniformOkF (k : FKind) (mod : Nat) (d a b c : Opd) : Bool :=
  !d.isS || (!k.noUniformDst mod && (k.exemptUniform || !(a.perLane || b.perLane || c.perLane)))

/-- The uniform-destination rule of a format M word (R257). -/
def uniformOkM (k : MKind) (data base : Opd) : Bool :=
  !(k.dataIsDst && data.isS && base.perLane)

end Sys2Proof
end

