-- ==== Sys2Proof/WellFormed.lean ====
section
/-! DEFINITION. Well-formed instructions: those that some word encodes (R78 to R97). A step without a word is well formed. -/

namespace Sys2Proof

/-- The numeric codes of the fields that Syntax names. -/
def CacheClass.code : CacheClass → Nat
  | .normal => 0 | .evictFirst => 1 | .evictLast => 2
/-- ORD codes (R80). -/
def Order.code : Order → Nat
  | .rlx => 0 | .acq => 1 | .rel => 2 | .acqrel => 3
/-- SCP codes (R80). -/
def Scope.code : Scope → Nat
  | .warp => 0 | .wg => 1 | .dev => 2 | .sys => 3

/-- A format F or X word that its form encodes. -/
def wfF (k : FKind) (f : WordF) : Bool :=
  k.selects f.mod.toNat && decide (f.sub.toNat < k.block) &&
  match fSpec k f.mod.toNat f.sub.toNat (rawSrc f.b).code.toNat (rawSrc f.c).code.toNat with
  | none => false
  | some p =>
    p.d.wf true f.dst && p.a.wf false f.a && p.b.wf false f.b && p.c.wf false f.c &&
    decide ((if f.a.isLit then 1 else 0) + (if f.b.isLit then 1 else 0) + (if f.c.isLit then 1 else 0) ≤ 1) &&
    uniformOkF k f.mod.toNat f.dst f.a f.b f.c

/-- A format M word that its form encodes. -/
def wfM (k : MKind) (m : WordM) : Bool :=
  k.selects m.xm.toNat && decide (m.sub.toNat < k.block) && k.subOk m.sub.toNat &&
  k.modOk m.sub.toNat m.cls.code m.ord.code m.scp.code m.xm.toNat &&
  (k != .cctlIinv || m.off == 0) &&
  (mData k m.sub.toNat m.xm.toNat).wf false m.data && (mBase k).wf false m.base && uniformOkM k m.data m.base

/-- A format B word that its form encodes. -/
def wfB (k : BKind) (b : WordB) : Bool :=
  k.bmodOk b.bmod.toNat && (k.usesDisp || b.disp == 0) && k.ct.wf false b.ct

/-- One half of a paired word that its half-op encodes (R91). -/
def wfHalf (h : Half) : Bool :=
  match halfSpec h.op h.hmod.toNat with
  | none => false
  | some p => p.wf false h.hs

/-- Well-formed instructions. -/
def Instr.wf (i : Instr) : Bool :=
  match formOf i with
  | .f k f => wfF k f
  | .m k m => wfM k m
  | .b k b => wfB k b
  | .h hi lo => wfHalf hi && wfHalf lo && hi.hd.val % 2 == 0 && lo.hd.val % 2 == 1
  | .illeg _ => true
  | .event => true

end Sys2Proof
end

