-- ==== Sys2Proof/Decode.lean ====
section
/-! DEFINITION. Decoding of instruction words (R75 to R97), total and rejecting by name, and the encoder. -/

namespace Sys2Proof

/-- The checks of R97, by name. -/
inductive Check where
  | wholeWord | bit62 | opcode | processor | subOp | modifiers | unused | dstCode | firstCode | secondCode | thirdCode
  | lastUse | waitBit | oneLiteral | bankParity | uniformDst
  deriving DecidableEq, Repr

/-- TRAPCAUSE.DETAIL of a check (R97). -/
def Check.detail : Check → Nat
  | .wholeWord => 1 | .bit62 => 2 | .opcode => 3 | .processor => 4 | .subOp => 5 | .modifiers => 6 | .unused => 7
  | .dstCode => 8 | .firstCode => 9 | .secondCode => 10 | .thirdCode => 11 | .lastUse => 12 | .waitBit => 13
  | .oneLiteral => 14 | .bankParity => 15 | .uniformDst => 16

/-- Why a word is ILLEGAL: the first check that fails, TRAPCAUSE.OPND and TRAPCAUSE.H. -/
structure Reject where
  check : Check
  opnd : Nat
  low : Bool
  deriving DecidableEq, Repr

/-- The first check that fails, of a list in order. -/
def firstFail : List (Bool × Reject) → Option Reject
  | [] => none
  | (true, _) :: t => firstFail t
  | (false, r) :: _ => some r

/-- A rejection of a full word. -/
def rej (c : Check) (opnd : Nat) : Reject := ⟨c, opnd, false⟩

/-- Bits of a word. -/
def fld (w : Dword) (lo n : Nat) : BitVec n := w.extractLsb' lo n

/-- Bit 0 or 1 as a Bool. -/
def bit1 (b : BitVec 1) : Bool := b == 1#1

/-- A Bool as a bit. -/
def ofBool1 (b : Bool) : BitVec 1 := if b then 1#1 else 0#1

/-- The guard of a full word (R77). -/
def guardOf (w : Dword) : Guard := ⟨bit1 (fld w 51 1), ⟨(fld w 48 3).toNat, (fld w 48 3).isLt⟩⟩

/-- The opcode of a full word. -/
def opcOf (w : Dword) : Nat := (fld w 52 11).toNat

/-- The form of an opcode among the forms of one format, and the block offset. -/
def FKind.ofOpcode (opc : Nat) : List FKind := FKind.all.filter (fun k => decide (k.opcode ≤ opc ∧ opc < k.opcode + k.block))
/-- As above for format M. -/
def MKind.ofOpcode (opc : Nat) : List MKind := MKind.all.filter (fun k => decide (k.opcode ≤ opc ∧ opc < k.opcode + k.block))
/-- As above for format B. -/
def BKind.ofOpcode (opc : Nat) : Option BKind := BKind.all.find? (fun k => k.opcode == opc)

/-- Opcode groups that raise ILLEGAL on the Lodge (R95). -/
def lodgeBars (opc : Nat) : Bool := opc / 128 == 0x6 || opc / 128 == 0xA || opc / 128 == 0xB

/-- The literal count rule over three positions (check 14); the operand is the second literal. -/
def literalOpnd (a b c : RawOpd) : Option Nat :=
  if a.code == 511#9 && b.code == 511#9 then some 2
  else if (a.code == 511#9 || b.code == 511#9) && c.code == 511#9 then some 3
  else none

/-- A field of an operand position of a word: code and bits. -/
def rawAt (w : Dword) (code lu wt : Nat) : RawOpd := ⟨fld w code 9, bit1 (fld w lu 1), bit1 (fld w wt 1)⟩

/-- Checks 7 to 14 and 16 of a format F or X word under its positions. -/
def checksF (k : FKind) (mod : Nat) (p : SpecF) (d a b c : RawOpd) (lit : Dword) : List (Bool × Reject) :=
  [(p.d.unusedOk d, rej .unused 4), (p.a.unusedOk a, rej .unused 1), (p.b.unusedOk b, rej .unused 2),
   (p.c.unusedOk c, rej .unused 3),
   (p.d.accepts d.code.toNat, rej .dstCode 4), (p.a.accepts a.code.toNat, rej .firstCode 1),
   (p.b.accepts b.code.toNat, rej .secondCode 2), (p.c.accepts c.code.toNat, rej .thirdCode 3),
   (p.a.lastOk a, rej .lastUse 1), (p.b.lastOk b, rej .lastUse 2), (p.c.lastOk c, rej .lastUse 3),
   (p.a.waitOk a, rej .waitBit 1), (p.b.waitOk b, rej .waitBit 2), (p.c.waitOk c, rej .waitBit 3),
   ((literalOpnd a b c).isNone, rej .oneLiteral ((literalOpnd a b c).getD 0)),
   (uniformOkF k mod (p.d.readOpd d lit) (p.a.readOpd a lit) (p.b.readOpd b lit) (p.c.readOpd c lit),
     rej .uniformDst 4)]

/-- Decodes a format F or X word of a form (R77, R78). -/
def decodeF (k : FKind) (w lit : Dword) : Except Reject Instr :=
  let mod := fld w 0 6
  let sub := BitVec.ofNat 4 (opcOf w - k.opcode)
  let d : RawOpd := ⟨fld w 39 9, false, false⟩
  let a := rawAt w 30 11 8
  let b := rawAt w 21 10 7
  let c := rawAt w 12 9 6
  match fSpec k mod.toNat sub.toNat b.code.toNat c.code.toNat with
  | none => .error (rej .modifiers 0)
  | some p =>
    match firstFail (checksF k mod.toNat p d a b c lit) with
    | some r => .error r
    | none =>
      .ok (k.mk ⟨guardOf w, p.d.readOpd d lit, p.a.readOpd a lit, p.b.readOpd b lit, p.c.readOpd c lit, mod, sub⟩)

/-- Cache class of its code (R80); code 3 fails check 6. -/
def clsOf (n : Nat) : CacheClass := if n = 1 then .evictFirst else if n = 2 then .evictLast else .normal
/-- Ordering of its code (R80). -/
def ordOf (n : Nat) : Order := if n = 0 then .rlx else if n = 1 then .acq else if n = 2 then .rel else .acqrel
/-- Scope of its code (R80). -/
def scpOf (n : Nat) : Scope := if n = 0 then .warp else if n = 1 then .wg else if n = 2 then .dev else .sys

/-- TRAPCAUSE.OPND of the DATA field of a form (R97, R256). -/
def MKind.dataOpnd (k : MKind) : Nat := if k.dataIsDst then 4 else if k.dataIsSrc then 6 else 0

/-- Decodes a format M word of a form (R80, R256). -/
def decodeM (k : MKind) (w lit : Dword) : Except Reject Instr :=
  let sub := BitVec.ofNat 4 (opcOf w - k.opcode)
  let data := rawAt w 39 9 8
  let base := rawAt w 30 11 10
  let off := fld w 12 18
  let cls := (fld w 6 2).toNat
  let ord := (fld w 4 2).toNat
  let scp := (fld w 2 2).toNat
  let xm := fld w 0 2
  let pd := mData k sub.toNat xm.toNat
  let pb := mBase k
  let checks : List (Bool × Reject) :=
    [(k.subOk sub.toNat, rej .subOp 0), (k.modOk sub.toNat cls ord scp xm.toNat, rej .modifiers 0),
     (k != .cctlIinv || off == 0, rej .unused 0),
     (pd != .none || (!data.lu && !data.w), rej .unused 0),
     (pd.accepts data.code.toNat && pd.unusedOk data, rej .dstCode k.dataOpnd),
     (pb.accepts base.code.toNat, rej .firstCode 5),
     (pb.lastOk base, rej .lastUse 5), (pd.lastOk data, rej .lastUse k.dataOpnd),
     (pb.waitOk base, rej .waitBit 5), (pd.waitOk data, rej .waitBit k.dataOpnd),
     (uniformOkM k (pd.readOpd data lit) (pb.readOpd base lit), rej .uniformDst 4)]
  match firstFail checks with
  | some r => .error r
  | none =>
    .ok (k.mk ⟨guardOf w, pd.readOpd data lit, pb.readOpd base lit, off, clsOf cls, ordOf ord, scpOf scp, xm, sub⟩)

/-- Decodes a format B word of a form (R82). -/
def decodeB (k : BKind) (w lit : Dword) : Except Reject Instr :=
  let disp := fld w 24 24
  let ct := rawAt w 15 14 13
  let bmod := fld w 0 13
  let checks : List (Bool × Reject) :=
    [(k.bmodOk bmod.toNat, rej .modifiers (k.bmodOpnd bmod.toNat)),
     (k.usesDisp || disp == 0, rej .unused 0), (k.ct.unusedOk ct, rej .unused 1),
     (k.ct.accepts ct.code.toNat, rej .firstCode 1), (k.ct.lastOk ct, rej .lastUse 1),
     (k.ct.waitOk ct, rej .waitBit 1)]
  match firstFail checks with
  | some r => .error r
  | none => .ok (k.mk ⟨guardOf w, disp, k.ct.readOpd ct lit, bmod⟩)

/-- One half of a paired word as its bits stand (R88). -/
def halfBits (w : Dword) (lo : Nat) : BitVec 31 := w.extractLsb' lo 31

/-- Decodes one half (R91); `low` names the half. -/
def decodeHalf (x : BitVec 31) (low : Bool) : Except Reject Half :=
  let hs : RawOpd := ⟨x.extractLsb' 7 9, bit1 (x.extractLsb' 6 1), bit1 (x.extractLsb' 5 1)⟩
  let hmod := x.extractLsb' 0 5
  match halfOpOf (x.extractLsb' 24 7).toNat with
  | none => .error ⟨.opcode, 0, low⟩
  | some op =>
    match halfSpec op hmod.toNat with
    | none => .error ⟨.modifiers, 0, low⟩
    | some p =>
      match firstFail [(p.accepts hs.code.toNat, ⟨.firstCode, 1, low⟩), (p.lastOk hs, ⟨.lastUse, 1, low⟩),
          (p.waitOk hs, ⟨.waitBit, 1, low⟩)] with
      | some r => .error r
      | none => .ok ⟨op, ⟨(x.extractLsb' 16 8).toNat, (x.extractLsb' 16 8).isLt⟩, p.readOpd hs 0, hmod⟩

/-- Decodes a paired word: every check on the high half, then on the low half, then the pairing check (R97). -/
def decodeH (w : Dword) : Except Reject Instr :=
  if bit1 (fld w 62 1) then .error (rej .bit62 0)
  else
    match decodeHalf (halfBits w 31) false with
    | .error r => .error r
    | .ok hi =>
      match decodeHalf (halfBits w 0) true with
      | .error r => .error r
      | .ok lo =>
        if hi.hd.val % 2 = 1 then .error ⟨.bankParity, 4, false⟩
        else if lo.hd.val % 2 = 0 then .error ⟨.bankParity, 4, true⟩
        else .ok (.pairedWord hi lo)

/-- Decodes one instruction: the word at PC, and the word after it as the literal if it has one (R85); `lodge` on a Lodge
thread (R95). -/
def decodeWord (lodge : Bool) (w lit : Dword) : Except Reject Instr :=
  if w = 0 ∨ w = BitVec.allOnes 64 then .error (rej .wholeWord 0)
  else if bit1 (fld w 63 1) then decodeH w
  else
    let opc := opcOf w
    if opc = 0x2FF then .ok (.illeg (fld w 0 52))
    else
      match BKind.ofOpcode opc, FKind.ofOpcode opc, MKind.ofOpcode opc with
      | some b, _, _ =>
        if lodge && lodgeBars opc then .error (rej .processor 0) else decodeB b w lit
      | none, f :: fs, _ =>
        if lodge && lodgeBars opc then .error (rej .processor 0)
        else
          match (f :: fs).find? (fun k => k.selects (fld w 0 6).toNat) with
          | some k => decodeF k w lit
          | none => .error (rej .modifiers 0)
      | none, [], m :: ms =>
        match (m :: ms).find? (fun k => k.selects (fld w 0 2).toNat) with
        | some k => decodeM k w lit
        | none => .error (rej .modifiers 0)
      | none, [], [] => .error (rej .opcode 0)

/-- WordLength (R76), in words. -/
def wordLength (w : Dword) : Nat :=
  if bit1 (fld w 63 1) then 1
  else
    let opc := opcOf w
    match BKind.ofOpcode opc, FKind.ofOpcode opc, MKind.ofOpcode opc with
    | some _, _, _ => if fld w 15 9 = 511#9 then 2 else 1
    | none, _ :: _, _ => if fld w 30 9 = 511#9 ∨ fld w 21 9 = 511#9 ∨ fld w 12 9 = 511#9 then 2 else 1
    | none, [], k :: _ => if fld w 39 9 = 511#9 ∧ k.dataIsSrc then 2 else 1
    | none, [], [] =>
      if opc = 0x2FF ∧ (fld w 30 9 = 511#9 ∨ fld w 21 9 = 511#9 ∨ fld w 12 9 = 511#9) then 2 else 1

/-- Assembles a format F or X word (R77). -/
def packF (opc : BitVec 11) (gn : BitVec 1) (gp : BitVec 3) (d : BitVec 9) (a b c : RawOpd) (mod : BitVec 6) : Dword :=
  0#1 ++ opc ++ gn ++ gp ++ d ++ a.code ++ b.code ++ c.code ++ ofBool1 a.lu ++ ofBool1 b.lu ++ ofBool1 c.lu ++
    ofBool1 a.w ++ ofBool1 b.w ++ ofBool1 c.w ++ mod

/-- Assembles a format M word (R80). -/
def packM (opc : BitVec 11) (gn : BitVec 1) (gp : BitVec 3) (data base : RawOpd) (off : BitVec 18)
    (cls ord scp xm : BitVec 2) : Dword :=
  0#1 ++ opc ++ gn ++ gp ++ data.code ++ base.code ++ off ++ ofBool1 base.lu ++ ofBool1 base.w ++ ofBool1 data.lu ++
    ofBool1 data.w ++ cls ++ ord ++ scp ++ xm

/-- Assembles a format B word (R82). -/
def packB (opc : BitVec 11) (gn : BitVec 1) (gp : BitVec 3) (disp : BitVec 24) (ct : RawOpd) (bmod : BitVec 13) :
    Dword :=
  0#1 ++ opc ++ gn ++ gp ++ disp ++ ct.code ++ ofBool1 ct.lu ++ ofBool1 ct.w ++ bmod

/-- Assembles one half (R88). -/
def packHalf (h : Half) : BitVec 31 :=
  BitVec.ofNat 7 h.op.code ++ BitVec.ofNat 8 h.hd.val ++ (rawSrc h.hs).code ++ ofBool1 (rawSrc h.hs).lu ++
    ofBool1 (rawSrc h.hs).w ++ h.hmod

/-- Assembles a paired word (R88). -/
def packH (hi lo : Half) : Dword := 1#1 ++ 0#1 ++ packHalf hi ++ packHalf lo

/-- Guard negate as a bit. -/
def Guard.gn (g : Guard) : BitVec 1 := ofBool1 g.neg
/-- Guard predicate as bits. -/
def Guard.gp (g : Guard) : BitVec 3 := BitVec.ofNat 3 g.p.val

/-- The literal of an instruction, if one of its operands is the literal. -/
def literalOf (os : List Opd) : Option Dword := (os.filterMap Opd.lit?).head?

/-- The words of a well-formed instruction, the literal after the word that needs it; none for a step without a word. -/
def encode (i : Instr) : List Dword :=
  match formOf i with
  | .f k f =>
    packF (BitVec.ofNat 11 (k.opcode + f.sub.toNat)) f.guard.gn f.guard.gp (rawDst f.dst).code (rawSrc f.a) (rawSrc f.b)
      (rawSrc f.c) f.mod :: (literalOf [f.a, f.b, f.c]).toList
  | .m k m =>
    packM (BitVec.ofNat 11 (k.opcode + m.sub.toNat)) m.guard.gn m.guard.gp (rawSrc m.data) (rawSrc m.base) m.off
      (BitVec.ofNat 2 m.cls.code) (BitVec.ofNat 2 m.ord.code) (BitVec.ofNat 2 m.scp.code) m.xm ::
      (literalOf [m.data]).toList
  | .b k b =>
    packB (BitVec.ofNat 11 k.opcode) b.guard.gn b.guard.gp b.disp (rawSrc b.ct) b.bmod :: (literalOf [b.ct]).toList
  | .h hi lo => [packH hi lo]
  | .illeg low => if wordLength (0#1 ++ 0x2FF#11 ++ low) = 2 then [0#1 ++ 0x2FF#11 ++ low, 0] else [0#1 ++ 0x2FF#11 ++ low]
  | .event => []

/-- A 64-bit word of eight bytes, little-endian (R6). -/
def dwordOfBytes (l : List Byte) : Dword :=
  BitVec.ofNat 64 (l.foldr (fun b acc => b.toNat + 256 * acc) 0)

/-- The eight bytes of a word, little-endian (R6). -/
def bytesOfDword (w : Dword) : List Byte := (List.range 8).map (fun i => BitVec.ofNat 8 (w.toNat >>> (8 * i)))

/-- Why bytes are not an instruction. -/
inductive DecodeError where
  /-- fewer bytes than the word, or than its literal word -/
  | truncated
  /-- ILLEGAL (R96) -/
  | illegal (r : Reject)
  deriving DecidableEq, Repr

/-- Decodes the instruction at the head of a list of bytes, and gives the rest. -/
def decode (lodge : Bool) (l : List Byte) : Except DecodeError (Instr × List Byte) :=
  if l.length < 8 then .error .truncated
  else
    let w := dwordOfBytes (l.take 8)
    let n := wordLength w
    if l.length < 8 * n then .error .truncated
    else
      match decodeWord lodge w (if n = 2 then dwordOfBytes ((l.drop 8).take 8) else 0) with
      | .error r => .error (.illegal r)
      | .ok i => .ok (i, l.drop (8 * n))

/-- The bytes of words stored one after another. -/
def bytesOfWords (ws : List Dword) : List Byte := ws.flatMap bytesOfDword

/-- What the decoder reads from an instruction whose bits are w, the bits above nbits zero (Host interface). -/
def decodeTableWord (nbits w : Nat) : Option Instr :=
  let x := w % 2 ^ nbits
  match decode false (bytesOfWords [BitVec.ofNat 64 x, BitVec.ofNat 64 (x >>> 64)]) with
  | .ok (i, _) => some i
  | .error _ => none

end Sys2Proof
end

