-- ==== Sys2Proof/Machine/Float.lean ====
section
/-! DEFINITION. Number formats and rounding (R52 to R69): values as sign, natural significand and power of two, one
rounding function, flags, and the arithmetic operations on encodings. -/

namespace Sys2Proof

/-- The five IEEE flags, NV at bit 4 and NX at bit 0 (R17). -/
abbrev Flags := BitVec 5
/-- Invalid operation. -/
def flagNV : Flags := 16
/-- Division by zero. -/
def flagDZ : Flags := 8
/-- Overflow. -/
def flagOF : Flags := 4
/-- Underflow. -/
def flagUF : Flags := 2
/-- Inexact. -/
def flagNX : Flags := 1

/-- A binary format (R52, R53). -/
structure Fmt where
  /-- exponent bits -/
  eb : Nat
  /-- fraction bits -/
  fb : Nat
  bias : Nat
  /-- the largest finite value is maxSig times 2^(maxExp - fb) -/
  maxExp : Int
  maxSig : Nat
  hasInf : Bool
  /-- NaNs with a quiet bit -/
  ieeeNan : Bool
  hasNan : Bool
  /-- FTZ acts on the format (R63) -/
  flushed : Bool
  deriving DecidableEq, Repr

/-- The formats of R53. -/
def FType.fmt : FType → Fmt
  | .f64 => ⟨11, 52, 1023, 1023, 2 ^ 53 - 1, true, true, true, true⟩
  | .f32 => ⟨8, 23, 127, 127, 2 ^ 24 - 1, true, true, true, true⟩
  | .f16 => ⟨5, 10, 15, 15, 2 ^ 11 - 1, true, true, true, true⟩
  | .bf16 => ⟨8, 7, 127, 127, 2 ^ 8 - 1, true, true, true, true⟩
  | .e5m2 => ⟨5, 2, 15, 15, 7, true, true, true, false⟩
  | .e4m3 => ⟨4, 3, 7, 8, 14, false, false, true, false⟩
  | .e2m1 => ⟨2, 1, 1, 2, 3, false, false, false, false⟩

/-- Exponent of the smallest normal value. -/
def Fmt.emin (f : Fmt) : Int := 1 - (f.bias : Int)

/-- What an encoding stands for. -/
inductive FVal where
  /-- a NaN with its fraction field of fb bits -/
  | nan (sign signal : Bool) (frac fb : Nat)
  | inf (sign : Bool)
  /-- (-1)^sign times m times 2^e -/
  | fin (sign : Bool) (m : Nat) (e : Int)
  deriving DecidableEq, Repr

/-- The value of an encoding (R52, R53). -/
def Fmt.unpack (f : Fmt) (x : Nat) : FVal :=
  let sign := bits x (f.eb + f.fb) 1 == 1
  let e := bits x f.fb f.eb
  let fr := bits x 0 f.fb
  let top := 2 ^ f.eb - 1
  if e = top ∧ f.hasInf then
    if fr = 0 then .inf sign else .nan sign (bits fr (f.fb - 1) 1 == 0) fr f.fb
  else if e = top ∧ f.hasNan ∧ fr = 2 ^ f.fb - 1 then .nan sign false fr f.fb
  else if e = 0 then .fin sign fr (f.emin - f.fb)
  else .fin sign (2 ^ f.fb + fr) ((e : Int) - f.bias - f.fb)

/-- The value of a W80 encoding (R55, R56); a pseudo-NaN reads as the canonical NaN. -/
def unpackW80 (x : Nat) : FVal :=
  let sign := bits x 79 1 == 1
  let e := bits x 64 15
  let m := bits x 0 64
  if e = 0x7FFF then
    if m = 2 ^ 63 then .inf sign
    else if bits m 63 1 = 1 then .nan sign (bits m 62 1 == 0) (bits m 0 63) 63
    else .nan false false (2 ^ 62) 63
  else if e = 0 then .fin sign m (-16445)
  else .fin sign m ((e : Int) - 16383 - 63)

/-- The sign bit. -/
def signBit (s : Bool) : Nat := if s then 1 else 0

/-- The encoding of a NaN with the fraction field fr. -/
def Fmt.packNan (f : Fmt) (sign : Bool) (fr : Nat) : Nat :=
  signBit sign * 2 ^ (f.eb + f.fb) + (2 ^ f.eb - 1) * 2 ^ f.fb + fr

/-- The canonical NaN (R53). -/
def Fmt.canonNan (f : Fmt) : Nat :=
  if f.ieeeNan then f.packNan false (2 ^ (f.fb - 1)) else f.packNan false (2 ^ f.fb - 1)

/-- An infinity, for the formats that have one. -/
def Fmt.packInf (f : Fmt) (sign : Bool) : Nat := signBit sign * 2 ^ (f.eb + f.fb) + (2 ^ f.eb - 1) * 2 ^ f.fb

/-- The largest finite value. -/
def Fmt.packMax (f : Fmt) (sign : Bool) : Nat :=
  signBit sign * 2 ^ (f.eb + f.fb) + ((f.maxExp + f.bias).toNat * 2 ^ f.fb + (f.maxSig - 2 ^ f.fb))

/-- A zero. -/
def Fmt.packZero (f : Fmt) (sign : Bool) : Nat := signBit sign * 2 ^ (f.eb + f.fb)

/-- The value q times 2^lsb, where lsb is the weight of its last place in the format. -/
def Fmt.packFin (f : Fmt) (sign : Bool) (q : Nat) (lsb : Int) : Nat :=
  signBit sign * 2 ^ (f.eb + f.fb) + ((lsb + f.fb + f.bias - 1).toNat * 2 ^ f.fb + q)

/-- A nonnegative exact value: m times 2^e, or, with `sticky`, a value strictly between that and (m + 1) times 2^e. -/
structure Exact where
  m : Nat
  e : Int
  sticky : Bool
  deriving DecidableEq, Repr

/-- The integer nearest, by mode, to x over 2^lsb, and whether it differs from it (R60). -/
def roundAt (mode : RMode) (sign : Bool) (x : Exact) (lsb : Int) : Nat × Bool :=
  if lsb ≤ x.e then (x.m * 2 ^ (x.e - lsb).toNat, x.sticky)
  else
    let k := (lsb - x.e).toNat
    let q := x.m / 2 ^ k
    let r := x.m % 2 ^ k
    let inexact := r != 0 || x.sticky
    let half := 2 ^ (k - 1)
    let up := match mode with
      | .rne => decide (r > half) || (r == half && (x.sticky || q % 2 == 1))
      | .rtz => false
      | .rup => !sign && inexact
      | .rdn => sign && inexact
    (if up then q + 1 else q, inexact)

/-- Exponent of the leading bit of a nonzero value. -/
def Exact.top (x : Exact) : Int := (Nat.log2 x.m : Int) + x.e

/-- How a conversion handles what does not fit (R61, R67). -/
inductive Fit where
  | ieee | sat | nsat
  deriving DecidableEq, Repr

/-- The overflow result (R61, R67). -/
def Fmt.overflow (f : Fmt) (fit : Fit) (mode : RMode) (sign : Bool) : Nat :=
  let toInf := match mode with
    | .rne => true
    | .rtz => false
    | .rup => !sign
    | .rdn => sign
  if fit = .sat ∨ toInf = false then f.packMax sign
  else if f.hasInf then f.packInf sign
  else if f.hasNan then f.packNan sign (2 ^ f.fb - 1)
  else f.packMax sign

/-- The magnitude of the largest finite value, exactly. -/
def Fmt.exceedsMax (f : Fmt) (q : Nat) (lsb : Int) : Bool :=
  let maxLsb := f.maxExp - f.fb
  if lsb ≤ maxLsb then decide (q > f.maxSig * 2 ^ (maxLsb - lsb).toNat)
  else decide (q * 2 ^ (lsb - maxLsb).toNat > f.maxSig)

/-- Rounds a nonnegative exact value of a sign to a format (R60 to R64, R67): encoding and flags. -/
def Fmt.round (f : Fmt) (fit : Fit) (mode : RMode) (ftz : Bool) (sign : Bool) (x : Exact) : Nat × Flags :=
  if x.m = 0 ∧ !x.sticky then (f.packZero sign, 0)
  else
    let t := x.top
    -- rounded with an unbounded exponent
    let (q1, _) := roundAt mode sign x (t - f.fb)
    let tiny := decide (t < f.emin) && !(q1 == 2 ^ (f.fb + 1) && decide (t + 1 ≥ f.emin))
    let lsb := max (t - f.fb) (f.emin - f.fb)
    let (q, inexact) := roundAt mode sign x lsb
    if tiny then
      if ftz ∧ f.flushed then (f.packZero sign, flagUF ||| flagNX)
      else (f.packFin sign q lsb, if inexact then flagUF ||| flagNX else 0)
    else if f.exceedsMax q lsb then (f.overflow fit mode sign, flagOF ||| flagNX)
    else (f.packFin sign q lsb, if inexact then flagNX else 0)

/-- A signed exact value: n times 2^e. -/
structure SExact where
  n : Int
  e : Int
  deriving DecidableEq, Repr

/-- Exact sum. -/
def SExact.add (a b : SExact) : SExact :=
  let e := min a.e b.e
  ⟨a.n * 2 ^ (a.e - e).toNat + b.n * 2 ^ (b.e - e).toNat, e⟩

/-- The exact magnitude. -/
def SExact.mag (a : SExact) : Exact := ⟨a.n.natAbs, a.e, false⟩

/-- Sign of a value. -/
def FVal.sign : FVal → Bool
  | .nan s _ _ _ => s
  | .inf s => s
  | .fin s _ _ => s

/-- The value is a NaN. -/
def FVal.isNan : FVal → Bool
  | .nan _ _ _ _ => true
  | _ => false

/-- The value is a signalling NaN. -/
def FVal.isSignal : FVal → Bool
  | .nan _ s _ _ => s
  | _ => false

/-- The value is an infinity. -/
def FVal.isInf : FVal → Bool
  | .inf _ => true
  | _ => false

/-- The value is a zero. -/
def FVal.isZero : FVal → Bool
  | .fin _ m _ => m == 0
  | _ => false

/-- A finite value as a signed exact one; zero for the others. -/
def FVal.exact : FVal → SExact
  | .fin s m e => ⟨if s then -(m : Int) else m, e⟩
  | _ => ⟨0, 0⟩

/-- The value with the other sign. -/
def FVal.negate : FVal → FVal
  | .nan s g fr fb => .nan (!s) g fr fb
  | .inf s => .inf (!s)
  | .fin s m e => .fin (!s) m e

/-- The value is below the format's smallest normal and not zero. -/
def Fmt.isSubnormal (f : Fmt) (v : FVal) : Bool :=
  match v with
  | .fin _ m e => m != 0 && decide ((Nat.log2 m : Int) + e < f.emin)
  | _ => false

/-- A subnormal operand reads as zero of its sign under FTZ (R63, R125). -/
def Fmt.read (f : Fmt) (ftz : Bool) (x : Nat) : FVal :=
  let v := f.unpack x
  if ftz && f.flushed && f.isSubnormal v then .fin v.sign 0 0 else v

/-- A NaN moved into a format and quieted (R65, R66). -/
def Fmt.convNan (f : Fmt) (sign : Bool) (frac fb : Nat) : Nat :=
  if f.ieeeNan then
    let fr := if fb ≤ f.fb then frac * 2 ^ (f.fb - fb) else frac / 2 ^ (fb - f.fb)
    f.packNan sign (if bits fr (f.fb - 1) 1 = 1 then fr else fr + 2 ^ (f.fb - 1))
  else f.packNan sign (2 ^ f.fb - 1)

/-- The NaN that an operation delivers: the first NaN operand, or the canonical one with NV (R65). -/
def Fmt.deliverNan (f : Fmt) (ops : List FVal) : Nat :=
  match ops.find? FVal.isNan with
  | some (.nan s _ fr fb) => f.convNan s fr fb
  | _ => f.canonNan

/-- NV for a signalling NaN among the operands. -/
def signalFlag (ops : List FVal) : Flags := if ops.any FVal.isSignal then flagNV else 0

/-- A product 0 times infinity. -/
def badProduct (x y : FVal) : Bool := (x.isZero && y.isInf) || (x.isInf && y.isZero)

/-- A term of a sum: an operand, or a product. -/
def mulTerm (x y : FVal) : FVal :=
  let s := x.sign != y.sign
  match x, y with
  | .fin _ m e, .fin _ m' e' => .fin s (m * m') (e + e')
  | _, _ => .inf s

/-- The exact sum of finite terms. -/
def sumTerms (l : List FVal) : SExact := l.foldl (fun a t => a.add t.exact) ⟨0, 0⟩

/-- Rounds the exact sum of terms none of which is a NaN: infinities, and the sign of an exact zero (R65, R132). -/
def Fmt.sumRound (f : Fmt) (mode : RMode) (ftz : Bool) (ts : List FVal) : Nat × Flags :=
  match ts.find? FVal.isInf with
  | some i => (f.packInf i.sign, 0)
  | none =>
    let s := sumTerms ts
    if s.n = 0 then
      let neg := if ts.all (fun t => t.isZero && t.sign) then true
        else if ts.all (fun t => t.isZero && !t.sign) then false else mode == .rdn
      (f.packZero neg, 0)
    else f.round .ieee mode ftz (decide (s.n < 0)) s.mag

/-- A sum of products and terms with one rounding (R60, R130, R132): `ops` is the NaN search order. A NaN among them
decides before infinities of both signs do, which is the model's reading (log 107). -/
def Fmt.dot (f : Fmt) (mode : RMode) (ftz : Bool) (ps : List (FVal × FVal)) (zs ops : List FVal) : Nat × Flags :=
  let bad := ps.any (fun p => badProduct p.1 p.2)
  let sig := signalFlag ops
  if ops.any FVal.isNan then (f.deliverNan ops, if bad then flagNV else sig)
  else
    let ts := ps.map (fun p => mulTerm p.1 p.2) ++ zs
    let clash := ts.any (fun t => t.isInf && t.sign) && ts.any (fun t => t.isInf && !t.sign)
    if bad || clash then (f.canonNan, flagNV) else f.sumRound mode ftz ts

/-! The operations on encodings: operands as numbers, result encoding and flags. -/

/-- FADD, FSUB (R130). -/
def fpAdd (t : FType) (mode : RMode) (ftz neg : Bool) (a b : Nat) : Nat × Flags :=
  let x := t.fmt.read ftz a
  let y := t.fmt.read ftz b
  t.fmt.dot mode ftz [] [x, if neg then y.negate else y] [x, y]

/-- FMUL (R130). -/
def fpMul (t : FType) (mode : RMode) (ftz : Bool) (a b : Nat) : Nat × Flags :=
  let x := t.fmt.read ftz a
  let y := t.fmt.read ftz b
  t.fmt.dot mode ftz [(x, y)] [] [x, y]

/-- FFMA (R130). -/
def fpFma (t : FType) (mode : RMode) (ftz : Bool) (a b c : Nat) : Nat × Flags :=
  let x := t.fmt.read ftz a
  let y := t.fmt.read ftz b
  let z := t.fmt.read ftz c
  t.fmt.dot mode ftz [(x, y)] [z] [x, y, z]

/-- Element i of a packed register of format t (R54). -/
def fpElem (t : FType) (x i : Nat) : Nat := bits x (i * t.bits) t.bits

/-- FDOT2, FDOT4 with n elements (R132). -/
def fpDot (t : FType) (n : Nat) (mode : RMode) (ftz : Bool) (a b c : Nat) : Nat × Flags :=
  let xs := (List.range n).map (fun i => t.fmt.read ftz (fpElem t a i))
  let ys := (List.range n).map (fun i => t.fmt.read ftz (fpElem t b i))
  let z := FType.f32.fmt.read ftz c
  FType.f32.fmt.dot mode ftz (xs.zip ys) [z] (xs ++ ys ++ [z])

/-- Applies a two-element packed operation (R131). -/
def fpPacked (op : Nat → Nat × Flags) : Nat × Flags :=
  let r0 := op 0
  let r1 := op 1
  (r0.1 + r1.1 * 2 ^ 16, r0.2 ||| r1.2)

/-- Order of two values that are not NaNs: a < b, with -0 equal to +0. -/
def fpLess (a b : FVal) : Bool :=
  match a, b with
  | .inf s, .inf s' => s && !s'
  | .inf s, _ => s
  | _, .inf s => !s
  | x, y => decide ((x.exact.add ⟨-y.exact.n, y.exact.e⟩).n < 0)

/-- Equality of two values that are not NaNs. -/
def fpEq (a b : FVal) : Bool :=
  match a, b with
  | .inf s, .inf s' => s == s'
  | .inf _, _ => false
  | _, .inf _ => false
  | x, y => decide ((x.exact.add ⟨-y.exact.n, y.exact.e⟩).n = 0)

/-- The minimum and maximum operations of R68. -/
inductive MinMax where
  | min | max | minm | maxm
  deriving DecidableEq, Repr

/-- An operand as FMIN and FMAX return it: itself, or the zero it was flushed to (R129). The register's bits above a
narrow type's are zero in the result (R54). -/
def fpKeep (t : FType) (ftz : Bool) (x : Nat) : Nat :=
  if ftz && t.fmt.flushed && t.fmt.isSubnormal (t.fmt.unpack x) then t.fmt.packZero (t.fmt.unpack x).sign
  else bits x 0 t.bits

/-- FMIN, FMAX, FMINM, FMAXM (R68). -/
def fpMinMax (t : FType) (k : MinMax) (ftz : Bool) (a b : Nat) : Nat × Flags :=
  let x := t.fmt.read ftz a
  let y := t.fmt.read ftz b
  let sig := signalFlag [x, y]
  let number := k == .min || k == .max
  if x.isNan && y.isNan || (!number && (x.isNan || y.isNan)) then (t.fmt.deliverNan [x, y], sig)
  else if x.isNan then (fpKeep t ftz b, sig)
  else if y.isNan then (fpKeep t ftz a, sig)
  else
    let less := fpLess x y || (x.isZero && y.isZero && x.sign && !y.sign)
    let pickA := if k == .min || k == .minm then less || a == b else !less
    (fpKeep t ftz (if pickA then a else b), sig)

/-- The conditions of FCMP by code 0 to 7 (R133). -/
def fpCond (code : Nat) (x y : FVal) : Bool :=
  let un := x.isNan || y.isNan
  match code with
  | 0 => !un && fpEq x y
  | 1 => un || !fpEq x y
  | 2 => !un && fpLess x y
  | 3 => !un && (fpLess x y || fpEq x y)
  | 4 => !un && fpLess y x
  | 5 => !un && (fpLess y x || fpEq x y)
  | 6 => !un
  | _ => un

/-- FCMP with its ext field (R133): the truth value and the flags. -/
def fpCmp (t : FType) (ext : Nat) (ftz : Bool) (a b : Nat) : Bool × Flags :=
  let x := t.fmt.read ftz a
  let y := t.fmt.read ftz b
  let f := if ext ≥ 8 then (if x.isNan || y.isNan then flagNV else 0) else signalFlag [x, y]
  (fpCond (ext % 8) x y, f)

/-- FCLASS (R134). -/
def fpClass (t : FType) (a : Nat) : Nat :=
  let v := t.fmt.unpack a
  let i := match v with
    | .nan _ s _ _ => if s then 8 else 9
    | .inf s => if s then 0 else 7
    | .fin s m _ =>
      if m = 0 then (if s then 3 else 4)
      else if t.fmt.isSubnormal v then (if s then 2 else 5) else (if s then 1 else 6)
  2 ^ i

/-- FSGN (R135): op 0 copies b's sign, 1 inverts it, 2 takes the exclusive or. -/
def fpSgn (t : FType) (op a b : Nat) : Nat :=
  let k := t.bits - 1
  let sa := bits a k 1
  let sb := bits b k 1
  let s := if op = 0 then sb else if op = 1 then 1 - sb else (sa + sb) % 2
  setBits (bits a 0 t.bits) k 1 s

/-- FSCALE (R136). -/
def fpScale (t : FType) (mode : RMode) (ftz : Bool) (a : Nat) (b : Int) : Nat × Flags :=
  let x := t.fmt.read ftz a
  match x with
  | .nan _ _ _ _ => (t.fmt.deliverNan [x], signalFlag [x])
  | .inf s => (t.fmt.packInf s, 0)
  | .fin s m e =>
    -- beyond these bounds the result is the same as at the bound
    let k := max (-5000) (min 5000 b)
    t.fmt.round .ieee mode ftz s ⟨m, e + k, false⟩

/-- Rounds a finite magnitude to an integer. -/
def roundToInt (mode : RMode) (sign : Bool) (m : Nat) (e : Int) : Nat × Bool := roundAt mode sign ⟨m, e, false⟩ 0

/-- FRND (R137). -/
def fpRnd (t : FType) (mode : RMode) (ftz : Bool) (a : Nat) : Nat × Flags :=
  let x := t.fmt.read ftz a
  match x with
  | .nan _ _ _ _ => (t.fmt.deliverNan [x], signalFlag [x])
  | .inf s => (t.fmt.packInf s, 0)
  | .fin s m e =>
    if m = 0 then (t.fmt.packZero s, 0)
    else
      let (q, inexact) := roundToInt mode s m e
      ((t.fmt.round .ieee mode ftz s ⟨q, 0, false⟩).1, if inexact then flagNX else 0)

/-- Conversion of a value to a format (R142, R66, R67). -/
def Fmt.convert (f : Fmt) (fit : Fit) (mode : RMode) (ftz : Bool) (x : FVal) : Nat × Flags :=
  match x with
  | .nan s sig fr fb =>
    if f.hasNan then (f.convNan s fr fb, if sig then flagNV else 0) else (0, flagNV)
  | .inf s =>
    match fit with
    | .ieee => (f.packInf s, 0)
    | .sat => (f.packMax s, flagNV)
    | .nsat => if f.hasInf then (f.packInf s, 0) else (f.packNan s (2 ^ f.fb - 1), flagNV)
  | .fin s m e => f.round fit mode ftz s ⟨m, e, false⟩

/-- The conversion modifier of a destination format (R67). -/
def fitOf (t : FType) (nsat : Bool) : Fit :=
  match t with
  | .e5m2 | .e4m3 | .e2m1 => if nsat then .nsat else .sat
  | _ => .ieee

/-- FCVT (R142). -/
def fpCvt (t src : FType) (nsat : Bool) (mode : RMode) (ftz : Bool) (a : Nat) : Nat × Flags :=
  let x := src.fmt.read ftz a
  if t = src then
    match x with
    | .nan s sig fr fb => (t.fmt.convNan s fr fb, if sig then flagNV else 0)
    | .inf s => (t.fmt.packInf s, 0)
    | .fin s m e => ((t.fmt.round .ieee mode false s ⟨m, e, false⟩).1, 0)
  else t.fmt.convert (fitOf t nsat) mode ftz x

/-- Signedness and width of an integer type (R50). -/
def IType.signed : IType → Bool
  | .s8 | .s16 | .s32 | .s64 => true
  | _ => false
/-- Width of an integer type. -/
def IType.bits : IType → Nat
  | .s8 | .z8 => 8 | .s16 | .z16 => 16 | .s32 | .z32 => 32 | .s64 | .z64 => 64
/-- Least value of an integer type. -/
def IType.lo (t : IType) : Int := if t.signed then -(2 ^ (t.bits - 1) : Nat) else 0
/-- Greatest value of an integer type. -/
def IType.hi (t : IType) : Int := if t.signed then (2 ^ (t.bits - 1) : Nat) - 1 else (2 ^ t.bits : Nat) - 1
/-- The value of the low bits of a register at a type (R51). -/
def IType.val (t : IType) (x : Nat) : Int := if t.signed then toSigned t.bits x else ((x % 2 ^ t.bits : Nat) : Int)
/-- The register contents of a result: a narrow result is widened to 32 bits (R51). -/
def IType.enc (t : IType) (x : Int) : Nat := ofInt (max 32 t.bits) (t.val (ofInt t.bits x))

/-- FTOI (R143). -/
def fpToInt (t : FType) (i : IType) (mode : RMode) (ftz : Bool) (a : Nat) : Nat × Flags :=
  match t.fmt.read ftz a with
  | .nan _ _ _ _ => (0, flagNV)
  | .inf s => (i.enc (if s then i.lo else i.hi), flagNV)
  | .fin s m e =>
    let (q, inexact) := roundToInt mode s m e
    let v : Int := if s then -(q : Int) else q
    if v > i.hi then (i.enc i.hi, flagNV)
    else if v < i.lo then (i.enc i.lo, flagNV)
    else (i.enc v, if inexact then flagNX else 0)

/-- ITOF (R144). -/
def intToFp (t : FType) (i : IType) (mode : RMode) (ftz : Bool) (a : Nat) : Nat × Flags :=
  let v := i.val a
  t.fmt.round .ieee mode ftz (decide (v < 0)) ⟨v.natAbs, 0, false⟩

/-- SRound (R69), the body of FCVTSR (R145). -/
def fpSRound (t : FType) (nsat ftz : Bool) (a u : Nat) : Nat × Flags :=
  let f := t.fmt
  match FType.f32.fmt.read ftz a with
  | .nan s sig fr fb => if f.hasNan then (f.convNan s fr fb, if sig then flagNV else 0) else (0, flagNV)
  | .inf s =>
    if !nsat then (f.packMax s, flagNV)
    else if f.hasInf then (f.packInf s, 0) else (f.packNan s (2 ^ f.fb - 1), flagNV)
  | .fin s m e =>
    if m = 0 then (f.packZero s, 0)
    else
      let top : Int := (Nat.log2 m : Int) + e
      let lsbT := max top f.emin - f.fb
      let lsbX := max top (-126) - 23
      let d := lsbT - lsbX
      if d ≤ 0 then ((f.round .ieee .rne false s ⟨m, e, false⟩).1, 0)
      else
        let w := min d 32
        let g := lsbT - w
        -- m1 and m2 in units of g
        let m1 := if g ≤ e then m * 2 ^ (e - g).toNat else m / 2 ^ (g - e).toNat
        let m2 := m1 + u % 2 ^ w.toNat
        let q := m2 / 2 ^ w.toNat
        let exact := decide (lsbT ≤ e ∧ q = m * 2 ^ (e - lsbT).toNat) ||
          decide (e < lsbT ∧ q * 2 ^ (lsbT - e).toNat = m)
        if f.exceedsMax q lsbT then
          (if nsat then f.overflow .nsat .rne s else f.packMax s, flagOF ||| flagNX)
        else
          let tiny := q = 0 ∨ (Nat.log2 q : Int) + lsbT < f.emin
          if tiny ∧ ftz ∧ f.flushed then (f.packZero s, flagUF ||| flagNX)
          else if exact then (f.packFin s q lsbT, 0)
          else (if q = 0 then f.packZero s else f.packFin s q lsbT,
                if tiny then flagUF ||| flagNX else flagNX)

/-- FGETE (R146). -/
def fpGetE (t : FType) (ftz : Bool) (a : Nat) : Nat × Flags :=
  match t.fmt.read ftz a with
  | .nan _ _ _ _ => (0x7FFFFFFF, flagNV)
  | .inf _ => (0x7FFFFFFF, 0)
  | .fin _ m e => if m = 0 then (0x80000000, flagDZ) else (ofInt 32 ((Nat.log2 m : Int) + e), 0)

/-- FGETM (R146). -/
def fpGetM (t : FType) (ftz : Bool) (a : Nat) : Nat × Flags :=
  let x := t.fmt.read ftz a
  match x with
  | .nan _ _ _ _ => (t.fmt.deliverNan [x], signalFlag [x])
  | .inf _ => (t.fmt.canonNan, flagNV)
  | .fin s m _ =>
    if m = 0 then (t.fmt.packZero s, 0)
    else ((t.fmt.round .ieee .rne false s ⟨m, -(Nat.log2 m : Int), false⟩).1, 0)

/-- RNGF (R149). -/
def rngToFp (t : FType) (a : Nat) : Nat := (t.fmt.round .ieee .rne false false ⟨a / 256, -24, false⟩).1

/-- A floating-point constant by its code from 496 (R84), in a format. -/
def fpConst (t : FType) (n : Nat) : Nat :=
  let v : Bool × Nat × Int := match n with
    | 0 => (false, 1, -2) | 1 => (false, 1, -1) | 2 => (true, 1, -1) | 3 => (false, 1, 0) | 4 => (true, 1, 0)
    | 5 => (false, 3, -1) | 6 => (false, 1, 1) | 7 => (true, 1, 1) | 8 => (false, 3, 0) | 9 => (false, 1, 2)
    | 10 => (true, 1, 2) | 11 => (false, 3, 1) | 12 => (false, 1, 3) | 13 => (true, 0, 0) | _ => (false, 0, 0)
  if n = 14 then t.fmt.packInf false
  else (t.fmt.round .ieee .rne false v.1 ⟨v.2.1, v.2.2, false⟩).1

/-! W80 and the matrix step. -/

/-- The W80 encoding of a rounded magnitude q times 2^lsb, q at most 2^64 (R55). -/
def packW80 (sign : Bool) (q : Nat) (lsb : Int) : Nat :=
  let (q, lsb) := if q = 2 ^ 64 then (2 ^ 63, lsb + 1) else (q, lsb)
  let s := signBit sign * 2 ^ 79
  if q < 2 ^ 63 then s + q else s + (lsb + 63 + 16383).toNat * 2 ^ 64 + q

/-- The canonical W80 NaN. -/
def nanW80 : Nat := 0x7FFFC000000000000000

/-- Rounds to W80 in RNE (R70): overflow gives an infinity. -/
def roundW80 (sign : Bool) (x : Exact) : Nat :=
  if x.m = 0 then signBit sign * 2 ^ 79
  else
    let lsb := max (x.top - 63) (-16445)
    let (q, _) := roundAt .rne sign x lsb
    if (if q = 2 ^ 64 then lsb + 64 else lsb + 63) > 16383 then signBit sign * 2 ^ 79 + 0x7FFF * 2 ^ 64 + 2 ^ 63
    else packW80 sign q lsb

/-- A W80 encoding as the accumulator keeps it: unnormals normalised, pseudo-NaNs canonical (R56); another NaN stays
as it is, which is the model's reading (log 108). -/
def normW80 (x : Nat) : Nat :=
  match unpackW80 x with
  | .fin s m e => roundW80 s ⟨m, e, false⟩
  | .nan _ _ _ _ => if bits x 63 1 = 1 then x else nanW80
  | .inf _ => x

/-- The value of an E8M0 scale (R58). -/
def scaleVal (c : Nat) : FVal := if c = 0xFF then .nan false false 0 0 else .fin false 1 ((c : Int) - 127)

/-- MatrixStep (R70): accumulator, pairs of elements, and the block scales of each pair. -/
def matrixStep (acc : Nat) (ps : List (FVal × FVal)) (sc : List (FVal × FVal)) : Nat :=
  let c := unpackW80 acc
  let vals := c :: (ps.flatMap (fun p => [p.1, p.2]) ++ sc.flatMap (fun p => [p.1, p.2]))
  let ts := (ps.zip sc).map (fun p =>
    match mulTerm p.1.1 p.1.2, p.2.1, p.2.2 with
    | .fin s m e, .fin _ _ e1, .fin _ _ e2 => .fin s m (e + e1 + e2)
    | t, _, _ => t)
  let all := c :: ts
  if vals.any FVal.isNan || ps.any (fun p => badProduct p.1 p.2) ||
      (all.any (fun t => t.isInf && t.sign) && all.any (fun t => t.isInf && !t.sign)) then nanW80
  else
    match all.find? FVal.isInf with
    | some i => signBit i.sign * 2 ^ 79 + 0x7FFF * 2 ^ 64 + 2 ^ 63
    | none =>
      let s := sumTerms all
      if s.n = 0 then (if all.all (fun t => t.isZero && t.sign) then 2 ^ 79 else 0)
      else roundW80 (decide (s.n < 0)) s.mag

end Sys2Proof
end

