-- ==== Sys2Proof/Machine/State.lean ====
section
/-! DEFINITION. The machine's state as plain data: everything the spec gives the part, and the state after a cold reset. -/

namespace Sys2Proof.Machine

open Sys2Proof

/-- Where a poison mark comes from (R364, R434): a poison event of an L2 bank, with the bank, the RSEQ of the read and the
sector's address over 32; or no event (ERRINJ, a copy that failed). -/
inductive Mark where
  | anon
  | ev (bank rseq sector : Nat)
  deriving DecidableEq, Repr

/-- A 32-bit value with its poison mark (R364). -/
structure Val where
  bits : Word
  mark : Option Mark
  deriving DecidableEq, Repr

/-- A mapped v register: one pool entry (R23). `busy` names the producer that will fill it (R27); `inSlot` says that the
entry's bytes lie in the warp's spill slot (R177). -/
structure VReg where
  lanes : Vector Val 32
  busy : Option Nat
  inSlot : Bool
  deriving DecidableEq, Repr

/-- A uniform register (R12, R27). -/
structure UReg where
  val : Val
  busy : Option Nat
  deriving DecidableEq, Repr

/-- XREC0 to XREC3 (R19). -/
structure XRec where
  epc : Dword
  elanes : Mask
  v : Bool
  h : Bool
  edest : BitVec 9
  count : BitVec 16
  eflags : BitVec 5
  deriving DecidableEq, Repr

/-- One hardware loop level (R21, R22). -/
structure LoopLevel where
  start : Dword
  last : Dword
  count : Word
  lanes : Mask
  deriving DecidableEq, Repr

/-- A floating-point instruction issued and not yet merged into FPCSR and XREC (R16, R30): `id` is its producer's request
number, `done` that it has completed; the flags it raised, the lanes that raised an enabled flag, and the enabled flags. -/
structure FpRes where
  id : Nat
  done : Bool
  flags : BitVec 5
  lanes : Mask
  eflags : BitVec 5
  pc : Dword
  dest : BitVec 9
  low : Bool
  deriving DecidableEq, Repr

/-- The waits of R171 that a group enters when its word first issues. -/
inductive WaitKind where
  | waitv | waitp | barw | cwait | uiwait
  deriving DecidableEq, Repr

/-- A group standing in a wait, with its word; `done` holds the lanes of a WAITV that have completed (R268), or those of a
UIWAIT that have been notified (R400). -/
structure Wait where
  kind : WaitKind
  mask : Mask
  done : Mask
  word : Instr
  deriving DecidableEq, Repr

/-- Why lanes are parked (R359). -/
inductive ParkCause where
  /-- an outstanding fault record (R224) -/
  | record (origin oseq : Nat)
  /-- the outstanding-fault table is full (R225, R384) -/
  | table (ctx vpage : Nat)
  /-- a tier miss (R227) -/
  | tier (ctx vpage : Nat)
  /-- an absent chunk (R299) -/
  | chunk (k : Nat)
  /-- the host's answer to a snoop of a 64-byte line (R441) -/
  | snoop (line : Nat)
  /-- the trap of the warp went to a walk that was absorbed: it issues no more (R361, R373) -/
  | stopped
  /-- a debug stop (R362): its record, the TRAPCAUSE of the BKPT and its length in words -/
  | debug (origin oseq cause len : Nat)
  deriving DecidableEq, Repr

/-- Parked lanes: a fetch fault parks the lanes that hold the PC, every other cause the whole warp (R224); `mask` holds the
lanes whose accesses joined the cause. -/
structure Park where
  cause : ParkCause
  mask : Mask
  fetch : Bool
  deriving DecidableEq, Repr

/-- An access that joined a record ended by DENY: the PC of its word, the page, the record's KIND, the lanes that joined
(R226). -/
structure Denied where
  pc : Dword
  vpage : Nat
  kind : Nat
  mask : Mask
  fetch : Bool
  deriving DecidableEq, Repr

/-- An unreported copy failure of a batch (R297): TRAPCAUSE code, DETAIL, PC of the copy. -/
structure CopyFail where
  batch : Word
  code : Nat
  detail : Nat
  pc : Dword
  deriving DecidableEq, Repr

/-- An MVLOOP failure recorded against an accumulator (R338). -/
structure MvFail where
  acc : Nat
  code : Nat
  detail : Nat
  pc : Dword
  deriving DecidableEq, Repr

/-- An allocation that waits for entries of the pool (R176, R177): that of the word at a PC, or, with no PC, of the registers that a
warp starts with, none of which has an entry before it is met; the entries it needs of the even and the odd bank, and those it has
been given. -/
structure AllocWait where
  pc : Option Dword
  need : Nat × Nat
  got : Nat × Nat
  deriving DecidableEq, Repr

/-- A resident warp, or the single-lane thread of the Lodge (R10, R424). -/
structure Warp where
  part : Nat
  ctx : Nat
  wg : Nat
  /-- admission sequence (R170) -/
  seq : Nat
  /-- register floor (R175) -/
  floor : Nat
  /-- dispatched from a lift line (R411) -/
  lift : Bool
  widx : Nat
  tid : Vector Word 32
  pc : Vector Dword 32
  v : FMap VReg
  deferred : BitVec 256
  s : FMap UReg
  p : Vector Mask 7
  conv : Mask
  fpEn : BitVec 5
  fpFlags : BitVec 5
  ftz : Bool
  rm : RMode
  stale : Bool
  intrap : Bool
  xrec : XRec
  trapvec : Dword
  trappc : Dword
  trapcause : Dword
  /-- trap entry mask (R162) -/
  tmask : Mask
  refage : BitVec 16
  loops : List LoopLevel
  tcfg : Vector Word 8
  uivec : Dword
  uiepc : Dword
  uiin : Bool
  uentry : Mask
  /-- the warp held its context's handler claim when the save of its workgroup began (R393) -/
  claim : Bool
  svclane : Option (Fin 32)
  svcpend : Mask
  arrived : Mask
  /-- LENDs at which a complete group has arrived at BAR: the back-edge follows when the barrier completes (R156, R206) -/
  barEdges : List Dword
  openb : Word
  fails : List CopyFail
  mvfail : List MvFail
  waits : List Wait
  parks : List Park
  denied : List Denied
  /-- spilled: its entries lie in its spill slot or wait to move there (R177) -/
  spilled : Bool
  /-- allocations that have failed and wait, at most one for each group (R176) -/
  alloc : List AllocWait
  fpq : List FpRes
  run : Nat
  lastLead : Option (Fin 32)
  lastIssue : Vector Nat 32
  waitc : Nat
  lastPrio : Nat
  /-- the group that the next issue must go to, named by its lowest lane (R172) -/
  forced : Option (Fin 32)
  /-- the warp issues no earlier than this step (R186) -/
  readyAt : Nat
  /-- its place in the order in which the machine admitted its warps, whatever their tracks (R410, log 124) -/
  stamp : Nat
  deriving DecidableEq, Repr

/-- Presence of a 512-byte chunk (R298). -/
inductive ChunkState where
  | present | absent | armed
  deriving DecidableEq, Repr

/-- A region-table entry (R304 to R307): its descriptor, whether its staging has begun, the staging in flight, whether it
was cleared while in flight. -/
structure Region where
  desc : BitVec 256
  staged : Bool
  flight : Option Nat
  cleared : Bool
  deriving DecidableEq, Repr

/-- A record in memory (R342), by its bits. -/
abbrev Rec := BitVec 1024

/-- Where a workgroup start stands (R478). -/
inductive StartPhase where
  | reading | running
  deriving DecidableEq, Repr

/-- A resident workgroup. -/
structure Wg where
  part : Nat
  ctx : Nat
  launch : Nat
  /-- linear index (R351) -/
  index : Nat
  core : Nat
  btrack : Nat
  record : Rec
  phase : StartPhase
  /-- what the start's failed reads wait on (R478) -/
  startParks : List ParkCause
  /-- pages of the start whose translation was denied (R478) -/
  startDenied : List (Nat × Nat)
  spadBytes : Nat
  spad : FMap Byte
  spadPoison : FMap Mark
  chunks : FMap ChunkState
  regions : FMap Region
  retired : Nat
  slice : Nat
  stall : Nat
  /-- the cycle of a drain decision (R408) -/
  drain : Option Nat
  /-- a save is under way (R415): its frame, and whether it is a YIELD's (R358) -/
  saving : Option (Nat × Bool)
  /-- the priority to which a user interrupt has raised a workgroup that is being saved, 0 for none (R396) -/
  raised : Nat
  /-- TVEC, UVEC and frame words 1 to 31 as the start read them (R478) -/
  kept : Option (Dword × Dword × List Val)
  /-- a warp was ended by the walk or a kill: the workgroup does not complete (R351, R371) -/
  killed : Bool
  /-- the level of the unit that the kill or restart took: 1 the workgroup, 2 its launch, 3 its context (R373) -/
  killLevel : Nat
  deriving DecidableEq, Repr

/-- What stays with Chairlift of a matrix instruction that is replayed: its PC and mode, its denied pages (R338), its place in the
order of issue of the workgroup (R295, R325), and the K-steps that an MLOOP has done (R335). -/
structure MatAside where
  pc : Dword
  sup : Bool
  denied : List (Nat × Nat)
  id : Nat
  prior : Nat
  deriving DecidableEq, Repr

/-- What stays with Chairlift of a saved workgroup beside its save area: the parks, denials, MVLOOP failures and BARs at
a LEND of each warp record (R156, R226, R338), what each replayed matrix instruction needs beside its entry, and what the start read (R478). -/
structure Aside where
  warps : List (List Park × List Denied × List MvFail × List Dword)
  mats : List MatAside
  kept : Option (Dword × Dword × List Val)
  deriving DecidableEq, Repr

/-- A record known to Chairlift: a ring candidate, a linked record, a re-queued or saved workgroup, or a record all of
whose workgroups have started (R345 to R349). -/
structure Launch where
  part : Nat
  ctx : Nat
  /-- physical address of the record -/
  addr : Nat
  /-- the ring it is the candidate of -/
  ring : Option Nat
  record : Rec
  seq : Nat
  prio : Nat
  /-- first and next linear index, and one past the last (R349) -/
  next : Nat
  stop : Nat
  /-- workgroups that have completed -/
  completed : Nat
  /-- the launch whose completion a re-queued or saved workgroup counts toward -/
  orig : Option Nat
  /-- SAVE frame to restore, 0 for a fresh start (R342) -/
  save : Nat
  /-- the saved workgroup holds its context's handler claim (R396) -/
  claim : Bool
  /-- cycles passed over (R348, R354) -/
  passed : Nat
  /-- landing slot of a TASK record: session and slot (R448) -/
  landing : Option (Nat × Nat)
  /-- retry counts by linear index (R372) -/
  retries : FMap Nat
  /-- a workgroup of it was killed and has been released (R371) -/
  killed : Bool
  aside : Option Aside
  deriving DecidableEq, Repr

/-- An entry of a lift line (R184). -/
structure LineEntry where
  tid : Word
  p : BitVec 7
  vals : List Val
  deadline : Nat
  filed : Nat
  widx : Nat
  deriving DecidableEq, Repr

/-- The triggers of R185, by rank. -/
inductive Trigger where
  | full | age | idle
  deriving DecidableEq, Repr

/-- A lift line in use (R182). -/
structure LiftLine where
  wg : Nat
  label : Dword
  entries : List LineEntry
  trig : Option Trigger
  deriving DecidableEq, Repr

/-- A line of L1 (R212): its valid sectors, the key slot it is tagged with (R427), its bytes and poison marks. -/
structure L1Line where
  line : Nat
  slot : Option Nat
  valid : BitVec 4
  bytes : FMap Byte
  poison : FMap Mark
  deriving DecidableEq, Repr

/-- A core. -/
structure Core where
  carve : Nat
  /-- the candidate that fences it (R354) -/
  fence : Option Nat
  l1 : List L1Line
  /-- instruction words fetched since the last CCTL.IINV (R213): physical address with the key slot they were read under, and
  word -/
  icache : FMap Dword
  lines : FMap LiftLine
  gated : Bool
  /-- the step at which its cycle count was zero (R14) -/
  zero : Nat
  deriving DecidableEq, Repr

/-- A tile register (R315, R328): data bytes other than 0, scale bytes other than 0x7F, poisoned 32-byte granules (256
and above for the scale bytes). -/
structure Tile where
  data : FMap Byte
  scale : FMap Byte
  pois : FMap Mark
  deriving DecidableEq, Repr

/-- An accumulator tile (R315, R321): elements other than zero, by 48 i + j; poisoned elements. -/
structure Acc where
  int : Bool
  el : FMap (BitVec 80)
  pois : FMap Mark
  deriving DecidableEq, Repr

/-- A matrix instruction in a track's queue (R325): the word's form and operands as read at issue, the configuration
latched, the K-steps already done, its issuing warp, lanes, PC and rounding state. -/
structure MatOp where
  id : Nat
  place : Nat
  word : Instr
  src : List Nat
  tcfg : List Word
  kdone : Nat
  /-- K-steps of an MLOOP done before it was saved (R335) -/
  prior : Nat
  lanes : Mask
  pc : Dword
  rm : RMode
  ftz : Bool
  /-- the fault record it is paused on (R338) -/
  pause : Option ParkCause
  /-- pages denied to its weight reads, with CODE × 65536 + DETAIL (R338) -/
  denied : List (Nat × Nat)
  /-- the issuing warp has ended -/
  gone : Bool
  /-- issued in supervisor mode -/
  sup : Bool
  /-- FPCSR.EN of the issuing warp -/
  en : BitVec 5
  deriving DecidableEq, Repr

/-- A track (R168): admission sequence, binding, matrix state and queue; the cycles it has picked in, and the step of the
last. -/
structure Track where
  seq : Nat
  cycle : Nat
  last : Nat
  bind : Option Nat
  tiles : FMap Tile
  acc0 : Acc
  acc1 : Acc
  queue : List MatOp
  deriving DecidableEq, Repr

/-- A copy or staging in flight (R294, R308). -/
structure Xfer where
  core : Nat
  track : Nat
  part : Nat
  ctx : Nat
  wg : Nat
  /-- the issuing warp; none for a staging -/
  place : Option Nat
  /-- the issuing warp has ended -/
  gone : Bool
  /-- issued in supervisor mode -/
  sup : Bool
  desc : BitVec 256
  out : Bool
  /-- the batch joined (R301), none for a staging -/
  batch : Option Word
  /-- the region entry staged -/
  entry : Option Nat
  /-- the barrier object of a COPYO (R311) -/
  bar : Option Nat
  /-- chunks whose bytes have all been moved -/
  landed : List Nat
  pause : Option ParkCause
  /-- pages denied (R296) -/
  denied : List (Nat × Nat)
  failed : Option (Nat × Nat)
  pc : Dword
  /-- elements as they were read at issue, or before the workgroup's next write (R249) -/
  got : FMap (List Byte × Option Mark)
  /-- scratchpad bytes that transfers issued later have written: offset and length (R295) -/
  later : List (Nat × Nat)
  /-- scratchpad sectors that transfers issued later have marked poisoned in failing (R297) -/
  marked : List Nat
  deriving DecidableEq, Repr

/-- A fault record (R225). -/
structure FRec where
  origin : Nat
  oseq : Nat
  ctx : Nat
  part : Nat
  core : Nat
  track : Nat
  fpte : Nat
  vpage : Nat
  kind : Nat
  acc : Nat
  sup : Bool
  level : Nat
  deriving DecidableEq, Repr

/-- A tier miss (R227): the page, and who met it first; the gondola walks to the leaf when it serves the miss (R223). -/
structure TierMiss where
  ctx : Nat
  vpage : Nat
  core : Nat
  track : Nat
  acc : Nat
  sup : Bool
  /-- the key slot under which the page was accessed (R427, R431) -/
  slot : Option Nat
  deriving DecidableEq, Repr

/-- What Chairlift still has to do for a completed record's join block (R352). -/
structure Join where
  launch : Nat
  ctx : Nat
  block : Nat
  pause : Option ParkCause
  denied : Option Nat
  /-- the decrement has written 0 and the continuation is to be read -/
  reading : Bool
  deriving DecidableEq, Repr

/-- A checkpoint in progress (R453). -/
structure Ckpt where
  restore : Bool
  remote : Bool
  dest : Nat
  done : Nat
  units : Nat
  quiet : Bool
  deriving DecidableEq, Repr

/-- A partition (R419): its descriptor, the 64-bit words of its control block that differ from their reset values or have
been written, and the state Chairlift, the walkers and the gondolas keep for it. -/
structure Part where
  desc : Desc
  ctl : FMap Dword
  /-- the next SEQ (R347) -/
  nextSeq : Nat
  l2hit : Dword
  l2miss : Dword
  recs : List FRec
  /-- failing accesses that wait for a free table entry (R384) -/
  waiting : List FRec
  misses : List TierMiss
  /-- records that wait to be written to the fault queue and to the error queue (R425) -/
  faultQ : List (BitVec 256)
  errQ : List (BitVec 256)
  /-- ring candidates that have been read: ring, launch (R345) -/
  heads : FMap Nat
  joins : List Join
  /-- writes of NOTIFY, and with 8 more of LQNOTIFY, that wait for a host to give up a line they write: ring, tail (R345, R425, R441) -/
  notifies : List (Nat × Nat)
  /-- TLBINV written and not complete: scope, context, page (R223) -/
  tlbinv : List (Nat × Nat × Nat)
  ckpt : Option Ckpt
  /-- the checkpoint's quiesce holds (R453) -/
  quiesce : Bool
  deriving DecidableEq, Repr

/-- One half of a host line in L2 (R442). -/
inductive Mesi where
  | i | s | e | m
  deriving DecidableEq, Repr

/-- A sector of an L2 line (R215). -/
structure L2Sector where
  valid : Bool
  dirty : Bool
  cls : CacheClass
  deriving DecidableEq, Repr

/-- A line held in L2 (R214 to R218); the lines stand in the order of their last use. -/
structure L2Line where
  bank : Nat
  set : Nat
  way : Nat
  line : Nat
  sectors : Vector L2Sector 4
  /-- partition and retention index -/
  ret : Option (Nat × Nat)
  mesi : Mesi × Mesi
  deriving DecidableEq, Repr

/-- A cached translation (R223): core, context, 4 KiB page, leaf and its level. -/
structure TlbEntry where
  core : Nat
  ctx : Nat
  vpage : Nat
  leaf : Dword
  level : Nat
  deriving DecidableEq, Repr

/-- A table entry that a cluster's walkers hold (R223): the level it was read at and the virtual address over the bytes that an
entry of that level spans. -/
structure WalkEntry where
  cluster : Nat
  ctx : Nat
  level : Nat
  va : Nat
  entry : Dword
  deriving DecidableEq, Repr

/-- A 32-byte DRAM atom (R274, R282, R283): its channel (pseudo-channels, then LPDDR-6 channels from 512), physical bank (0 in
an LPDDR-6 channel), row, and place in the row. -/
structure Atom where
  chan : Nat
  bank : Nat
  row : Nat
  atom : Nat
  deriving DecidableEq, Repr

/-- What a request in flight will write when it completes: an operand code (R83), the lanes and their values. -/
structure Fill where
  code : Nat
  mask : Mask
  vals : Vector Val 32
  deriving DecidableEq, Repr

/-- Requests issued and not complete (R260, R261, R264, R126). -/
inductive PendKind where
  | load | atomic | long | store
  /-- an ACCRD in a matrix queue (R340) -/
  | matrix
  deriving DecidableEq, Repr

/-- A request in flight of a warp. -/
structure Pend where
  place : Nat
  kind : PendKind
  lanes : Mask
  fills : List Fill
  /-- the sequence number that the request carries from its warp's origin (R2, R245) -/
  oseq : Nat
  /-- the physical addresses that it reaches, with the lanes that reach each (R451) -/
  reach : List (Mask × Nat)
  deriving DecidableEq, Repr

/-- A CXL port (R437). -/
structure Port where
  up : Bool
  lost : Bool
  cause : Nat
  mode : Nat
  width : Nat
  rate : Nat
  deriving DecidableEq, Repr

/-- A snoop filter entry (R441): a 64-byte line a host may hold, exclusive or shared. -/
structure SnoopEntry where
  line : Nat
  excl : Bool
  deriving DecidableEq, Repr

/-- What the device has sent to hosts, peers and the management controller. -/
inductive Out where
  /-- read data for a host's request, with the CXL poison indication per 32-byte sector -/
  | hostData (req : Requester) (data : List Byte) (poison : Bool)
  /-- a back-invalidation snoop, with its bank's number and the sequence number it carries (R2, R441) -/
  | biSnp (bank oseq line : Nat) (inv : Bool)
  /-- with the port's origin sequence number -/
  | addCapacity (oseq part i : Nat)
  | releaseCapacity (oseq part i : Nat)
  /-- a fabric message (R445): its sequence number, and its payload as the consecutive PCIe messages that carry it -/
  | fabric (port peerSess oseq : Nat) (pieces : List (List Byte))
  /-- an AtomicOp of 32 or, `wide`, 64 bits, with the port's origin sequence number (R2, R265) -/
  | fabricAtomic (port oseq addr : Nat) (wide : Bool) (op : AtomicOp)
  | writeBack (line : Nat)
  | evictNotice (line : Nat) (dirty : Bool)
  | viral (port : Nat)
  /-- the host error event of R434: the bank and its sequence number (R2), the sector, the consumers in increasing RSEQ -/
  | poisonEnd (bank oseq sector : Nat) (parts : List Nat)
  /-- a reply of the management interface (R460, R461): in a session, with its number and its tag -/
  | mgmt (auth : Option (Nat × BitVec 256)) (status : Nat) (data : List Byte)
  | mctp
  deriving DecidableEq, Repr

/-- A message accepted and not yet acted on (R446, R448): a TASK that waits to land, or a UINT that stands behind one. -/
structure Task where
  part : Nat
  sess : Nat
  uint : Option Message
  record : Rec
  args : List Byte
  slot : Option Nat
  pause : Option ParkCause
  denied : Bool
  deriving DecidableEq, Repr

/-- States of a key slot (R430, R431). -/
inductive SlotState where
  | empty | loaded | retiring
  deriving DecidableEq, Repr

/-- A key slot. -/
structure KeySlot where
  state : SlotState
  gen : Nat
  key : Nat
  acks : List Nat
  /-- the partition whose KEYKILL waits for the acknowledgements, and its PSEQ -/
  waiter : Option (Nat × Nat)
  deriving DecidableEq, Repr

/-- Patrol (R430 to R433, R460). -/
structure Patrol where
  pseq : Nat
  slots : FMap KeySlot
  /-- key slot bound to a context -/
  bound : FMap Nat
  /-- LMS leaves spent (non-volatile) -/
  leaves : Nat
  session : Bool
  sessSeq : Nat
  /-- the key of the open session (R460) -/
  sessKey : Nat
  deriving DecidableEq, Repr

/-- The fuse map (R456). -/
structure Fuse where
  cores : BitVec 128
  banks : BitVec 128
  pch : BitVec 512
  spare : FMap Nat
  links : Dword
  serial : Dword
  mgmtKey : BitVec 256
  deriving DecidableEq, Repr

/-- A poison event delivered and not ended (R434): the sector, its bank, and each consumption from it: RSEQ and partition. -/
structure PEvent where
  sector : Nat
  bank : Nat
  parts : List (Nat × Nat)
  deriving DecidableEq, Repr

/-- Scrub state of a memory channel (R426, R454): granules below `next` and those in `ahead` have been scrubbed. -/
structure Scrub where
  next : Nat
  ahead : List Nat
  /-- the partition whose SCRUBPEND counts them -/
  owner : Option Nat
  deriving DecidableEq, Repr

/-- Whose turn it is: a track issues, or another agent takes a step. -/
inductive Turn where
  | track (core track : Nat)
  | event (e : Instr)
  deriving DecidableEq, Repr

/-- The issue in progress: warp, active mask, PC and word length. -/
structure Issue where
  place : Nat
  mask : Mask
  pc : Dword
  len : Nat
  deriving DecidableEq, Repr

/-- The whole machine. -/
structure State where
  warps : FMap Warp
  wgs : FMap Wg
  launches : FMap Launch
  cores : FMap Core
  tracks : FMap Track
  /-- matrix unit to the track that took its last K-step (R334) -/
  lastK : FMap Nat
  xfers : FMap Xfer
  parts : FMap Part
  /-- memory as the device sees it, by physical address (R214); bytes not listed are zero -/
  mem : List Host.Cell
  /-- poisoned 32-byte sectors, by address over 32 -/
  poison : FMap Mark
  /-- memory behind the tier-2 ports where it differs from `mem` (R442) -/
  far : FMap Byte
  scrub : FMap Scrub
  l2 : List L2Line
  tlb : List TlbEntry
  /-- the walker caches of the clusters (R223) -/
  walks : List WalkEntry
  pend : FMap Pend
  pevents : List PEvent
  /-- origin sequence number last used, by origin (R2, R479) -/
  oseq : FMap Nat
  ports : FMap Port
  /-- contexts that have translated through a port since its last loss: port, context -/
  used : List (Nat × Nat)
  /-- loss notices owed: context, port, cause (R451) -/
  notices : List (Nat × Nat × Nat)
  snoop : List SnoopEntry
  /-- snoops sent and not answered: line, invalidating -/
  bisnp : List (Nat × Bool)
  outbox : List Out
  tasks : List Task
  /-- vectors that hold a host's or a peer's send which no delivery has collected, by context (R253) -/
  uisys : FMap Nat
  fuse : Fuse
  boot : Nat
  bootFailed : Bool
  /-- channels that boot has disabled (R455, R456): pseudo-channels, and LPDDR-6 channels from 512 -/
  bootOff : List Nat
  fatal : Bool
  cairn : FMap (BitVec 256)
  cairnwp : Dword
  /-- 64-bit words of device control space written since reset (R280 to R287, R436, R458) -/
  dctl : FMap Dword
  /-- row counters of a physical bank: row and count (R277) -/
  rows : FMap (List (Nat × Nat))
  /-- rows under directed refresh -/
  refreshing : List (Nat × Nat × Nat)
  /-- atoms that hold an error of one symbol, which the code corrects (R275, R284, R382) -/
  cerr : List Atom
  /-- atoms that hold an error that the code only detects (R275, R284) -/
  uerr : List Atom
  /-- pseudo-channels whose sparing has ended: the bank retired, the bank that took its place (R278) -/
  spared : FMap (Nat × Nat)
  patrol : Patrol
  /-- Lodge threads that run (R425) -/
  lodgeRun : BitVec 64
  lodgeCycle : Nat
  /-- the Lodge cycle of the last change of FREQ (R458) -/
  thermAt : Nat
  /-- MODEL'S OWN: the turns to come -/
  agenda : List Turn
  /-- MODEL'S OWN: the issue that exec acts on -/
  cur : Option Issue
  /-- MODEL'S OWN: how many free values have been taken -/
  free : Nat
  /-- MODEL'S OWN: the next request number -/
  nextId : Nat
  /-- MODEL'S OWN: steps taken -/
  now : Nat
  deriving DecidableEq, Repr

/-- Why a step stops with a fault. -/
inductive Fault where
  /-- an instruction word was to act and no resident warp's issue is in progress; raised by every instruction word's
  meaning; no step of the machine reaches it, so the stop is safe -/
  | noIssue
  deriving DecidableEq, Repr

/-- Why a step is refused. -/
inductive Refusal where
  /-- no meaning is modelled; raised by exec alone; safe -/
  | notModelled (mnemonic : String)
  deriving DecidableEq, Repr

/-- A clean value. -/
def Val.clean (w : Word) : Val := ⟨w, none⟩

/-- A uniform register that holds zero. -/
def UReg.zero : UReg := ⟨Val.clean 0, none⟩

/-- The descriptor of a partition that does not exist (R419). -/
def Desc.empty : Desc := ⟨false, false, false, 0, 0, 0, 0, 0, 0, 0, 0, 0, 0, 0, 0⟩

/-- A partition as no PARTSET has written it. -/
def Part.empty : Part := ⟨Desc.empty, [], 1, 0, 0, [], [], [], [], [], [], [], [], [], none, false⟩

/-- A core that holds nothing. -/
def Core.empty : Core := ⟨0, none, [], [], [], false, 0⟩

/-- An accumulator that holds +0 in floating mode. -/
def Acc.zero : Acc := ⟨false, [], []⟩

/-- A tile register whose data bytes are 0 and scale bytes 0x7F. -/
def Tile.zero : Tile := ⟨[], [], []⟩

/-- A track whose binding is free (R317). -/
def Track.empty : Track := ⟨0, 0, 0, none, [], Acc.zero, Acc.zero, []⟩

/-- A track whose binding is free again (R317): its tiles, accumulators and queue are gone. -/
def Track.unbound (t : Track) : Track := { Track.empty with seq := t.seq, cycle := t.cycle, last := t.last }

/-- A port before training (R437). -/
def Port.down : Port := ⟨false, false, 0, 0, 0, 0⟩

/-- The exception record at reset (R19). -/
def XRec.zero : XRec := ⟨0, 0, false, false, 0, 0, 0⟩

/-- A key slot that holds no key. -/
def KeySlot.emptySlot : KeySlot := ⟨.empty, 0, 0, [], none⟩

/-- The fuses: 64 cores enabled (R456); which, and the other contents, are DESIGN CHOICE (log 6). -/
def Fuse.chosen : Fuse :=
  ⟨0xFFFFFFFFFFFFFFFF, BitVec.allOnes 128, BitVec.allOnes 512, [], 0x003FFFFFFFFFFFFF, 0, 0⟩

/-- Every channel scrub-pending in whole (R454): pseudo-channels 0 to 511, then LPDDR-6 channels 512 to 543. -/
def scrubAll : FMap Scrub := (List.range 544).map (fun c => (c, ⟨0, [], none⟩))

/-- The machine after a cold reset (R454): nothing resident, no partition, boot about to begin (R455). -/
def State.reset : State where
  warps := []
  wgs := []
  launches := []
  cores := []
  tracks := []
  lastK := []
  xfers := []
  parts := []
  mem := []
  poison := []
  far := []
  scrub := scrubAll
  l2 := []
  tlb := []
  walks := []
  pend := []
  pevents := []
  oseq := []
  ports := []
  used := []
  notices := []
  snoop := []
  bisnp := []
  outbox := []
  tasks := []
  uisys := []
  fuse := Fuse.chosen
  boot := 0
  bootFailed := false
  bootOff := []
  fatal := false
  cairn := []
  cairnwp := 0
  dctl := []
  rows := []
  refreshing := []
  cerr := []
  uerr := []
  spared := []
  patrol := ⟨0, [], [], 0, false, 0, 0⟩
  lodgeRun := 0
  lodgeCycle := 0
  thermAt := 0
  agenda := []
  cur := none
  free := 0
  nextId := 0
  now := 0

end Sys2Proof.Machine
end

