-- ==== Sys2Proof/Machine/Descriptor.lean ====
section
/-! DEFINITION. Tile descriptors: their fields, window and addresses (R288, R289). -/

namespace Sys2Proof.Machine

open Sys2Proof

/-- A field of a descriptor. -/
def dField (d : BitVec 256) (lo n : Nat) : Nat := bits d.toNat lo n
/-- V. -/
def dV (d : BitVec 256) : Bool := d.getLsbD 255
/-- LAZY. -/
def dLazy (d : BitVec 256) : Bool := d.getLsbD 254
/-- Bytes of an element, 2^ESZ. -/
def dElem (d : BitVec 256) : Nat := 2 ^ dField d 252 2
/-- CLS. -/
def dCls (d : BitVec 256) : CacheClass :=
  match dField d 250 2 with
  | 1 => .evictFirst | 2 => .evictLast | _ => .normal
/-- SOFF. -/
def dSoff (d : BitVec 256) : Nat := dField d 192 32
/-- D0. -/
def dD0 (d : BitVec 256) : Nat := dField d 128 16
/-- D1. -/
def dD1 (d : BitVec 256) : Nat := dField d 144 16
/-- D2. -/
def dD2 (d : BitVec 256) : Nat := dField d 160 16
/-- GS2. -/
def dGs2 (d : BitVec 256) : Int := toSigned 32 (dField d 96 32)
/-- GS1. -/
def dGs1 (d : BitVec 256) : Int := toSigned 32 (dField d 64 32)
/-- GADDR. -/
def dGaddr (d : BitVec 256) : Nat := dField d 0 64
/-- Reserved bits are set. -/
def dReserved (d : BitVec 256) : Bool := dField d 224 26 != 0 || dField d 176 16 != 0

/-- Elements of a descriptor. -/
def dCount (d : BitVec 256) : Nat := dD0 d * dD1 d * dD2 d
/-- Bytes of the window. -/
def dBytes (d : BitVec 256) : Nat := dElem d * dCount d
/-- The chunks the window touches: first and count (R289). -/
def dChunks (d : BitVec 256) : Nat × Nat :=
  if dBytes d = 0 then (dSoff d / 512, 0) else (dSoff d / 512, (dSoff d + dBytes d - 1) / 512 - dSoff d / 512 + 1)
/-- A chunk lies in the window. -/
def dHas (d : BitVec 256) (k : Nat) : Bool := decide ((dChunks d).1 ≤ k) && decide (k < (dChunks d).1 + (dChunks d).2)

/-- The global address of element n, in order of the dense side (R289): exact. -/
def dGlobal (d : BitVec 256) (n : Nat) : Int :=
  (dGaddr d : Int) + ((dElem d * (n % dD0 d) : Nat) : Int) + dGs1 d * ((n / dD0 d % dD1 d : Nat) : Int) +
    dGs2 d * ((n / (dD0 d * dD1 d) : Nat) : Int)
/-- The scratchpad offset of element n. -/
def dLocal (d : BitVec 256) (n : Nat) : Nat := dSoff d + dElem d * n

end Sys2Proof.Machine
end

