-- ==== Sys2Proof/Config.lean ====
section
/-! DEFINITION. What the spec leaves open: constants without a body, so that nothing can be proved of their values. -/

namespace Sys2Proof.Config

open Sys2Proof

/-- Whether an L1 line that a load may hit serves it (R212), by the count of free values taken. -/
opaque l1Serves : Nat → Bool
/-- Whether an instruction word fetched before serves a fetch again (R213). -/
opaque icacheServes : Nat → Bool
/-- Whether a cached translation serves an access (R223). -/
opaque tlbServes : Nat → Bool
/-- How far the cycle count of a core stands from the count of steps (R14). -/
opaque clockSkew : Nat → Nat
/-- AES-256-XTS of one 32-byte sector (R427): by key, and by the sector's address over 32. -/
opaque cipher : Nat → Nat → Equiv.Perm (BitVec 256)
/-- The key that KEYLOAD unwraps from its argument block (R430). -/
opaque unwrapKey : List Byte → Nat
/-- Whether a signature verifies under LMS (R433, R460): by the signed content and the signature. -/
opaque lmsOk : Nat → Nat → Bool
/-- The bytes of an attestation report (R432): by the fields that the spec lists for it, in order, and the position. -/
opaque reportByte : List Nat → Nat → Byte
/-- Whether the report of the peer of a session exchange verifies (R443): by the leaf spent. -/
opaque peerVerifies : Nat → Bool
/-- HMAC-SHA-256 under a session key (R445). -/
opaque hmac : Nat → List Byte → BitVec 256
/-- What Chairlift writes into the LINK field of a record it links (R346). -/
opaque link : Nat → BitVec 64
/-- Whether a page walk that several CONTIG entries could serve takes the first or the entry read (R222). -/
opaque contigEntry : Nat → Fin 16
/-- The atoms an HBM or LPDDR-6 controller transfers per bucket window (R280: by controller). -/
opaque tbcap : Nat → BitVec 32
/-- Whether a walker's cached table entry serves a walk (R223), by the count of free values taken. -/
opaque walkServes : Nat → Bool
/-- Which physical bank of a pseudo-channel backs each logical bank when the part is new (R274), but for the spare's place. -/
opaque bankOrder : Nat → Equiv.Perm (Fin 48)
/-- The installed size code of the LPDDR-6 channels, found at training (R283, R285). -/
opaque lpSize : Fin 4
/-- Whether a host grants a read of its line exclusive (R442), by the count of free values taken. -/
opaque hostGrants : Nat → Bool
/-- The mode that firmware gives a port (R435). -/
opaque portMode : Nat → Fin 4
/-- The session key that two Patrols derive (R443): by the LMS leaf spent. -/
opaque sessionKey : Nat → Nat
/-- The slot that a KEYLOAD, KEYKILL or CTXPROT names in its argument block (R430). -/
opaque argSlot : List Byte → Nat
/-- The context that a CTXPROT or CTXUNPROT names in its argument block (R430). -/
opaque argCtx : List Byte → Nat
/-- The partition mask and the token of a DBGUNLOCK's argument block (R433). -/
opaque argToken : List Byte → BitVec 16 × Nat

/-- The most bytes of payload that one PCIe message carries (R445). -/
opaque pcieBytes : Nat
/-- The device number that management firmware gives the device at bring-up (R436). -/
opaque devNumber : BitVec 12
/-- Patrol's share and nonce in the opening of a management session (R460): by the LMS leaf spent. -/
opaque patrolShare : Nat → BitVec 1024
/-- The key of a management session (R460): by the LMS leaf spent, and the controller's share and nonce. -/
opaque openKey : Nat → Nat → Nat → Nat

end Sys2Proof.Config
end

