-- ==== Sys2Proof/Machine/Memory.lean ====
section
/-! DEFINITION. Physical memory: bytes in canonical form, poison marks, ranges and scrub, the cipher, origin sequence
numbers and the Cairn record. -/

namespace Sys2Proof.Machine

open Sys2Proof

/-! Bytes. -/

/-- Reads one byte; an unlisted address reads zero. -/
def memGet : List Host.Cell → Nat → Byte
  | [], _ => 0#8
  | (k, b) :: t, a => if a = k then b else memGet t a

/-- Writes one byte and keeps the canonical form: writing zero removes the entry. -/
def memPut : List Host.Cell → Nat → Byte → List Host.Cell
  | [], a, b => if b = 0#8 then [] else [(a, b)]
  | (k, c) :: t, a, b =>
    if a = k then (if b = 0#8 then t else (k, b) :: t)
    else if a < k then (if b = 0#8 then (k, c) :: t else (a, b) :: (k, c) :: t)
    else (k, c) :: memPut t a b

/-- Every entry holds a value other than zero and lies above `lo`, in rising order. -/
def memAbove : Nat → List Host.Cell → Bool
  | _, [] => true
  | lo, (k, b) :: t => decide (lo ≤ k) && b != 0#8 && memAbove (k + 1) t

/-- The canonical form: addresses strictly rising, no entry zero. -/
def Memory.wf (m : List Host.Cell) : Bool := memAbove 0 m

/-- Sets every byte of a range to zero. -/
def memClear (m : List Host.Cell) (lo hi : Nat) : List Host.Cell :=
  m.filter (fun c => !(decide (lo ≤ c.1) && decide (c.1 < hi)))

/-- Writes bytes at consecutive addresses. -/
def memPuts (m : List Host.Cell) (a : Nat) : List Byte → List Host.Cell
  | [] => m
  | b :: t => memPuts (memPut m a b) (a + 1) t

/-- n bytes from an address. -/
def memGets (m : List Host.Cell) (a n : Nat) : List Byte := (List.range n).map (fun i => memGet m (a + i))

/-- The number that bytes hold, little-endian (R6). -/
def natOfBytes : List Byte → Nat
  | [] => 0
  | b :: t => b.toNat + 256 * natOfBytes t

/-- n bytes of a number, little-endian (R6). -/
def bytesOfNat : Nat → Nat → List Byte
  | 0, _ => []
  | n + 1, x => BitVec.ofNat 8 x :: bytesOfNat n (x / 256)

/-! Origin sequence numbers and Cairn (R2, R462). -/

/-- Gives the next origin sequence number of an origin. -/
def nextOseq (s : State) (origin : Nat) : State × Nat :=
  let n := FMap.getD s.oseq origin 0 + 1
  ({ s with oseq := FMap.ins s.oseq origin n }, n)

/-- Sends a packet to a host, peer or controller, with the next sequence number of its origin (R2). -/
def sendOut (s : State) (origin : Nat) (f : Nat → Out) : State :=
  let (s, n) := nextOseq s origin
  { s with outbox := s.outbox ++ [f n] }

/-- Writes a Cairn entry; `lo` and `hi` are the two halves of its payload (R462, R463). -/
def cairnWrite (s : State) (origin code part lo hi : Nat) : State :=
  let (s, n) := nextOseq s origin
  let e : BitVec 256 :=
    BitVec.ofNat 256 (n % 2 ^ 64 * 2 ^ 192 + origin % 2 ^ 16 * 2 ^ 176 + code * 2 ^ 160 + part % 16 * 2 ^ 156 +
      hi % 2 ^ 64 * 2 ^ 64 + lo % 2 ^ 64)
  { s with cairn := FMap.ins s.cairn (s.cairnwp.toNat % 4096) e, cairnwp := s.cairnwp + 1 }

/-- The origin of Chairlift (R479). -/
def originChairlift : Nat := 0x0900
/-- The origin of Patrol. -/
def originPatrol : Nat := 0x0A00
/-- The origin of a core's page walker: its cluster of eight cores. -/
def originWalker (core : Nat) : Nat := 0x0100 + core / 8
/-- The origin of an L2 bank. -/
def originBank (b : Nat) : Nat := 0x0300 + b
/-- The origin of a warp's record: its core, or its Lodge thread (place 9216 + j). -/
def originOfPlace (place : Nat) : Nat := if place ≥ 9216 then 0x0800 + (place - 9216) else place / 128

/-! Partitions. -/

/-- A partition's state, empty if no PARTSET has written it. -/
def part (s : State) (p : Nat) : Part := FMap.getD s.parts p Part.empty

/-- Changes a partition. -/
def modPart (s : State) (p : Nat) (f : Part → Part) : State := { s with parts := FMap.ins s.parts p (f (part s p)) }

/-- The numbers of a bitmap's set bits, counted upward. -/
def bitList {n : Nat} (b : BitVec n) : List Nat := (List.range n).filter (fun i => b.getLsbD i)

/-- Usable bytes of an LPDDR-6 channel: 15/16 of its installed size (R283). -/
def lpUsable : Nat := 7864320 * 1024 * 2 ^ Config.lpSize.val

/-- Bytes of a pseudo-channel's slice (R274). -/
def sliceBytes : Nat := 752 * 1048576

/-- Where a physical address lies (R214, R274, R283, R435): a memory channel and the offset in it (pseudo-channels 0 to
511, LPDDR-6 channels 512 to 543), a CXL port, or nowhere. -/
inductive PaKind where
  | chan (c q : Nat)
  | port (k : Nat)
  | bad
  deriving DecidableEq, Repr

/-- A port before training: its MODE is the one that firmware gives it, disabled where the fuses leave the port out (R435, R437,
R456). -/
def portUntrained (s : State) (k : Nat) : Port :=
  { Port.down with mode := if k < 6 ∧ s.fuse.links.getLsbD (32 + k) then (Config.portMode k).val else 0 }

/-- A port's state. -/
def port (s : State) (k : Nat) : Port := FMap.getD s.ports k (portUntrained s k)

/-- The function of partition p is presented to a host: p owns a HOST port whose link is up (R438), from boot stage 5 on (R455). -/
def hostFunction (s : State) (p : Nat) : Bool :=
  decide (4 ≤ s.boot) &&
    (List.range 6).any (fun k => (FMap.getD s.parts p Part.empty).desc.ports.getLsbD k && (port s k).mode == 1 && (port s k).up)

/-- LPDDR-6 channel c is present: enabled by the fuses and not disabled at boot (R455, R456). -/
def lpEnabled (s : State) (c : Nat) : Bool := s.fuse.links.getLsbD c && !s.bootOff.contains (512 + c)

/-- Pseudo-channel c is present. -/
def pchEnabled (s : State) (c : Nat) : Bool := s.fuse.pch.getLsbD c && !s.bootOff.contains c

/-- Classifies a physical address (R214, R274, R276, R283, R435). -/
def paKind (s : State) (pa : Nat) : PaKind :=
  let t := pa / 2 ^ 48 % 4
  let o := pa % 2 ^ 48
  if t = 0 then
    let c := o / sliceBytes
    if c < 512 ∧ pchEnabled s c then .chan c (o % sliceBytes) else .bad
  else if t = 1 then
    let c := o / lpUsable
    if c < 32 ∧ lpEnabled s c then .chan (512 + c) (o % lpUsable) else .bad
  else if t = 2 then
    let k := o / 2 ^ 45
    if k < 6 ∧ (port s k).mode ≠ 0 then .port k else .bad
  else .bad

/-- The partition owns a channel or a port (R419). -/
def ownsKind (d : Desc) (k : PaKind) : Bool :=
  match k with
  | .chan c _ => if c < 512 then d.pch.getLsbD c else d.lpch.getLsbD (c - 512)
  | .port k => d.ports.getLsbD k
  | .bad => false

/-- The partition that owns the memory at a physical address (R214, R421). -/
def ownerOf (s : State) (pa : Nat) : Option Nat :=
  (s.parts.find? (fun e => e.2.desc.valid && ownsKind e.2.desc (paKind s pa))).map Prod.fst

/-- The number of the (n mod B)-th owned bank (R214). -/
def ownedBank (own : BitVec 128) (n : Nat) : Option Nat := (bitList own)[n]?

/-- Bank and set of a line of a partition's memory (R214). -/
def l2Place (own : BitVec 128) (pa : Nat) : Option (Nat × Nat) :=
  let l := pa / 128
  let h := l ^^^ (l / 2 ^ 12) ^^^ (l / 2 ^ 24) ^^^ (l / 2 ^ 36)
  let b := (bitList own).length
  if b = 0 then none else (ownedBank own (h % b)).map (fun k => (k, l / b % 1024))

/-- Bank and set of a physical address, over its owner's banks. -/
def placeOf (s : State) (pa : Nat) : Option (Nat × Nat) :=
  match ownerOf s pa with
  | some p => l2Place (part s p).desc.banks pa
  | none => none

/-- Adds k to a saturating field of a word. -/
def satAdd (lo n k x : Nat) : Nat := setBits x lo n (min (bits x lo n + k) (2 ^ n - 1))

/-! Device control space. -/

/-- A 64-bit word of device control space as written since reset, with the reset values of R280, R287 and R458. LPCFG.SIZE is set at
boot stage 3 (R285, R455), and reads as for an absent channel before (log 130). -/
def dctlWord (s : State) (a : Nat) : Nat :=
  match FMap.get? s.dctl a with
  | some w => w.toNat
  | none =>
    if 0x00800000 ≤ a ∧ a < 0x00808000 then
      let q := (a - 0x00800000) / 0x40
      match (a - 0x00800000) % 0x40 with
      | 0x00 => 2 ^ 31 + 512
      | 0x10 => FMap.getD s.fuse.spare q 47
      | 0x28 => (Config.tbcap q).toNat
      | _ => 0
    else if 0x00C00000 ≤ a ∧ a < 0x00C00800 then
      let c := (a - 0x00C00000) / 0x40
      match (a - 0x00C00000) % 0x40 with
      | 0x00 => if lpEnabled s c && decide (3 ≤ s.boot) then Config.lpSize.val else 7
      | 0x10 => (Config.tbcap (512 + c)).toNat
      | _ => 0
    else if (0x01000000 ≤ a ∧ a < 0x01010000) ∨ (0x01010000 ≤ a ∧ a < 0x01011000) then 0xFFFF * 2 ^ 16
    else if a = 0x07000000 then 30 * 2 ^ 16 + 95 * 2 ^ 8 + 190
    else 0

/-- Stores a word of device control space. -/
def dctlSet (s : State) (a v : Nat) : State := { s with dctl := FMap.ins s.dctl a (BitVec.ofNat 64 v) }

/-- The device number (R436). -/
def devNum (s : State) : Nat := bits (dctlWord s 0x04000000) 0 12

/-- Raises a saturating count of ECCCNT of a channel: CE at bit 0, UE at bit 32 (R275, R280, R285). -/
def eccCount (s : State) (c : Nat) (ue : Bool) : State :=
  let a := if c < 512 then 0x00800000 + 0x40 * c + 0x18 else 0x00C00000 + 0x40 * (c - 512) + 0x08
  dctlSet s a (satAdd (if ue then 32 else 0) 32 1 (dctlWord s a))

/-! DRAM atoms (R274, R275, R278, R279, R281 to R285). -/

/-- The physical bank that backs a logical bank before any sparing: the part's own order, in which the bank that would stand
on the spare stands last instead (R274, R278). -/
def freshBank (s : State) (pch l : Nat) : Nat :=
  let at' (i : Nat) : Nat := (Config.bankOrder pch (Fin.ofNat 48 i)).val
  if at' l = FMap.getD s.fuse.spare pch 47 then at' 47 else at' l

/-- The physical bank that serves a row of a logical bank: the spare for the rows that a sparing copy has passed, and for all
rows once it has ended (R278, R279). -/
def physBank (s : State) (pch l row : Nat) : Nat :=
  let b := match FMap.get? s.spared pch with
    | some (src, spare) => if freshBank s pch l = src then spare else freshBank s pch l
    | none => freshBank s pch l
  let w := dctlWord s (0x00800000 + 0x40 * pch + 0x10)
  if bits w 31 1 = 1 ∧ bits w 8 6 = b ∧ row < bits w 32 15 then bits w 0 6 else b

/-- The atom that holds offset q of a channel: chunks of 1 KiB go round the 47 logical banks of a pseudo-channel (R274); a row
of an LPDDR-6 channel holds 60 atoms, the check word of atom k at byte 1,920 + 2 k (R283, R284). -/
def atomAt (s : State) (c q : Nat) : Atom :=
  if c < 512 then
    let k := q / 1024
    ⟨c, physBank s c (k % 47) (k / 47), k / 47, q % 1024 / 32⟩
  else ⟨c, 0, q / 1920, q % 1920 / 32⟩

/-- The physical address of an atom, none for one that backs no address. -/
def atomPa (s : State) (a : Atom) : Option Nat :=
  if a.chan < 512 then
    ((List.range 47).find? (fun l => physBank s a.chan l a.row == a.bank)).map
      (fun l => a.chan * sliceBytes + (47 * a.row + l) * 1024 + 32 * a.atom)
  else some (2 ^ 48 + (a.chan - 512) * lpUsable + 1920 * a.row + 32 * a.atom)

/-- A valid entry of the stack's remap table names an atom (R281, R282): its slot serves the atom's accesses. -/
def remapped (s : State) (a : Atom) : Bool :=
  decide (a.chan < 512) && s.dctl.any (fun e =>
    decide (0x00A00000 + 0x4000 * (a.chan / 64) ≤ e.1) && decide (e.1 < 0x00A00000 + 0x4000 * (a.chan / 64 + 1)) &&
    [0, 32].any (fun h =>
      bits e.2.toNat (h + 31) 1 == 1 && bits e.2.toNat h 30 == a.chan % 64 * 2 ^ 25 + a.bank * 2 ^ 19 + a.row * 2 ^ 5 + a.atom))

/-- The atom's errors are gone: it has been written whole (R275). -/
def atomWritten (s : State) (a : Atom) : State :=
  if s.cerr.isEmpty && s.uerr.isEmpty then s
  else { s with cerr := s.cerr.filter (· != a), uerr := s.uerr.filter (· != a) }

/-- Reads an atom: an error that the code corrects counts in CE, one that it only detects counts in UE, and the sector, if
some address has it, is poisoned (R275, R284, R285). -/
def atomRead (s : State) (a : Atom) (sec : Option Nat) : State :=
  if s.uerr.contains a then
    let s := { eccCount s a.chan true with uerr := s.uerr.filter (· != a) }
    match sec with
    | some k => { s with poison := FMap.ins s.poison k .anon }
    | none => s
  else if s.cerr.contains a then { eccCount s a.chan false with cerr := s.cerr.filter (· != a) }
  else s

/-- An access to the sector of a physical address reaches its atom, unless a remap slot serves it (R281); `whole` says that the
access writes all of it. -/
def atomAccess (s : State) (pa : Nat) (whole : Bool) : State :=
  if s.cerr.isEmpty && s.uerr.isEmpty then s
  else
    match paKind s pa with
    | .chan c q =>
      let a := atomAt s c q
      if remapped s a then s else if whole then atomWritten s a else atomRead s a (some (pa / 32))
    | _ => s

/-- A read of the sector of a physical address delivers it poisoned: it is marked, or its atom holds an error that the code only
detects (R275). -/
def readsPoisoned (s : State) (pa : Nat) : Bool :=
  (FMap.get? s.poison (pa / 32)).isSome ||
    (match paKind s pa with
      | .chan c q => s.uerr.contains (atomAt s c q) && !remapped s (atomAt s c q)
      | _ => false)

/-- Reads every atom that lies in a range of physical addresses. -/
def atomsRead (s : State) (lo hi : Nat) : State :=
  (s.cerr ++ s.uerr).foldl (fun s a =>
    match atomPa s a with
    | some pa => if lo ≤ pa ∧ pa < hi ∧ !remapped s a then atomRead s a (some (pa / 32)) else s
    | none => s) s

/-- The errors of the atoms that lie in a range of physical addresses are gone (R426). -/
def atomsClean (s : State) (lo hi : Nat) : State :=
  let out (a : Atom) : Bool := !(atomPa s a).any (fun pa => decide (lo ≤ pa) && decide (pa < hi))
  if s.cerr.isEmpty && s.uerr.isEmpty then s else { s with cerr := s.cerr.filter out, uerr := s.uerr.filter out }

/-! Scrub on demand (R426, R454). -/


/-- Granules of a channel. -/
def granules (c : Nat) : Nat := if c < 512 then sliceBytes / 2097152 else lpUsable / 2097152

/-- The physical address of offset q of a channel. -/
def chanPa (c q : Nat) : Nat := if c < 512 then c * sliceBytes + q else 2 ^ 48 + (c - 512) * lpUsable + q

/-- A granule of a channel is scrub-pending. -/
def scrubPending (s : State) (c g : Nat) : Bool :=
  match FMap.get? s.scrub c with
  | none => false
  | some x => decide (x.next ≤ g) && !x.ahead.contains g

/-- A list without its later repetitions. -/
def firsts (l : List Nat) : List Nat := l.foldl (fun r p => if r.contains p then r else r ++ [p]) []

/-- Ends the poison event of a sector: one host error event lists the partitions that consumed from it, by the lowest RSEQ that
each consumed (R434). -/
def endEvent (s : State) (sec : Nat) : State :=
  match s.pevents.find? (fun e => e.sector == sec) with
  | none => s
  | some e =>
    let s := { s with pevents := s.pevents.filter (fun e => e.sector != sec) }
    if e.parts.isEmpty then s
    else sendOut s (originBank e.bank) (fun n =>
      .poisonEnd e.bank n sec (firsts ((sortBy (fun a b => decide (a.1 ≤ b.1)) e.parts).map Prod.snd)))

/-- Writes zero over a range with clean ECC and clears its poison: the events of its sectors end (R426, R434). -/
def zeroRange (s : State) (lo hi : Nat) : State :=
  let inside (sec : Nat) : Bool := decide (lo / 32 ≤ sec) && decide (sec < hi / 32)
  let s := atomsClean s lo hi
  let s := { s with mem := memClear s.mem lo hi, poison := s.poison.filter (fun e => !inside e.1) }
  ((s.pevents.filter (fun e => inside e.sector)).map (fun e => e.sector)).foldl endEvent s

/-- Scrubs one granule: writes zero, clears poison, and counts it off at its owner. -/
def scrubOne (s : State) (c g : Nat) : State :=
  match FMap.get? s.scrub c with
  | none => s
  | some x =>
    let lo := chanPa c (g * 2097152)
    let x' : Scrub := if g = x.next then { x with next := g + 1, ahead := x.ahead.filter (· != g) }
      else { x with ahead := x.ahead ++ [g] }
    let scr := if decide (x'.next + x'.ahead.length ≥ granules c) then FMap.del s.scrub c else FMap.ins s.scrub c x'
    let s := { zeroRange s lo (lo + 2097152) with scrub := scr }
    match x.owner with
    | some p => modPart s p (fun q => { q with desc := { q.desc with scrubPend := q.desc.scrubPend - 1 } })
    | none => s

/-- Scrubs the granule that an access waits on (R426). -/
def scrubAt (s : State) (pa : Nat) : State :=
  match paKind s pa with
  | .chan c q => if scrubPending s c (q / 2097152) then scrubOne s c (q / 2097152) else s
  | _ => s

/-! Poison events (R434) and out-of-range addresses (R276). -/

/-- An access reaches memory: it is in range, and the port it names, if any, is owned where no leaf vouches for it
(`owner`) and has recorded no loss. -/
def paReach (s : State) (owner : Option Nat) (pa : Nat) : Bool :=
  match paKind s pa with
  | .chan _ _ => true
  | .port k =>
    (match owner with
      | some p => (part s p).desc.ports.getLsbD k
      | none => true)
  | .bad => false

/-- A tier-2 address whose port has recorded a loss (R451). -/
def paLost (s : State) (pa : Nat) : Bool :=
  match paKind s pa with
  | .port k => (port s k).lost
  | _ => false

/-- The agent that refuses an out-of-range access: the controller or port that the address names, else L2 bank 0, which is the
model's choice (R276, R479, log 104). -/
def refuser (pa : Nat) : Nat :=
  let t := pa / 2 ^ 48 % 4
  let o := pa % 2 ^ 48
  if t = 0 then (if o / sliceBytes < 512 then 0x0400 + o / sliceBytes else originBank 0)
  else if t = 1 then (if o / lpUsable < 32 then 0x0600 + o / lpUsable else originBank 0)
  else if t = 2 then (if o / 2 ^ 45 < 6 then 0x0700 + o / 2 ^ 45 else originBank 0)
  else originBank 0

/-- Writes the OUTRANGE event of an address (R276). -/
def outRange (s : State) (p pa : Nat) : State := cairnWrite s (refuser pa) 0x0010 p pa 0

/-- The partition a Cairn entry names: 0xF for the device. -/
def partField (p : Option Nat) : Nat := p.getD 15

/-- Delivers the mark of a poisoned sector, with the bank's number of this read. The first delivery of a poison event writes the
Cairn entry; every later one belongs to the same event (R434). The number is this read's own: the line's lookup has given it none
(l2Access). A sector that no partition owns is taken to be read by bank 0
(log 104). -/
def deliverMark (s : State) (pa : Nat) : State × Option Mark :=
  let sec := pa / 32
  match FMap.get? s.poison sec with
  | none => (s, none)
  | some _ =>
    let event := s.pevents.find? (fun e => e.sector == sec)
    let b := match event with
      | some e => e.bank
      | none => ((placeOf s pa).map Prod.fst).getD 0
    let (s, n) := nextOseq s (0x10000 + b)
    let s := match event with
      | some _ => s
      | none =>
        let s := cairnWrite s (originBank b) 0x0011 (partField (ownerOf s pa)) (sec * 32) 0
        { s with pevents := s.pevents ++ [⟨sec, b, []⟩] }
    (s, some (.ev b n sec))

/-- Marks a sector poisoned (R364). -/
def poisonSector (s : State) (sec : Nat) (m : Mark) : State := { s with poison := FMap.ins s.poison sec m }

/-- Clears a sector's poison. -/
def cleanSector (s : State) (sec : Nat) : State :=
  match FMap.get? s.poison sec with
  | none => s
  | some _ => endEvent { s with poison := FMap.del s.poison sec } sec

/-! Sectors under the cluster cipher (R427, R428). -/

/-- The 32 bytes of a sector as stored. -/
def sectorRaw (s : State) (sec : Nat) : List Byte := memGets s.mem (sec * 32) 32

/-- The 32 bytes of a sector as an access under a key slot's key reads them; a poisoned sector is not decrypted (R428). -/
def sectorBytes (s : State) (key : Option Nat) (sec : Nat) : List Byte :=
  match key, FMap.get? s.poison sec with
  | none, _ | some _, some _ => sectorRaw s sec
  | some k, none => bytesOfNat 32 ((Config.cipher k sec).symm (BitVec.ofNat 256 (natOfBytes (sectorRaw s sec)))).toNat

/-- Remembers what the home of tier-2 bytes holds while L2 holds a newer value (R442, R451). -/
def farKeep (s : State) (pa : Nat) (n : Nat) : State :=
  if pa / 2 ^ 48 % 4 = 2 then
    { s with far := (List.range n).foldl (fun f i =>
        match FMap.get? f (pa + i) with
        | some _ => f
        | none => FMap.ins f (pa + i) (memGet s.mem (pa + i))) s.far }
  else s

/-- Writes bytes as an access under a key writes them. -/
def putBytes (s : State) (key : Option Nat) (pa : Nat) (l : List Byte) : State :=
  let s := farKeep s pa l.length
  match key with
  | none => { s with mem := memPuts s.mem pa l }
  | some k =>
    let sec := pa / 32
    let old := sectorBytes s key sec
    let new := old.take (pa % 32) ++ l ++ old.drop (pa % 32 + l.length)
    let stored := bytesOfNat 32 (Config.cipher k sec (BitVec.ofNat 256 (natOfBytes new))).toNat
    match FMap.get? s.poison sec with
    | some _ => { s with mem := memPuts s.mem pa l }
    | none => { s with mem := memPuts s.mem (sec * 32) stored }

/-! One access of at most one sector. -/

/-- What a read of n bytes inside one sector gives: its bytes, and a poison mark. `owner` names the partition on whose
behalf a physical address without a leaf is reached. -/
def physRead (s : State) (owner : Option Nat) (key : Option Nat) (pa n : Nat) : State × List Byte × Option Mark :=
  if !paReach s owner pa then (outRange s (partField owner) pa, List.replicate n 0#8, some .anon)
  else if paLost s pa then (s, List.replicate n 0#8, some .anon)
  else
    let s := atomAccess (scrubAt s pa) pa false
    let (s, m) := deliverMark s pa
    (s, match key with
      | none => memGets s.mem pa n
      | some _ => ((sectorBytes s key (pa / 32)).drop (pa % 32)).take n, m)

/-- One write of an access: address, bytes, and the mark of poisoned data. -/
structure Store where
  pa : Nat
  bytes : List Byte
  mark : Option Mark
  deriving DecidableEq, Repr

/-- Sectors named by a list of stores, each once. -/
def storeSectors (l : List Store) : List Nat := (l.map (fun w => w.pa / 32)).dedup

/-- The bytes of a sector that a list of stores writes. -/
def coveredBy (l : List Store) (sec : Nat) : Nat :=
  ((List.range 32).filter (fun i => l.any (fun w =>
    decide (w.pa ≤ sec * 32 + i) && decide (sec * 32 + i < w.pa + w.bytes.length)))).length

/-- Performs one store that lies inside one sector. -/
def physStore (owner : Option Nat) (key : Option Nat) (s : State) (w : Store) : State :=
  if !paReach s owner w.pa then outRange s (partField owner) w.pa
  else if paLost s w.pa then s
  else putBytes (scrubAt s w.pa) key w.pa w.bytes

/-- The poison of a sector after the stores of one issue: poisoned data mark it, clean data over the whole of it clear
it, anything less leaves it (R259). -/
def poisonAfter (owner : Option Nat) (l : List Store) (s : State) (sec : Nat) : State :=
  if !paReach s owner (sec * 32) || paLost s (sec * 32) then s
  else
    let s := atomAccess s (sec * 32) (coveredBy l sec == 32)
    let s := atomAccess s (sec * 32) true
    match (l.filter (fun w => w.pa / 32 == sec)).findSome? (fun w => w.mark) with
    | some m => poisonSector s sec m
    | none => if coveredBy l sec = 32 then cleanSector s sec else s

/-- Performs the stores of one issue, in order: the last writer of a byte is the last of the list (R261). A clean store
of a whole sector takes away its poison before its bytes are written, so that the cipher applies to them. -/
def physStores (s : State) (owner : Option Nat) (key : Option Nat) (l : List Store) : State :=
  let s := l.foldl (fun s w => scrubAt s w.pa) s
  let s := (storeSectors l).foldl (poisonAfter owner l) s
  l.foldl (physStore owner key) s

/-- Splits bytes at an address into stores of at most one sector each. -/
def splitStores (fuel : Nat) (pa : Nat) (l : List Byte) (mark : Option Mark) : List Store :=
  match fuel with
  | 0 => []
  | f + 1 =>
    if l.isEmpty then []
    else
      let n := 32 - pa % 32
      ⟨pa, l.take n, mark⟩ :: splitStores f (pa + n) (l.drop n) mark

/-- Writes bytes at a physical address. -/
def physWrite (s : State) (owner : Option Nat) (key : Option Nat) (pa : Nat) (l : List Byte) : State :=
  physStores s owner key (splitStores (l.length + 1) pa l none)

/-- Writes a 64-bit word at a physical address. -/
def physWrite64 (s : State) (owner : Option Nat) (pa x : Nat) : State := physWrite s owner none pa (bytesOfNat 8 x)

/-- Reads n bytes from a physical address, sector by sector: the bytes, and the mark of each byte. -/
def physReadN (s : State) (owner : Option Nat) (key : Option Nat) (fuel pa n : Nat) :
    State × List Byte × List (Option Mark) :=
  match fuel with
  | 0 => (s, [], [])
  | f + 1 =>
    if n = 0 then (s, [], [])
    else
      let k := min n (32 - pa % 32)
      let (s, b, m) := physRead s owner key pa k
      let (s, bs, ms) := physReadN s owner key f (pa + k) (n - k)
      (s, b ++ bs, List.replicate k m ++ ms)

/-- Reads n bytes, and whether any of them is poisoned. -/
def physBytes (s : State) (owner : Option Nat) (pa n : Nat) : State × List Byte × Option Mark :=
  let (s, b, m) := physReadN s owner none (n + 1) pa n
  (s, b, m.findSome? id)

/-- Reads a 64-bit word, and its mark. -/
def physRead64 (s : State) (owner : Option Nat) (pa : Nat) : State × Nat × Option Mark :=
  let (s, b, m) := physBytes s owner pa 8
  (s, natOfBytes b, m)

/-- The 64-bit word at an address as memory holds it, with no access made. -/
def peek64 (s : State) (pa : Nat) : Nat := natOfBytes (memGets s.mem pa 8)

end Sys2Proof.Machine
end

