-- ==== Sys2Proof/Machine/Ctl.lean ====
section
/-! DEFINITION. The words of a partition's control block and of device control space, context blocks, continuation record
fields, rings, and the records that the device writes (R225, R344, R345, R374, R425). -/

namespace Sys2Proof.Machine

open Sys2Proof

/-! The control block, by 64-bit words. -/

/-- All bits of a 64-bit word that are not in x. -/
def not64 (x : Nat) : Nat := (2 ^ 64 - 1) ^^^ (x % 2 ^ 64)

/-- The word at a byte offset (a multiple of 8) of a partition's control block as registers, with the reset values of
R353, R375 and R404. -/
def ctlWord (p : Part) (off : Nat) : Nat :=
  match FMap.get? p.ctl off with
  | some w => w.toNat
  | none =>
    if off = 0x300 then 4096 * 2 ^ 32 + 65536
    else if off = 0x500 then 3
    else if off = 0x510 then 90 * 2 ^ 48 + 64 * 2 ^ 32 + 16777216
    else 0

/-- Stores a control word. -/
def ctlSet (p : Part) (off v : Nat) : Part := { p with ctl := FMap.ins p.ctl off (BitVec.ofNat 64 v) }

/-- A field of a control word. -/
def ctlField (p : Part) (off lo n : Nat) : Nat := bits (ctlWord p off) lo n

/-- Sets a field of a control word. -/
def ctlSetField (p : Part) (off lo n v : Nat) : Part := ctlSet p off (setBits (ctlWord p off) lo n v)

/-- A ring in the layout of R228: base physical address, log2 of its entries, counts. -/
structure Ring where
  base : Nat
  size : Nat
  head : Nat
  tail : Nat
  deriving DecidableEq, Repr

/-- Reads a ring's registers; `lowBit` is the lowest bit of BASE. -/
def ringAt (p : Part) (off lowBit : Nat) : Ring :=
  let lo := ctlWord p off
  let hi := ctlWord p (off + 8)
  ⟨bits lo 48 2 * 2 ^ 48 + bits lo 0 48 / 2 ^ lowBit * 2 ^ lowBit, bits hi 0 4, bits hi 48 16, bits hi 32 16⟩

/-- Entries between HEAD and TAIL. -/
def Ring.count (r : Ring) : Nat := (r.tail + 65536 - r.head) % 65536

/-- Advances a ring's HEAD by one. -/
def ringPop (p : Part) (off : Nat) : Part :=
  ctlSetField p (off + 8) 48 16 ((ctlField p (off + 8) 48 16 + 1) % 65536)

/-! Retention registers (R219). -/

/-- A retention register. -/
structure RetReg where
  en : Bool
  ctx : Nat
  base : Nat
  limit : Nat
  deriving DecidableEq, Repr

/-- RETREGi. -/
def retReg (p : Part) (i : Nat) : RetReg :=
  let lo := ctlWord p (0x200 + 16 * i)
  let hi := ctlWord p (0x208 + 16 * i)
  ⟨bits hi 63 1 == 1, bits hi 48 12, bits lo 12 45, bits hi 0 45⟩

/-- Stores RETREGi. -/
def retRegSet (p : Part) (i : Nat) (r : RetReg) : Part :=
  ctlSet (ctlSet p (0x200 + 16 * i) (r.base % 2 ^ 45 * 2 ^ 12)) (0x208 + 16 * i)
    ((if r.en then 2 ^ 63 else 0) + r.ctx % 4096 * 2 ^ 48 + r.limit % 2 ^ 45)

/-- RWAYS in force: 0 while no retention register is active (R217). -/
def rways (p : Part) : Nat :=
  if (List.range 8).any (fun i => (retReg p i).en) then min 8 (ctlField p 0x100 0 4) else 0

/-! Context blocks (R344). -/

/-- The physical address of a context's block. -/
def ctxAddr (s : State) (p c : Nat) : Nat := bits (ctlWord (part s p) 0x310) 6 44 * 64 + 64 * c

/-- A field of a context's block. -/
def ctxField (s : State) (p c lo n : Nat) : Nat := bits (natOfBytes (memGets s.mem (ctxAddr s p c) 64)) lo n

/-- Context c is valid for partition p (R344). -/
def ctxValid (s : State) (p c : Nat) : Bool :=
  let d := (part s p).desc
  d.valid && decide (d.ctxBase ≤ c) && decide (c < d.ctxBase + d.ctxCnt) && ctxField s p c 63 1 == 1 &&
    ctxField s p c 59 4 == p

/-- The partition in whose range a context number lies (R344, R420). -/
def partOfCtx (s : State) (c : Nat) : Option Nat :=
  (s.parts.find? (fun e => e.2.desc.valid && decide (e.2.desc.ctxBase ≤ c) &&
    decide (c < e.2.desc.ctxBase + e.2.desc.ctxCnt))).map Prod.fst

/-- The key number under which a context's accesses are made, none for a context that is not protected (R427, R430). -/
def ctxSlot (s : State) (c : Nat) : Option Nat := FMap.get? s.patrol.bound c

/-- The key of a slot. -/
def slotKey (s : State) (slot : Nat) : Nat := (FMap.getD s.patrol.slots slot KeySlot.emptySlot).key

/-- The key of a context, unless the leaf is host-homed (R427). -/
def ctxKey (s : State) (c : Nat) (home : Bool) : Option Nat :=
  if home then none else (ctxSlot s c).map (slotKey s)

/-- The context's exception summary word (R368). -/
def excsumAddr (s : State) (p c : Nat) : Nat := ctxAddr s p c + 48

/-- EXCSUM.KILLED (R368). -/
def ctxKilled (s : State) (p c : Nat) : Bool := bits (peek64 s (excsumAddr s p c)) 63 1 == 1

/-! Continuation records (R342). -/

/-- A field of a record. -/
def rf (r : Rec) (lo n : Nat) : Nat := bits r.toNat lo n
/-- Sets a field of a record. -/
def rset (r : Rec) (lo n v : Nat) : Rec := BitVec.ofNat 1024 (setBits r.toNat lo n v)

/-- CODE. -/
def rCode (r : Rec) : Nat := rf r 0 64
/-- FRAME. -/
def rFrame (r : Rec) : Nat := rf r 64 64
/-- JOIN. -/
def rJoin (r : Rec) : Nat := rf r 128 64
/-- SEQ. -/
def rSeq (r : Rec) : Nat := rf r 192 64
/-- RGN. -/
def rRgn (r : Rec) : Nat := rf r 256 64
/-- SAVE. -/
def rSave (r : Rec) : Nat := rf r 320 64
/-- ILO. -/
def rIlo (r : Rec) : Nat := rf r 384 32
/-- ICNT as it counts: 1 unless SPREAD. -/
def rIcnt (r : Rec) : Nat := if rf r 693 1 = 1 then rf r 416 32 else 1
/-- A grid extent, 0 read as 1. -/
def rGrid (r : Rec) (i : Nat) : Nat := if rf r (448 + 16 * i) 16 = 0 then 1 else rf r (448 + 16 * i) 16
/-- EXPECT. -/
def rExpect (r : Rec) : Nat := rf r 544 32
/-- A workgroup extent. -/
def rShape (r : Rec) (i : Nat) : Nat := rf r (576 + 16 * i) 16
/-- Threads of a workgroup. -/
def rThreads (r : Rec) : Nat := rShape r 0 * rShape r 1 * rShape r 2
/-- SPAD. -/
def rSpad (r : Rec) : Nat := rf r 640 20
/-- CARVE. -/
def rCarve (r : Rec) : Nat := rf r 660 3
/-- FLOOR. -/
def rFloor (r : Rec) : Nat := rf r 664 9
/-- POLICY. -/
def rPolicy (r : Rec) : Nat := rf r 676 10
/-- PRIO. -/
def rPrio (r : Rec) : Nat := rf r 688 3
/-- IDEM. -/
def rIdem (r : Rec) : Bool := rf r 692 1 == 1
/-- HWAKE. -/
def rHwake (r : Rec) : Bool := rf r 694 1 == 1
/-- CTX. -/
def rCtx (r : Rec) : Nat := rf r 704 12

/-- Scratchpad bytes of a carve-out class (R210). -/
def carveSpad (c : Nat) : Nat :=
  match c with
  | 0 => 0 | 1 => 262144 | 2 => 524288 | 3 => 786432 | 4 => 917504 | _ => 0

/-- L1 lines of a carve-out class (R210). -/
def carveLines (c : Nat) : Nat := (1048576 - carveSpad c) / 128

/-- A record is malformed but for its context (R343). -/
def malformedShape (r : Rec) : Bool :=
  [(716, 52), (695, 9), (691, 1), (686, 2), (673, 3), (663, 1), (624, 16), (496, 48)].any
      (fun e => rf r e.1 e.2 != 0) ||
  rf r 0 5 != 0 || rf r 64 7 != 0 || rf r 128 7 != 0 || rf r 256 5 != 0 ||
  [0, 64, 128, 256].any (fun lo => rf r (lo + 57) 7 != 0) ||
  rThreads r == 0 || decide (rThreads r > 1024) || decide (rFloor r > 256) || decide (rCarve r > 4) ||
  rSpad r % 512 != 0 || decide (rSpad r > carveSpad (rCarve r)) ||
  (rf r 693 1 == 1 && rf r 416 32 == 0) ||
  decide (rIlo r + rIcnt r > rGrid r 0 * rGrid r 1 * rGrid r 2)

/-- A record of partition p is malformed (R343). -/
def malformed (s : State) (p : Nat) (r : Rec) : Bool := malformedShape r || !ctxValid s p (rCtx r)

/-- The next value of a partition's sequence counter (R347). -/
def nextSeqOf (s : State) (p : Nat) : State × Nat :=
  let n := (part s p).nextSeq
  (modPart s p (fun q => { q with nextSeq := (n + 1) % 2 ^ 64 }), n)

/-! Records that the device writes. -/

/-- The bits of a fault record (R225). -/
def faultBits (r : FRec) : BitVec 256 :=
  BitVec.ofNat 256 (r.oseq % 2 ^ 64 * 2 ^ 192 + r.origin % 2 ^ 16 * 2 ^ 176 + r.ctx % 4096 * 2 ^ 164 +
    r.part % 16 * 2 ^ 160 + r.core % 256 * 2 ^ 136 + r.track % 8 * 2 ^ 133 + r.fpte % 2 ^ 64 * 2 ^ 64 +
    r.vpage % 2 ^ 45 * 2 ^ 12 + r.kind % 16 * 2 ^ 8 + r.acc % 8 * 2 ^ 5 + (if r.sup then 16 else 0) + r.level % 8)

/-- Puts a record on the way to the partition's fault queue (R225, R425). -/
def pushFault (s : State) (p : Nat) (r : FRec) : State :=
  modPart s p (fun q => { q with faultQ := q.faultQ ++ [faultBits r] })

/-- The bits of a containment record (R374). -/
def contBits (oseq cause epc origin ctx p core track slot level action : Nat) (demoted absorbed : Bool) : BitVec 256 :=
  BitVec.ofNat 256 (oseq % 2 ^ 64 * 2 ^ 192 + cause % 2 ^ 64 * 2 ^ 128 + epc % 2 ^ 64 * 2 ^ 64 +
    origin % 2 ^ 16 * 2 ^ 48 + ctx % 4096 * 2 ^ 36 + p % 16 * 2 ^ 32 + core % 256 * 2 ^ 24 + track % 8 * 2 ^ 21 +
    slot % 16 * 2 ^ 17 + level % 8 * 2 ^ 14 + action % 4 * 2 ^ 12 + (if demoted then 2048 else 0) +
    (if absorbed then 1024 else 0))

/-- Puts a record on the way to the partition's error queue (R374, R425). -/
def pushError (s : State) (p : Nat) (b : BitVec 256) : State :=
  modPart s p (fun q => { q with errQ := q.errQ ++ [b] })

end Sys2Proof.Machine
end

