-- ==== Sys2Proof/Machine/Cache.lean ====
section
/-! DEFINITION. The caches: L2 lines, classes, victims and retention (R214 to R220), host lines (R442), and L1 (R212). They
hold no value that memory lacks, but L1 lines may be old. -/

namespace Sys2Proof.Machine

open Sys2Proof

/-- Takes a free value's number. -/
def takeFree (s : State) : State × Nat := ({ s with free := s.free + 1 }, s.free)

/-! L2. -/

/-- Rank of a class (R215). -/
def classRank : CacheClass → Nat
  | .evictFirst => 0 | .normal => 1 | .evictLast => 2

/-- A line's class: the highest among its valid sectors (R215). -/
def lineRank (l : L2Line) : Nat := l.sectors.toList.foldl (fun r x => if x.valid then max r (classRank x.cls) else r) 0

/-- A lookup of one line. -/
structure L2Req where
  part : Nat
  ctx : Nat
  /-- the virtual address, none for an access by physical address -/
  va : Option Nat
  cls : CacheClass
  read : BitVec 4
  write : BitVec 4
  counted : Bool
  /-- a page with HOME = 1 and COH = 1 (R442) -/
  mesi : Bool
  deriving DecidableEq, Repr

/-- Moves tier-2 bytes to their home: nothing is newer in L2 than at the home (R442). -/
def farDone (s : State) (lo hi : Nat) : State :=
  { s with far := s.far.filter (fun e => !(decide (lo ≤ e.1) && decide (e.1 < hi))) }

/-- Tier-2 bytes that L2 gives up unwritten: what stands there is what the home holds (R442, R451). -/
def farTake (s : State) (lo hi : Nat) : State :=
  let l := s.far.filter (fun e => decide (lo ≤ e.1) && decide (e.1 < hi))
  if l.isEmpty then s else { farDone s lo hi with mem := l.foldl (fun m e => memPut m e.1 e.2) s.mem }

/-- The dirty sectors of a line. -/
def dirtyList (l : L2Line) : List Nat := (List.range 4).filter (fun i => (l.sectors.toList[i]?).any (fun x => x.valid && x.dirty))

/-- Charges n atoms of a physical address's controller to a partition's bucket (R286): TOKENS falls, not below 0. -/
def chargeAtoms (s : State) (pa p n : Nat) : State :=
  match paKind s pa with
  | .chan c _ =>
    let a := (if c < 512 then 0x01000000 + 0x80 * c else 0x01010000 + 0x80 * (c - 512)) + 8 * p
    let w := dctlWord s a
    if n = 0 ∨ bits w 32 16 = 0 then s else dctlSet s a (setBits w 32 16 (bits w 32 16 - n))
  | _ => s

/-- Writes a line's dirty sectors back to its home (R216, R271), charged to the owner (R286). -/
def writeBackLine (s : State) (l : L2Line) : State :=
  let d := dirtyList l
  if d.isEmpty then s
  else
    let s := match ownerOf s (l.line * 128) with
      | some p => chargeAtoms s (l.line * 128) p d.length
      | none => s
    let s := d.foldl (fun s i => farDone s (l.line * 128 + 32 * i) (l.line * 128 + 32 * i + 32)) s
    if l.line * 128 / 2 ^ 48 = 2 then { s with outbox := s.outbox ++ [.writeBack l.line] } else s

/-- Cleans a line in place. -/
def cleanLine (l : L2Line) : L2Line := { l with sectors := l.sectors.map (fun x => { x with dirty := false }) }

/-- Evicts a line: dirty sectors are written back, a host line in M or E sends its notice (R216, R442). -/
def evictLine (s : State) (l : L2Line) : State :=
  let s := farTake (writeBackLine s l) (l.line * 128) (l.line * 128 + 128)
  let s := { s with l2 := s.l2.filter (fun x => x.line != l.line) }
  let note (s : State) (x : Mesi) (h : Nat) : State :=
    match x with
    | .m => { s with outbox := s.outbox ++ [.evictNotice (2 * l.line + h) true] }
    | .e => { s with outbox := s.outbox ++ [.evictNotice (2 * l.line + h) false] }
    | _ => s
  note (note s l.mesi.1 0) l.mesi.2 1

/-- The retention register that retains a fill (R217). -/
def retainIndex (s : State) (owner : Nat) (q : L2Req) : Option Nat :=
  match q.va with
  | none => none
  | some va =>
    if q.part ≠ owner then none
    else (List.range 8).find? (fun i =>
      let r := retReg (part s owner) i
      r.en && r.ctx == q.ctx && decide (r.base ≤ va / 4096) && decide (va / 4096 ≤ r.limit))

/-- A line that keeps its way from a fill: it has a valid sector, or holds an index (R216, R217). -/
def holdsWay (l : L2Line) : Bool := l.ret.isSome || l.sectors.toList.any (fun x => x.valid)

/-- An invalid way among a list, with the line that left no valid sector there, if one did. -/
def freeWay (lines : List L2Line) (ways : List Nat) : Option (Nat × Option L2Line) :=
  (ways.find? (fun w => !lines.any (fun l => l.way == w && holdsWay l))).map (fun w => (w, lines.find? (fun l => l.way == w)))

/-- The way a fill takes, the line it evicts, and whether it takes the index (R216, R217). -/
def victim (lines : List L2Line) (rw : Nat) (idx : Option Nat) : Option (Nat × Option L2Line × Bool) :=
  let normal := List.range (16 - rw)
  let reserved := (List.range rw).map (fun i => 16 - rw + i)
  let normalFill : Option (Nat × Option L2Line × Bool) :=
    match freeWay lines normal with
    | some (w, l) => some (w, l, false)
    | none =>
      let c := lines.filter (fun l => decide (l.way < 16 - rw) && l.ret.isNone)
      (([0, 1, 2].findSome? (fun r => c.find? (fun l => lineRank l == r)))).map (fun l => (l.way, some l, false))
  match idx with
  | none => normalFill
  | some _ =>
    match freeWay lines reserved with
    | some (w, l) => some (w, l, true)
    | none =>
      match lines.find? (fun l => decide (16 - rw ≤ l.way) && l.ret.isNone) with
      | some l => some (l.way, some l, true)
      | none => normalFill

/-- The MESI state of a half after an access (R442). -/
def mesiStep (grant : Bool) (x : Mesi) (rd wr : Bool) : Mesi :=
  if wr then .m else if rd then (match x with
    | .i => if grant then .e else .s
    | y => y) else x

/-- A touch of a line by a request: the sectors it reads become valid, those it writes valid and dirty, classes rise. -/
def touchLine (grant : Bool) (q : L2Req) (cls : CacheClass) (l : L2Line) : L2Line :=
  { l with
    sectors := Vector.ofFn (fun i : Fin 4 =>
      let x := l.sectors[i]
      if q.read.getLsbD i.val || q.write.getLsbD i.val then
        { valid := true, dirty := (x.valid && x.dirty) || q.write.getLsbD i.val,
          cls := if x.valid && decide (classRank cls ≤ classRank x.cls) then x.cls else cls }
      else x)
    mesi := if q.mesi then
        (mesiStep grant l.mesi.1 (q.read.extractLsb' 0 2 != 0#2) (q.write.extractLsb' 0 2 != 0#2),
         mesiStep grant l.mesi.2 (q.read.extractLsb' 2 2 != 0#2) (q.write.extractLsb' 2 2 != 0#2))
      else l.mesi }

/-- A line as a fill makes it. -/
def newLine (bank set way line : Nat) (ret : Option (Nat × Nat)) : L2Line :=
  ⟨bank, set, way, line, Vector.replicate 4 ⟨false, false, .evictFirst⟩, ret, (.i, .i)⟩

/-- Counts a lookup (R220). -/
def countLookup (s : State) (p : Nat) (hit : Bool) : State :=
  modPart s p (fun q => if hit then { q with l2hit := q.l2hit + 1 } else { q with l2miss := q.l2miss + 1 })

/-- Numbers the read of a lookup (R434): a bank's read takes the next number, but where it delivers a poisoned sector, which takes
its own (deliverMark). -/
def numberRead (s : State) (bank line : Nat) (read : BitVec 4) : State :=
  if read = 0#4 ∨ (bitList read).any (fun k => readsPoisoned s (128 * line + 32 * k)) then s
  else (nextOseq s (0x10000 + bank)).1

/-- The host's answer to an access with coherence state (R442): one open choice for each such access. -/
def hostGrant (s : State) (q : L2Req) : State × Bool :=
  if q.mesi then let (s, n) := takeFree s; (s, Config.hostGrants n) else (s, false)

/-- A lookup that finds its line. -/
def l2Found (s : State) (q : L2Req) (pa : Nat) (l : L2Line) : State :=
  let missing := (bitList q.read).filter (fun i => !(l.sectors.toList[i]?).any (fun x => x.valid))
  let s := if q.counted then countLookup s q.part missing.isEmpty else s
  let (s, grant) := hostGrant (chargeAtoms s pa q.part missing.length) q
  { s with l2 := s.l2.filter (fun x => x.line != pa / 128) ++ [touchLine grant q q.cls l] }

/-- A lookup whose line is absent fills it (R215 to R217). -/
def l2Fill (s : State) (q : L2Req) (pa owner bank set : Nat) : State :=
  let line := pa / 128
  let s := if q.counted then countLookup s q.part false else s
  let s := chargeAtoms s pa q.part (bitList q.read).length
  let s := { s with l2 := s.l2.filter (fun x => x.line != line) }
  let idx := retainIndex s owner q
  match victim (s.l2.filter (fun l => l.bank == bank && l.set == set)) (rways (part s owner)) idx with
  | none => s
  | some (way, ev, kept) =>
    let s := match ev with
      | some l => evictLine s l
      | none => s
    let cls := if kept then CacheClass.evictLast else if idx.isSome then CacheClass.normal else q.cls
    let (s, grant) := hostGrant s q
    { s with l2 := s.l2 ++ [touchLine grant q cls
        (newLine bank set way line (if kept then idx.map (fun i => (owner, i)) else none))] }

/-- One lookup of the line of a physical address (R215 to R220): counts it, fills the line if it is absent, touches it. A line of
which nothing is valid and that holds no index is absent (R216). -/
def l2Access (s : State) (q : L2Req) (pa : Nat) : State :=
  match ownerOf s pa, placeOf s pa with
  | some owner, some (bank, set) =>
    let s := numberRead s bank (pa / 128) q.read
    match s.l2.find? (fun l => l.line == pa / 128 && holdsWay l) with
    | some l => l2Found s q pa l
    | none => l2Fill s q pa owner bank set
  | _, _ => s

/-! Blocks that a register names, as the device itself reads and writes them (R276, R286, R344, R385). -/

/-- The lookup of 8 bytes of a block. -/
def blockLookup (s : State) (p a : Nat) (wr : Bool) : State :=
  l2Access s ⟨p, 0, none, .normal, (1#4) <<< (a / 32 % 4), if wr then (1#4) <<< (a / 32 % 4) else 0#4, false, false⟩ a

/-- The device reads a block that a register names: out of range it is refused with its event, and a poisoned sector delivers its
mark; the bits are used as they read (R276, R434, log 105). -/
def blockAccess (s : State) (p a : Nat) : State := (physRead (blockLookup s p a false) (some p) none a 8).1

/-- Applies f to EXCSUM. -/
def modExcsum (s : State) (p c : Nat) (f : Nat → Nat) : State :=
  let a := excsumAddr s p c
  let s := (physRead (blockLookup s p a true) (some p) none a 8).1
  physWrite64 s (some p) a (f (peek64 s a))

/-- Takes a retention index from every line that holds it (R218). -/
def dropIndex (s : State) (p i : Nat) : State :=
  { s with l2 := s.l2.map (fun l =>
      if l.ret = some (p, i) then { l with ret := none, sectors := l.sectors.map (fun x => { x with cls := .normal }) } else l) }

/-- UNPIN of a register (R218): EN := 0, and the lines it held lose the index. -/
def unpinReg (s : State) (p i : Nat) : State :=
  modPart (dropIndex s p i) p (fun q => retRegSet q i { retReg q i with en := false })

/-- Writes the dirty sectors of the line of a physical address back to its home; the line stays valid (R271). -/
def cleanPa (s : State) (pa : Nat) : State :=
  match s.l2.find? (fun l => l.line == pa / 128) with
  | none => s
  | some l =>
    let s := writeBackLine s l
    { s with l2 := s.l2.map (fun x => if x.line = pa / 128 then cleanLine x else x) }

/-- What L2 holds of a sector of a host page is given up for what its home holds: dirty bytes go home first, and a scoped sector
is valid no more (R242, R265, R442). -/
def homeSector (s : State) (pa : Nat) : State :=
  let s := cleanPa s pa
  let s := farTake s (pa / 32 * 32) (pa / 32 * 32 + 32)
  { s with l2 := s.l2.map (fun l =>
      if l.line = pa / 128 ∧ l.mesi = (.i, .i) then
        { l with sectors := Vector.ofFn (fun i : Fin 4 =>
            if i.val = pa / 32 % 4 then { l.sectors[i] with valid := false } else l.sectors[i]) }
      else l) }

/-- Sets every sector of a line that holds no index to evict-first (R271). -/
def demotePa (s : State) (pa : Nat) : State :=
  { s with l2 := s.l2.map (fun l =>
      if l.line = pa / 128 ∧ l.ret = none then { l with sectors := l.sectors.map (fun x => { x with cls := .evictFirst }) }
      else l) }

/-- A line of a scoped host page (R442): a tier-2 line of a host or fabric port without coherence state. -/
def scopedHost (s : State) (l : L2Line) : Bool :=
  match paKind s (l.line * 128) with
  | .port k => ((port s k).mode == 1 || (port s k).mode == 3) && l.mesi == (.i, .i)
  | _ => false

/-- A bank belongs to a partition. -/
def inBanks (s : State) (p : Nat) (l : L2Line) : Bool := (part s p).desc.banks.getLsbD l.bank

/-- Every line in a way that a write of RWAYS takes out of the reserved set loses its index and becomes class normal (R218):
`old` and `new` ways of the partition's banks are reserved before and after, and only lines in reserved ways hold an index. -/
def dropWays (s : State) (p old new : Nat) : State :=
  { s with l2 := s.l2.map (fun l =>
      if (l.ret.any (fun r => r.1 == p) || inBanks s p l && decide (16 - old ≤ l.way)) && decide (l.way < 16 - new) then
        { l with ret := none, sectors := l.sectors.map (fun x => { x with cls := .normal }) } else l) }

/-- A release at .SYS writes back every dirty scoped host sector of the partition's banks (R442). -/
def sysRelease (s : State) (p : Nat) : State :=
  let ls := s.l2.filter (fun l => inBanks s p l && scopedHost s l && !(dirtyList l).isEmpty)
  let s' := ls.foldl writeBackLine s
  { s' with l2 := s'.l2.map (fun l => if ls.any (fun x => x.line == l.line) then cleanLine l else l) }

/-- The clean sectors of a line are given up (R442). -/
def dropClean (s : State) (l : L2Line) : State :=
  ((List.range 4).filter (fun i => !(dirtyList l).contains i)).foldl
    (fun s i => farTake s (l.line * 128 + 32 * i) (l.line * 128 + 32 * i + 32)) s

/-- An acquire at .SYS invalidates every clean scoped host sector of the partition's banks (R442). -/
def sysAcquire (s : State) (p : Nat) : State :=
  let ls := s.l2.filter (fun l => inBanks s p l && scopedHost s l)
  let s' := ls.foldl dropClean s
  { s' with l2 := s'.l2.map (fun l =>
      if ls.any (fun x => x.line == l.line) then
        { l with sectors := l.sectors.map (fun x => if x.dirty then x else { x with valid := false }) }
      else l) }

/-! L1 (R212). -/

/-- A core. -/
def coreSt (s : State) (c : Nat) : Core := FMap.getD s.cores c Core.empty
/-- Changes a core. -/
def modCore (s : State) (c : Nat) (f : Core → Core) : State := { s with cores := FMap.ins s.cores c (f (coreSt s c)) }

/-- Invalidates all of a core's L1. -/
def l1Clear (s : State) (c : Nat) : State := if (coreSt s c).l1.isEmpty then s else modCore s c (fun k => { k with l1 := [] })

/-- Invalidates the line of a physical address in a core's L1 (R271). -/
def l1DropLine (s : State) (c pa : Nat) : State :=
  if (coreSt s c).l1.isEmpty then s
  else modCore s c (fun k => { k with l1 := k.l1.filter (fun l => l.line != pa / 128) })

/-- Invalidates one sector in a core's L1 (R212). -/
def l1DropSector (s : State) (c pa : Nat) : State :=
  if (coreSt s c).l1.isEmpty then s
  else modCore s c (fun k => { k with l1 := k.l1.map (fun l =>
    if l.line = pa / 128 then { l with valid := l.valid &&& ~~~((1#4) <<< (pa / 32 % 4)) } else l) })

/-- The sector of an L1 line still holds the bytes that memory gives under the line's key slot. -/
def l1Fresh (s : State) (l : L1Line) (sec : Nat) : Bool :=
  (List.range 32).map (fun j => FMap.getD l.bytes (32 * (sec % 4) + j) 0#8) == sectorBytes s (l.slot.map (slotKey s)) sec

/-- Invalidates a sector in a core's L1 where it holds older bytes than memory: what the core's threads have read or written
past L1 is not hidden by it any more (R242, R249 to R251). -/
def l1Sync (s : State) (c pa : Nat) : State :=
  if (coreSt s c).l1.isEmpty then s
  else modCore s c (fun k => { k with l1 := k.l1.map (fun l =>
    if l.line = pa / 128 ∧ !l1Fresh s l (pa / 32) then { l with valid := l.valid &&& ~~~((1#4) <<< (pa / 32 % 4)) } else l) })

/-- Invalidates the lines of a range of physical addresses in every core's L1: the locations there are others now (R255). -/
def l1DropRange (s : State) (lo hi : Nat) : State :=
  { s with cores := s.cores.map (fun e => (e.1, { e.2 with l1 := e.2.l1.filter (fun l =>
      !(decide (lo ≤ l.line * 128) && decide (l.line * 128 < hi))) })) }

/-- A load's hit in L1: the bytes and the mark, if the sector is valid under the context's key slot (R212, R427). -/
def l1Look (s : State) (c : Nat) (slot : Option Nat) (pa n : Nat) : Option (List Byte × Option Mark) :=
  ((coreSt s c).l1.find? (fun l => l.line == pa / 128 && l.slot == slot && l.valid.getLsbD (pa / 32 % 4))).map
    (fun l => ((List.range n).map (fun i => FMap.getD l.bytes (pa % 128 + i) 0#8), FMap.get? l.poison (pa / 32 % 4)))

/-- Fills one sector of L1 with its bytes and mark, within the carve-out's capacity (R210, R212); under another slot the sector is
valid no more, so that no older value of it serves a later load (R242, R427). -/
def l1Fill (s : State) (c : Nat) (slot : Option Nat) (pa : Nat) (bytes : List Byte) (m : Option Mark) : State :=
  let i := pa / 32 % 4
  let cells := (List.range 32).map (fun j => (32 * i + j, bytes.getD j 0#8))
  modCore s c (fun k =>
    let old := (k.l1.find? (fun l => l.line == pa / 128 && l.slot == slot)).getD ⟨pa / 128, slot, 0#4, [], []⟩
    let rest := (k.l1.filter (fun l => !(l.line == pa / 128 && l.slot == slot))).map (fun l =>
      if l.line = pa / 128 then { l with valid := l.valid &&& ~~~((1#4) <<< i) } else l)
    let new : L1Line := { old with
      valid := old.valid ||| ((1#4) <<< i)
      bytes := old.bytes.filter (fun e => decide (e.1 < 32 * i)) ++ cells ++
        old.bytes.filter (fun e => decide (32 * i + 32 ≤ e.1))
      poison := match m with
        | some x => FMap.ins old.poison i x
        | none => FMap.del old.poison i }
    { k with l1 := (rest ++ [new]).drop (rest.length + 1 - carveLines k.carve) })

/-- A store, which memory holds by now, updates the sectors it writes where they are present, whatever their slot: under
another slot the sector is invalidated (R212, R427). The aligned 16 bytes around it are updated with it, so that no
single-copy atomic read takes bytes from before a write that the store follows (R244). -/
def l1Update (s : State) (c : Nat) (slot : Option Nat) (w : Store) : State :=
  let sector := sectorBytes s (slot.map (slotKey s)) (w.pa / 32)
  let o := w.pa % 32 / 16 * 16
  let n := (w.pa % 32 + w.bytes.length + 15) / 16 * 16 - o
  if (coreSt s c).l1.isEmpty then s
  else modCore s c (fun k => { k with l1 := k.l1.map (fun l =>
    if l.line = w.pa / 128 ∧ l.valid.getLsbD (w.pa / 32 % 4) then
      if l.slot = slot then
        { l with
          bytes := (List.range n).foldl (fun b j => FMap.ins b (w.pa % 128 / 32 * 32 + o + j) (sector.getD (o + j) 0#8)) l.bytes
          poison := match w.mark with
            | some m => FMap.ins l.poison (w.pa / 32 % 4) m
            | none => l.poison }
      else { l with valid := l.valid &&& ~~~((1#4) <<< (w.pa / 32 % 4)) }
    else l) })

end Sys2Proof.Machine
end

