-- ==== Sys2Proof/Machine/Translate.lean ====
section
/-! DEFINITION. Address translation: page table entries, the walk and its checks, cached translations, and what a failed
translation does: fault records, tier misses and the full table (R208, R221 to R231, R421, R423, R435). -/

namespace Sys2Proof.Machine

open Sys2Proof

/-- Kinds of access (R225). -/
inductive Access where
  | load | store | atomic | red | fetch | engineRead | engineWrite
  deriving DecidableEq, Repr

/-- ACC of a fault record (R225). -/
def Access.code : Access → Nat
  | .load => 0 | .store => 1 | .atomic => 2 | .red => 2 | .fetch => 3 | .engineRead => 4 | .engineWrite => 5

/-- An access checks R. -/
def Access.reads : Access → Bool
  | .load | .atomic | .engineRead => true
  | _ => false
/-- An access checks W. -/
def Access.writes : Access → Bool
  | .store | .atomic | .red | .engineWrite => true
  | _ => false

/-! Page table entries (R222). -/

/-- V. -/
def pteV (e : Nat) : Bool := e.testBit 0
/-- L. -/
def pteL (e : Nat) : Bool := e.testBit 1
/-- R. -/
def pteR (e : Nat) : Bool := e.testBit 2
/-- W. -/
def pteW (e : Nat) : Bool := e.testBit 3
/-- X. -/
def pteX (e : Nat) : Bool := e.testBit 4
/-- S. -/
def pteS (e : Nat) : Bool := e.testBit 5
/-- CONTIG. -/
def pteContig (e : Nat) : Bool := e.testBit 6
/-- PI. -/
def ptePI (e : Nat) : Bool := e.testBit 58
/-- COH. -/
def pteCoh (e : Nat) : Bool := e.testBit 59
/-- HOME. -/
def pteHome (e : Nat) : Bool := e.testBit 60
/-- TIER. -/
def pteTier (e : Nat) : Nat := bits e 61 2
/-- POM. -/
def ptePom (e : Nat) : Bool := e.testBit 63
/-- The physical address that FRAME and TIER name. -/
def pteBase (e : Nat) : Nat := pteTier e * 2 ^ 48 + bits e 12 36 * 4096

/-- Bytes that a leaf of a level maps (R221); a CONTIG leaf maps 64 KiB. -/
def leafBytes (level : Nat) (e : Nat) : Nat :=
  if level = 2 then 2 ^ 30 else if level = 1 then 2 ^ 21 else if pteContig e then 2 ^ 16 else 4096

/-- A TIER 3 leaf breaks R423. -/
def badTier3 (level e : Nat) : Bool :=
  level != 0 || !pteS e || pteX e || pteHome e || pteCoh e || ptePI e || ptePom e || pteContig e || bits e 16 32 != 0

/-- A valid entry at a level is BADPTE (R222). -/
def badPte (level e : Nat) : Bool :=
  bits e 48 10 != 0 ||
  (if pteL e then
    decide (level ≥ 3) || (level == 2 && (bits e 12 18 != 0 || ptePI e)) || (level == 1 && bits e 12 9 != 0) ||
    (pteContig e && level != 0) || (pteTier e == 3 && badTier3 level e)
  else
    level == 0 || decide (pteTier e ≥ 2) || ptePom e || pteHome e || pteCoh e || ptePI e || bits e 2 5 != 0)

/-- The index of a level (R221). -/
def vaIndex (level va : Nat) : Nat := bits va (12 + 9 * level) 9

/-- The physical address of a virtual address through a leaf (R222). -/
def leafPa (level e va : Nat) : Nat := pteBase e / leafBytes level e * leafBytes level e + va % leafBytes level e

/-- What a walk finds. -/
inductive Walk where
  | leaf (e level addr : Nat)
  | fail (kind e level : Nat)
  deriving DecidableEq, Repr

/-- Reads an entry: a page-table read of class normal that is not counted (R215, R220). -/
def readPte (s : State) (p ctx addr : Nat) : State × Nat × Option Mark :=
  let s := l2Access s ⟨p, ctx, none, .normal, (1#4) <<< (addr / 32 % 4), 0#4, false, false⟩ addr
  physRead64 s (some p) addr

/-- The sixteen entries around a level-0 entry are a CONTIG group whose entries differ in more than FRAME<15:12> (R222). -/
def contigMixed (s : State) (addr : Nat) : Bool :=
  let base := addr / 128 * 128
  (List.range 16).any (fun i => memGet s.mem (base + 8 * i) &&& 0x43#8 == 0x43#8) &&
    (List.range 16).any (fun i => setBits (peek64 s (base + 8 * i)) 12 4 0 != setBits (peek64 s addr) 12 4 0)

/-- The level-0 entry that an access translates through, as it reads: its own, or any one of a CONTIG group whose entries differ
(R222). Gives its address too. -/
def contigLeaf (s : State) (p ctx addr : Nat) : State × Nat × Option Mark × Nat :=
  if contigMixed s addr then
    let (s, n) := takeFree s
    let addr := addr / 128 * 128 + 8 * (Config.contigEntry n).val
    let (s, e, m) := readPte s p ctx addr
    (s, e, m, addr)
  else
    let (s, e, m) := readPte s p ctx addr
    (s, e, m, addr)

/-- The leaf that an entry of a CONTIG group gives an address: FRAME<47:16> and the other bits are the entry's, FRAME<15:12> is
VA<15:12> (R222). -/
def contigFrame (e va : Nat) : Nat := if pteContig e then setBits e 12 4 (va / 4096) else e

/-- The base of the range that the walk of an address shares with others at a level. -/
def walkVa (level va : Nat) : Nat := va / 2 ^ (12 + 9 * level)

/-- The table entry that a walk takes at a level: what memory holds, or an older one that the cluster's walkers hold and no
TLBINV has removed (R223). -/
def walkEntry (s : State) (ctx core level va e : Nat) : State × Nat :=
  match s.walks.find? (fun t => t.cluster == core / 8 && t.ctx == ctx && t.level == level && t.va == walkVa level va) with
  | none => (s, e)
  | some t =>
    if t.entry.toNat = e then (s, e)
    else
      let (s, n) := takeFree s
      (s, if Config.walkServes n then t.entry.toNat else e)

/-- The walkers of a cluster hold a valid table entry (R223). -/
def walkKeep (s : State) (ctx core level va e : Nat) : State :=
  { s with walks := s.walks.filter (fun t =>
      !(t.cluster == core / 8 && t.ctx == ctx && t.level == level && t.va == walkVa level va)) ++
        [⟨core / 8, ctx, level, walkVa level va, BitVec.ofNat 64 e⟩] }

/-- Walks the table at a level downward (R221, R223). -/
def walkFrom (s : State) (p ctx core va : Nat) : Nat → Nat → State × Walk
  | 0, table =>
    let (s, e, poisoned, addr) := contigLeaf s p ctx (table + 8 * vaIndex 0 va)
    if poisoned.isSome then (s, .fail 6 e 0)
    else if !pteV e then (s, .fail 1 e 0)
    else if badPte 0 e then (s, .fail 6 e 0)
    else (s, .leaf (contigFrame e va) 0 addr)
  | n + 1, table =>
    let addr := table + 8 * vaIndex (n + 1) va
    let (s, e, poisoned) := readPte s p ctx addr
    let (s, x) := walkEntry s ctx core (n + 1) va (if poisoned.isSome then 2 ^ 64 else e)
    if x = 2 ^ 64 then (s, .fail 6 e (n + 1))
    else if !pteV x then (s, .fail 1 x (n + 1))
    else if badPte (n + 1) x then (s, .fail 6 x (n + 1))
    else if pteL x then (s, .leaf x (n + 1) addr)
    else walkFrom (walkKeep s ctx core (n + 1) va x) p ctx core va n (pteBase x)

/-- The root table of a context (R344). -/
def rootTable (s : State) (p ctx : Nat) : Nat := ctxField s p ctx 190 2 * 2 ^ 48 + ctxField s p ctx 140 36 * 4096

/-- A leaf's frame is one its context may not reach (R421, R435). -/
def badFrame (s : State) (p level e va : Nat) : Bool :=
  if pteTier e = 3 then false
  else
    let pa := leafPa level e va
    (match ownerOf s pa with
      | some q => q != p && !(part s q).desc.share.getLsbD p
      | none => false) ||
    (pteTier e == 2 &&
      (match paKind s pa with
        | .port k => pteHome e != ((port s k).mode == 1 || (port s k).mode == 3)
        | _ => true))

/-- The checks on a leaf that precede permission (R421, R435). -/
def checkLeaf (s : State) (p va : Nat) (w : Walk) : Walk :=
  match w with
  | .leaf e level _ => if badFrame s p level e va then .fail 6 e level else w
  | .fail _ _ _ => w

/-- A core's TLBs hold a leaf; with 2,048 others there, the oldest goes (R223). -/
def tlbKeep (s : State) (t : TlbEntry) : State :=
  let rest := s.tlb.filter (fun x => !(x.core == t.core && x.ctx == t.ctx && x.vpage == t.vpage))
  let rest := if (rest.filter (fun x => x.core == t.core)).length < 2048 then rest
    else rest.eraseP (fun x => x.core == t.core)
  { s with tlb := rest ++ [t] }

/-- The translation an access takes: the walk's, or that of a cached leaf no TLBINV has removed (R223). -/
def findLeaf (s : State) (p ctx core va : Nat) : State × Walk :=
  let s := blockAccess s p (ctxAddr s p ctx)
  let (s, w) := walkFrom s p ctx core va 4 (rootTable s p ctx)
  let w := checkLeaf s p va w
  let cached := s.tlb.find? (fun t => t.core == core && t.ctx == ctx && t.vpage == va / 4096)
  let (s, w) := match cached with
    | some t =>
      let old := checkLeaf s p va (.leaf t.leaf.toNat t.level 0)
      let same := match w with
        | .leaf e l _ => e == t.leaf.toNat && l == t.level
        | .fail _ _ _ => false
      if same then (s, w)
      else
        let (s, n) := takeFree s
        (s, if Config.tlbServes n then old else w)
    | none => (s, w)
  match w with
  | .leaf e level _ =>
    (tlbKeep s ⟨core, ctx, va / 4096, BitVec.ofNat 64 e, level⟩, w)
  | .fail _ _ _ => (s, w)

/-- The walk of a page of a context as the tables in memory stand, with no cached entry (R223): a gondola's own. -/
def freshLeaf (s : State) (p ctx va : Nat) : State × Walk :=
  let s := blockAccess s p (ctxAddr s p ctx)
  let (t, w) := walkFrom { s with walks := [] } p ctx 0 va 4 (rootTable s p ctx)
  ({ t with walks := s.walks }, checkLeaf t p va w)

/-- What a translation gives. -/
inductive Xlate where
  /-- the physical address and the leaf -/
  | ok (pa leaf : Nat)
  /-- a failed check: KIND, FPTE, LEVEL -/
  | fail (kind fpte level : Nat)
  /-- a tier miss -/
  | miss
  /-- the port has recorded a loss (R451) -/
  | lost (port cause : Nat)
  deriving DecidableEq, Repr

/-- Remembers that a context has translated through a port since its last loss (R451). -/
def noteUse (s : State) (k ctx : Nat) : State :=
  if s.used.contains (k, ctx) then s else { s with used := s.used ++ [(k, ctx)] }

/-- Translates one address of a context (R224, R230, R451). `core` is the TLB's; `sup` says whether the access is made in
supervisor mode. -/
def translate (s : State) (p ctx core : Nat) (sup : Bool) (acc : Access) (va : Nat) : State × Xlate :=
  let (s, w) := findLeaf s p ctx core va
  match w with
  | .fail k e l => (s, .fail k e l)
  | .leaf e level _ =>
    if pteS e && !sup then (s, .fail 5 e level)
    else if acc.reads && !pteR e then (s, .fail 2 e level)
    else if acc.writes && !pteW e then (s, .fail 3 e level)
    else if acc == .fetch && !pteX e then (s, .fail 4 e level)
    else if ptePI e && acc != .engineRead then (s, .miss)
    else
      let pa := leafPa level e va
      match paKind s pa with
      | .port k =>
        if pteTier e = 2 then
          let s := noteUse s k ctx
          if (port s k).lost then (s, .lost k (port s k).cause) else (s, .ok pa e)
        else (s, .ok pa e)
      | _ => (s, .ok pa e)

/-! Fault records (R225, R226, R227, R384). -/

/-- Who makes an access, as a fault record names it. -/
structure Faulter where
  part : Nat
  ctx : Nat
  core : Nat
  track : Nat
  sup : Bool
  deriving DecidableEq, Repr

/-- A record takes an entry of the table and its number, and is written (R225). Gives what the failing access waits on. -/
def makeRecord (s : State) (r : FRec) : State × ParkCause :=
  let (s, n) := nextOseq s r.origin
  let r := { r with oseq := n }
  let s := modPart s r.part (fun q => { q with recs := q.recs ++ [r] })
  (pushFault s r.part r, .record r.origin n)

/-- The outstanding record of the page of another (R225). -/
def sameRecord (s : State) (r : FRec) : Option FRec :=
  (part s r.part).recs.find? (fun x => x.ctx == r.ctx && x.vpage == r.vpage)

/-- A record to be made of a failure: it joins the outstanding record of its page, takes an entry of the table, or waits for room, and
behind the failures that wait already (R225, R384). Gives what the failing access waits on. -/
def fileRecord (s : State) (r : FRec) : State × ParkCause :=
  let q := part s r.part
  match sameRecord s r with
  | some x => (s, .record x.origin x.oseq)
  | none =>
    if q.recs.length ≥ 256 ∨ !q.waiting.isEmpty then
      let s := if q.waiting.any (fun x => x.ctx == r.ctx && x.vpage == r.vpage) then s
        else modPart s r.part (fun q => { q with waiting := q.waiting ++ [r] })
      (s, .table r.ctx r.vpage)
    else makeRecord s r

/-- A failed access joins the outstanding record of its page, makes one, or waits for room in the table. The record's ORIGIN is that
of the cluster's walker; an access of Chairlift's own (a join block, a TASK's landing) and a start's have none that a rule names, and
carry Chairlift's (DESIGN CHOICE, log 104). -/
def joinRecord (s : State) (f : Faulter) (acc : Access) (vpage kind fpte level : Nat) : State × ParkCause :=
  fileRecord s ⟨if f.core ≥ 72 then originChairlift else originWalker f.core, 0, f.ctx, f.part, f.core, f.track, fpte, vpage,
    kind, acc.code, f.sup, level⟩

/-- An access that meets a tier miss joins it, or starts it (R227, R229). -/
def joinMiss (s : State) (f : Faulter) (acc : Access) (vpage : Nat) : State × ParkCause :=
  let q := part s f.part
  match q.recs.find? (fun r => r.ctx == f.ctx && r.vpage == vpage) with
  | some r => (s, .record r.origin r.oseq)
  | none =>
    if q.misses.any (fun m => m.ctx == f.ctx && m.vpage == vpage) then (s, .tier f.ctx vpage)
    else
      (modPart s f.part (fun q => { q with
        misses := q.misses ++ [⟨f.ctx, vpage, f.core, f.track, acc.code, f.sup, ctxSlot s f.ctx⟩] }),
        .tier f.ctx vpage)

/-- Parks a failed translation (R224); nothing for one that did not fail. -/
def parkCause (s : State) (f : Faulter) (acc : Access) (vpage : Nat) (x : Xlate) : State × Option ParkCause :=
  match x with
  | .fail k e l => let (s, c) := joinRecord s f acc vpage k e l; (s, some c)
  | .miss => let (s, c) := joinMiss s f acc vpage; (s, some c)
  | .ok _ _ | .lost _ _ => (s, none)

/-- Removes cached leaves and table entries (R223). -/
def dropCached (s : State) (p : TlbEntry → Bool) (q : WalkEntry → Bool) : State :=
  { s with tlb := s.tlb.filter (fun t => !p t), walks := s.walks.filter (fun t => !q t) }

/-- A cached leaf covers a page of a context. -/
def tlbCovers (ctx vpage : Nat) (t : TlbEntry) : Bool :=
  let n := leafBytes t.level t.leaf.toNat / 4096
  t.ctx == ctx && t.vpage / n == vpage / n

/-- A cached table entry lies on the walk of a page of a context. -/
def walkCovers (ctx vpage : Nat) (t : WalkEntry) : Bool := t.ctx == ctx && t.va == walkVa t.level (4096 * vpage)

/-! What an engine's access in a context needs (R478, R352): translation and the bytes. -/

/-- What an engine read gives. -/
inductive EngRead where
  | bytes (b : List Byte) (marks : List (Option Mark))
  | park (c : ParkCause)
  | lost (port cause : Nat)
  /-- a TIER 3 leaf (R423) -/
  | tier3
  deriving DecidableEq, Repr

/-- A 64-byte line that a host must give up before an access through a leaf (R441): a read of one it holds exclusive, a write of
any. -/
def snoopLine (s : State) (leaf : Nat) (wr : Bool) (line : Nat) : Option Nat :=
  if pteCoh leaf && !pteHome leaf then
    (s.snoop.find? (fun e => e.line == line && (wr || e.excl))).map (fun e => e.line)
  else none

/-- The first line among n bytes that a host must give up before an access (R441). -/
def snoopSpan (s : State) (leaf : Nat) (wr : Bool) (pa n : Nat) : Option Nat :=
  (List.range ((pa % 64 + n + 63) / 64)).findSome? (fun k => snoopLine s leaf wr (pa / 64 + k))

/-- The first line among n bytes at an address that a register names, and so without a leaf, that a host must give up before the
device's access: the filter tracks only lines of coherent extents (R441). -/
def snoopPhys (s : State) (wr : Bool) (pa n : Nat) : Option Nat :=
  (s.snoop.find? (fun e => decide (pa / 64 ≤ e.line) && decide (64 * e.line < pa + n) && (wr || e.excl))).map (fun e => e.line)

/-- Sends a snoop that has not been sent; it carries the number of the bank that keeps the line (R2, log 104). -/
def sendSnoop (s : State) (line : Nat) (inv : Bool) : State :=
  if s.bisnp.any (fun b => b.1 == line && (b.2 || !inv)) then s
  else
    let bank := ((placeOf s (64 * line)).map Prod.fst).getD 0
    sendOut { s with bisnp := s.bisnp ++ [(line, inv)] } (originBank bank) (fun n => .biSnp bank n line inv)

/-- The sectors of a line that n bytes touch, and those that they cover. -/
def lineSectors (line pa n : Nat) (whole : Bool) : BitVec 4 :=
  (List.range 4).foldl (fun (b : BitVec 4) k =>
    let lo := 128 * line + 32 * k
    if (if whole then decide (pa ≤ lo) && decide (lo + 32 ≤ pa + n) else decide (pa < lo + 32) && decide (lo < pa + n))
    then b ||| ((1#4) <<< k) else b) 0#4

/-- The lookups of an engine's access of n bytes, class normal and not counted: each line once; a write reads the sectors that
it covers in part (R215, R220, R286, R442, log 40). -/
def engineLookups (s : State) (p ctx : Nat) (va : Option Nat) (leaf pa n : Nat) (wr : Bool) : State :=
  (List.range (if n = 0 then 0 else (pa % 128 + n + 127) / 128)).foldl (fun s j =>
    let line := pa / 128 + j
    let touched := lineSectors line pa n false
    l2Access s ⟨p, ctx, va, .normal, if wr then touched &&& ~~~lineSectors line pa n true else touched,
      if wr then touched else 0#4, false, pteHome leaf && pteCoh leaf⟩ (128 * line)) s

/-- The word of an instruction that a fetch reads, as memory holds it (R154, R428). -/
def wordAt (s : State) (key : Option Nat) (pa : Nat) : Dword :=
  BitVec.ofNat 64 (natOfBytes (((sectorBytes s key (pa / 32)).drop (pa % 32)).take 8))

/-- Reads n bytes at a virtual address within one page as an engine (class normal), relaxed at .DEV. A POM page gives
poisoned bytes (R222); a line that a host holds is snooped first (R441). -/
def engineRead (s : State) (f : Faulter) (acc : Access) (va n : Nat) : State × EngRead :=
  let (s, x) := translate s f.part f.ctx f.core f.sup acc va
  match x with
  | .ok pa e =>
    if pteTier e = 3 then (s, .tier3)
    else
      match snoopSpan s e false pa n with
      | some ln => (sendSnoop s ln false, .park (.snoop ln))
      | none =>
      let s := engineLookups s f.part f.ctx (some va) e pa n false
      let (s, b, m) := physReadN s none (ctxKey s f.ctx (pteHome e)) (n + 1) pa n
      (s, .bytes b (if ptePom e then List.replicate n (some .anon) else m))
  | .lost k c => (s, .lost k c)
  | .fail _ _ _ | .miss =>
    match parkCause s f acc (va / 4096) x with
    | (s, some c) => (s, .park c)
    | (s, none) => (s, .tier3)

/-- Reads n bytes across pages, page by page; the first page that fails ends it. -/
def engineReadN (s : State) (f : Faulter) (acc : Access) (fuel va n : Nat) : State × EngRead :=
  match fuel with
  | 0 => (s, .bytes [] [])
  | k + 1 =>
    if n = 0 then (s, .bytes [] [])
    else
      let m := min n (4096 - va % 4096)
      match engineRead s f acc va m with
      | (s, .bytes b ms) =>
        (match engineReadN s f acc k (va + m) (n - m) with
          | (s, .bytes b' ms') => (s, .bytes (b ++ b') (ms ++ ms'))
          | r => r)
      | r => r

end Sys2Proof.Machine
end

