-- ==== Sys2Proof/Machine/Warps.lean ====
section
/-! DEFINITION. The registers of a warp: renaming, last use and the deferred set, uniform registers and predicates, groups,
and the register pool of a track with its spills (R10 to R29, R171, R174 to R181). -/

namespace Sys2Proof.Machine

open Sys2Proof

/-! Registers of one warp. -/

/-- A v register clean and zero in every lane (R23). -/
def VReg.zero : VReg := ⟨Vector.replicate 32 (Val.clean 0), none, false⟩

/-- Lane l of v register r: zero when unmapped (R26). -/
def vRead (w : Warp) (r : Nat) (l : Lane) : Val :=
  match FMap.get? w.v r with
  | some x => x.lanes[l]
  | none => Val.clean 0

/-- The register is mapped (R23). -/
def vMapped (w : Warp) (r : Nat) : Bool := (FMap.get? w.v r).isSome

/-- The register is mapped and empty (R27). -/
def vBusy (w : Warp) (r : Nat) : Bool := ((FMap.get? w.v r).bind (fun x => x.busy)).isSome

/-- Writes v register r in the lanes of m: maps it if it is unmapped, keeps the other lanes, and takes it out of the
deferred set (R23, R25). With no lane nothing happens. -/
def vWrite (w : Warp) (r : Nat) (m : Mask) (f : Lane → Val) : Warp :=
  if m = 0#32 then w
  else
    let old := (FMap.get? w.v r).getD VReg.zero
    let new : VReg := { old with lanes := Vector.ofFn (fun l => if m.has l then f l else old.lanes[l]) }
    { w with v := FMap.ins w.v r new, deferred := w.deferred &&& ~~~((1#256) <<< r) }

/-- Marks v register r empty, awaiting request `id`; maps it if it is unmapped (R27). -/
def vAwait (w : Warp) (r id : Nat) : Warp :=
  let old := (FMap.get? w.v r).getD VReg.zero
  { w with v := FMap.ins w.v r { old with busy := some id }, deferred := w.deferred &&& ~~~((1#256) <<< r) }

/-- A request's results land in v register r: the lanes of m are written and the register is full. A register that has
lost its mapping or awaits another request is left alone. -/
def vFill (w : Warp) (r id : Nat) (m : Mask) (vals : Vector Val 32) : Warp :=
  { w with v := FMap.modify w.v r (fun x =>
      if x.busy = some id then
        { x with lanes := Vector.ofFn (fun l => if m.has l then vals[l] else x.lanes[l]), busy := none }
      else x) }

/-- Reads a uniform register; s0 reads zero (R12). -/
def sRead (w : Warp) (n : Nat) : Val := if n = 0 then Val.clean 0 else (FMap.getD w.s n UReg.zero).val

/-- Writes a uniform register; a write to s0 is discarded (R12). -/
def sWrite (w : Warp) (n : Nat) (x : Val) : Warp :=
  if n = 0 then w else { w with s := FMap.ins w.s n { FMap.getD w.s n UReg.zero with val := x } }

/-- The uniform register is empty (R27). -/
def sBusy (w : Warp) (n : Nat) : Bool := (FMap.getD w.s n UReg.zero).busy.isSome

/-- Marks a uniform register empty (R27). -/
def sAwait (w : Warp) (n id : Nat) : Warp :=
  if n = 0 then w else { w with s := FMap.ins w.s n { FMap.getD w.s n UReg.zero with busy := some id } }

/-- A request's result lands in a uniform register. -/
def sFill (w : Warp) (n id : Nat) (x : Val) : Warp :=
  { w with s := FMap.modify w.s n (fun u => if u.busy = some id then ⟨x, none⟩ else u) }

/-- Predicate p in lane l; p7 reads 1 (R12). -/
def pRead (w : Warp) (p : Nat) (l : Lane) : Bool := if h : p < 7 then Mask.has w.p[p] l else true

/-- Predicate p as a mask. -/
def pMask (w : Warp) (p : Nat) : Mask := if h : p < 7 then w.p[p] else BitVec.allOnes 32

/-- Writes predicate p in the lanes of m; a write to p7 is discarded (R12). -/
def pWrite (w : Warp) (p : Nat) (m v : Mask) : Warp :=
  if h : p < 7 then { w with p := w.p.set p ((w.p[p] &&& ~~~m) ||| (v &&& m)) h } else w

/-- Removes mappings (R24, R25). -/
def unmap (w : Warp) (rs : List Nat) : Warp := { w with v := w.v.filter (fun e => !rs.contains e.1) }

/-- Applies the deferred set (R25). -/
def applyDeferred (w : Warp) : Warp :=
  if w.deferred = 0#256 then w
  else { w with v := w.v.filter (fun e => !w.deferred.getLsbD e.1), deferred := 0#256 }

/-- Releases last-use sources (R24): at an issue of the whole convergent mask their mappings go, but for those that are
also destinations; otherwise they join the deferred set. -/
def release (w : Warp) (whole : Bool) (rs dsts : List Nat) : Warp :=
  if whole then unmap w (rs.filter (fun r => !dsts.contains r))
  else { w with deferred := rs.foldl (fun d r => if vMapped w r then d ||| ((1#256) <<< r) else d) w.deferred }

/-- The occupancy of a warp (R29). -/
def occupancy (w : Warp) : Nat := w.v.length

/-! Warps of the machine. -/

/-- The resident warp at a place. -/
def warp? (s : State) (pl : Nat) : Option Warp := FMap.get? s.warps pl

/-- Puts a warp at a place. -/
def setWarp (s : State) (pl : Nat) (w : Warp) : State := { s with warps := FMap.ins s.warps pl w }

/-- Changes the warp at a place, if there is one. -/
def modWarp (s : State) (pl : Nat) (f : Warp → Warp) : State := { s with warps := FMap.modify s.warps pl f }

/-- A place is a Lodge thread's. -/
def isLodge (pl : Nat) : Bool := decide (9216 ≤ pl)
/-- The core of a place; 0xFF for a Lodge thread. -/
def placeCore (pl : Nat) : Nat := if isLodge pl then 255 else pl / 128
/-- The track of a place. -/
def placeTrack (pl : Nat) : Nat := if isLodge pl then 0 else pl / 16 % 8
/-- The warp slot of a place. -/
def placeSlot (pl : Nat) : Nat := if isLodge pl then 0 else pl % 16

/-- A resident workgroup. -/
def wg? (s : State) (g : Nat) : Option Wg := FMap.get? s.wgs g
/-- Changes a workgroup. -/
def modWg (s : State) (g : Nat) (f : Wg → Wg) : State := { s with wgs := FMap.modify s.wgs g f }

/-- The warps of a workgroup, with their places. -/
def wgWarps (s : State) (g : Nat) : List (Nat × Warp) := s.warps.filter (fun e => !isLodge e.1 && e.2.wg == g)

/-- The warps of a track. -/
def trackWarps (s : State) (core track : Nat) : List (Nat × Warp) :=
  s.warps.filter (fun e => !isLodge e.1 && e.1 / 16 == core * 8 + track)

/-- Warps in order of age, oldest first (R170). -/
def byAge (l : List (Nat × Warp)) : List (Nat × Warp) := sortBy (fun a b => decide (a.2.seq ≤ b.2.seq)) l

/-- The core's cycle count (R14): the steps since its last reset, and a distance from them that the spec leaves open. -/
def coreClock (s : State) (c : Nat) : Nat :=
  let n := s.now - (coreSt s c).zero
  if n = 0 then 0 else n + Config.clockSkew c

/-! Groups (R10, R162, R376, R394). -/

/-- The warp waits as a whole (R171, R177, R224). -/
def warpParked (w : Warp) : Bool := w.spilled || w.parks.any (fun p => !p.fetch)

/-- Lanes parked on a fetch fault (R154). -/
def fetchParked (w : Warp) : Mask := w.parks.foldl (fun m p => if p.fetch then m ||| p.mask else m) 0#32

/-- Lanes that may issue: in the convergent mask, not held by a handler, not pending service, not at the barrier. -/
def eligible (w : Warp) : Mask :=
  let m := w.conv &&& ~~~w.svcpend &&& ~~~w.arrived &&& ~~~fetchParked w
  let m := if w.intrap then m &&& w.tmask else m
  let m := if w.uiin then m &&& w.uentry else m
  match w.svclane with
  | some l => m &&& Mask.one l
  | none => m

/-- The lanes of a mask that hold a PC. -/
def lanesAt (w : Warp) (m : Mask) (pc : Dword) : Mask := Mask.ofFn (fun l => m.has l && w.pc[l] == pc)

/-- The PCs of a mask's lanes, in increasing order, each once. -/
def pcsOf (w : Warp) (m : Mask) : List Dword :=
  sortBy (fun a b => decide (a.toNat ≤ b.toNat)) (m.lanes.map (fun l => w.pc[l])).dedup

/-- The groups of a warp that may issue, lowest PC first (R172). -/
def groupsOf (w : Warp) : List (Dword × Mask) :=
  let m := eligible w
  (pcsOf w m).map (fun p => (p, lanesAt w m p))

/-- Moves the lanes of m to their next PC. -/
def advance (w : Warp) (m : Mask) (bytes : Nat) : Warp :=
  { w with pc := Vector.ofFn (fun l => if m.has l then w.pc[l] + BitVec.ofNat 64 bytes else w.pc[l]) }

/-- Sets the PC of the lanes of m. -/
def jump (w : Warp) (m : Mask) (f : Lane → Dword) : Warp :=
  { w with pc := Vector.ofFn (fun l => if m.has l then f l else w.pc[l]) }

/-- The innermost active loop level (R22). -/
def innermost (w : Warp) : Option LoopLevel := w.loops.getLast?

/-- Removes lanes from the innermost n loop levels; a level whose lanes are gone is inactive (R22). -/
def leaveLevels (w : Warp) (n : Nat) (m : Mask) : Warp :=
  let keep := w.loops.length - n
  let cut := (w.loops.drop keep).map (fun v : LoopLevel => { v with lanes := v.lanes &&& ~~~m })
  { w with loops := (w.loops.take keep ++ cut).filter (fun v => v.lanes != 0#32) }

/-! The register pool of a track (R174 to R181). -/

/-- Share(F) (R174). -/
def share (f : Nat) : Nat := (f + 1) / 2

/-- Mapped registers of a bank: even or odd numbers. -/
def bankRegs (w : Warp) (b : Nat) : List (Nat × VReg) := w.v.filter (fun e => e.1 % 2 == b)

/-- A field of a pair by bank. -/
def ofBank (x : Nat × Nat) (b : Nat) : Nat := if b = 0 then x.1 else x.2

/-- A field of a pair changed by bank. -/
def setBank (x : Nat × Nat) (b n : Nat) : Nat × Nat := if b = 0 then (n, x.2) else (x.1, n)

/-- An allocation lacks entries of a bank. -/
def allocShort (a : AllocWait) (b : Nat) : Bool := decide (ofBank a.got b < ofBank a.need b)

/-- An allocation that still waits: that of a word at which lanes of the warp still stand, or of the registers it starts with while they
lack entries. -/
def allocLive (w : Warp) : List AllocWait :=
  w.alloc.filter (fun a =>
    match a.pc with
    | some p => w.conv.lanes.any (fun l => w.pc[l] == p)
    | none => allocShort a 0 || allocShort a 1)

/-- The warp waits for entries for the registers it starts with (R187, R417). -/
def starting (w : Warp) : Bool := (allocLive w).any (fun a => a.pc.isNone)

/-- The allocation of the registers that a warp starts with (R187, R417). -/
def startAlloc (v : FMap VReg) : List AllocWait :=
  [⟨none, ((v.filter (fun e => e.1 % 2 == 0)).length, (v.filter (fun e => e.1 % 2 == 1)).length), (0, 0)⟩]

/-- Entries of a bank that a warp holds on chip for its registers. -/
def bankHeld (w : Warp) (b : Nat) : Nat := if starting w then 0 else ((bankRegs w b).filter (fun e => !e.2.inSlot)).length

/-- Entries of a bank that a spilled warp needs back. -/
def bankOut (w : Warp) (b : Nat) : Nat := ((bankRegs w b).filter (fun e => e.2.inSlot)).length

/-- Entries of a bank that the waiting allocations of a warp have been given (R177). -/
def bankGot (w : Warp) (b : Nat) : Nat := ((allocLive w).map (fun a => ofBank a.got b)).sum

/-- Entries of a bank that the allocation of the word at a PC has been given. -/
def gotAt (w : Warp) (pc : Dword) (b : Nat) : Nat :=
  (((allocLive w).filter (fun a => a.pc == some pc)).map (fun a => ofBank a.got b)).sum

/-- Entries of a bank that a warp has: those it maps on chip, and those given to allocations of its that wait. -/
def bankUse (w : Warp) (b : Nat) : Nat := bankHeld w b + bankGot w b

/-- Entries of a bank in use. -/
def bankTotal (ws : List (Nat × Warp)) (b : Nat) : Nat := (ws.map (fun e => bankUse e.2 b)).sum

/-- Free entries of a bank of a track. -/
def bankFree (ws : List (Nat × Warp)) (b : Nat) : Nat := 512 - bankTotal ws b

/-- Free entries left to a warp of age `seq`, after those held for older spilled warps (R178). -/
def bankLeft (ws : List (Nat × Warp)) (b seq : Nat) : Nat :=
  (byAge ws).foldl (fun n e => if e.2.spilled && decide (e.2.seq < seq) then n - min n (bankOut e.2 b) else n)
    (bankFree ws b)

/-- The victim of a failed allocation in a bank: the youngest warp that holds more than its Share, not the oldest
(R176). -/
def spillVictim (ws : List (Nat × Warp)) (b : Nat) : Option (Nat × Warp) :=
  ((byAge ws).drop 1).reverse.find? (fun e => !e.2.spilled && decide (bankUse e.2 b > share e.2.floor))

/-- Registers of a list that a warp has not mapped, in a bank. -/
def newIn (w : Warp) (rs : List Nat) (b : Nat) : Nat := (rs.dedup.filter (fun r => r % 2 == b && !vMapped w r)).length

/-- The address of a warp's spill slot (R180). -/
def spillSlot (s : State) (pl : Nat) (w : Warp) : Nat :=
  ctxField s w.part w.ctx 320 50 + pl * 32768

/-- A sector of a slot is backed: it lies in memory that the partition owns (R180). -/
def slotBacked (s : State) (p pa : Nat) : Bool :=
  match paKind s pa with
  | .chan _ _ => ownerOf s pa == some p
  | _ => false

/-- The bytes of lane values, lowest lane first. -/
def laneBytes (x : Vector Val 32) : List Byte := x.toList.flatMap (fun v => bytesOfNat 4 v.bits.toNat)

/-- Stores of a register image at an address: four sectors, each with the first mark among its lanes (R180). -/
def regStores (pa : Nat) (x : Vector Val 32) : List Store :=
  (List.range 4).map (fun i =>
    ⟨pa + 32 * i, (laneBytes x).drop (32 * i) |>.take 32, ((x.toList.drop (8 * i)).take 8).findSome? (fun v => v.mark)⟩)

/-- The first live allocation of a warp that lacks an entry of a bank gets one. -/
def giveTo (w : Warp) (b : Nat) : Warp :=
  match (allocLive w).find? (fun a => allocShort a b) with
  | none => w
  | some a => { w with alloc := w.alloc.map (fun x =>
      if x.pc == a.pc then { x with got := setBank x.got b (ofBank x.got b + 1) } else x) }

/-- Entries of a bank have become free: of the allocations that wait there, the oldest warp's takes the first (R177). -/
def giveEntries (b : Nat) : Nat → List (Nat × Warp) → List (Nat × Warp)
  | 0, ws => ws
  | n + 1, ws =>
    match (byAge ws).find? (fun e => (allocLive e.2).any (fun a => allocShort a b)) with
    | none => ws
    | some e => giveEntries b n (ws.map (fun x => if x.1 = e.1 then (x.1, giveTo x.2 b) else x))

/-- Entries of a bank of a track have become free (R177). -/
def freeEntries (s : State) (core track b n : Nat) : State :=
  (giveEntries b n (trackWarps s core track)).foldl (fun s e => modWarp s e.1 (fun w => { w with alloc := e.2.alloc })) s

/-- Stores one full register in the spill slot (R177, R180). -/
def slotStore (s : State) (pl : Nat) (w : Warp) (r : Nat) (x : VReg) : State :=
  let a := spillSlot s pl w + 128 * r
  let s := l2Access s ⟨w.part, w.ctx, none, .normal, 0#4, BitVec.allOnes 4, false, false⟩ a
  let ws := (regStores a x.lanes).filter (fun st => slotBacked s w.part st.pa)
  physStores s (some w.part) (ctxKey s w.ctx false) ws

/-- Moves one full register to the spill slot (R177). -/
def moveOut (s : State) (pl : Nat) (w : Warp) (r : Nat) (x : VReg) : State :=
  modWarp (slotStore s pl w r x) pl (fun w => { w with v := FMap.modify w.v r (fun x => { x with inSlot := true }) })

/-- Spills a warp (R177): it parks, its full entries move, its empty ones move when they are full; a WAITV of its issues again
from the start (R269). A slot that is not backed is reported once (R180). Registers that a warp starts with and that have no entry yet
go to the slot like the others. The entries that become free go to those that wait for them. -/
def spill (s : State) (pl : Nat) : State :=
  match warp? s pl with
  | none => s
  | some w =>
    let early := starting w
    let s := modWarp s pl (fun w => { w with
      spilled := true
      alloc := []
      v := if early then w.v.map (fun e => (e.1, { e.2 with inSlot := true })) else w.v
      waits := w.waits.filter (fun x => x.kind != .waitv) })
    let s := blockAccess s w.part (ctxAddr s w.part w.ctx + 40)
    let slot := spillSlot s pl w
    let bad := w.v.any (fun e => (List.range 4).any (fun i => !slotBacked s w.part (slot + 128 * e.1 + 32 * i)))
    let s := if bad then cairnWrite s (originOfPlace pl) 0x0024 w.part slot
        (placeCore pl * 65536 + placeTrack pl * 256 + placeSlot pl) else s
    let s := w.v.foldl (fun s e => if e.2.busy.isSome then s else moveOut s pl w e.1 e.2) s
    let left (b : Nat) : Nat := ((warp? s pl).map (fun w => bankUse w b)).getD 0
    [0, 1].foldl (fun s b => freeEntries s (placeCore pl) (placeTrack pl) b (bankUse w b - left b)) s

/-- A register that has been filled moves out at once if its warp is spilled (R177). -/
def settle (s : State) (pl r : Nat) : State :=
  match warp? s pl with
  | none => s
  | some w =>
    match FMap.get? w.v r with
    | some x =>
      if w.spilled && x.busy.isNone then
        freeEntries (moveOut s pl w r x) (placeCore pl) (placeTrack pl) (r % 2) (if x.inSlot then 0 else 1)
      else s
    | none => s

/-- Entries that a spilled warp of a track has still to move out of a bank. -/
def bankMoving (ws : List (Nat × Warp)) (b : Nat) : Bool := ws.any (fun e => e.2.spilled && decide (0 < bankHeld e.2 b))

/-- The warps of a track, with the requester as it would allocate: the entries that its word releases go first to allocations that
wait (R177). -/
def poolWarps (s : State) (pl : Nat) (w : Warp) : List (Nat × Warp) :=
  let ws := trackWarps s (placeCore pl) (placeTrack pl)
  let freed (b : Nat) : Nat := ((warp? s pl).map (fun v => if v.spilled then 0 else bankHeld v b - bankHeld w b)).getD 0
  giveEntries 1 (freed 1) (giveEntries 0 (freed 0) (ws.map (fun e => if e.1 = pl && !e.2.spilled then (pl, w) else e)))

/-- A bank has room for the registers that the word at a PC of a warp writes first: free entries, and those that its waiting allocation
has been given (R176, R178). -/
def bankFits (ws : List (Nat × Warp)) (pl : Nat) (pc : Dword) (w : Warp) (rs : List Nat) (b : Nat) : Bool :=
  decide (newIn w rs b ≤ bankLeft ws b w.seq + ((FMap.get? ws pl).map (fun v => gotAt v pc b)).getD 0)

/-- The bank in which a word's allocation fails: of two, the even one, which it maps first (R23, R176). -/
def shortBank (ws : List (Nat × Warp)) (pl : Nat) (pc : Dword) (w : Warp) (rs : List Nat) : Option Nat :=
  [0, 1].find? (fun b => !bankFits ws pl pc w rs b)

/-- The pool has room for the registers that the word at a PC of the warp writes first (R176). A Lodge thread's registers are its
own. -/
def poolRoom (s : State) (pl : Nat) (pc : Dword) (w : Warp) (rs : List Nat) : Bool :=
  isLodge pl || (shortBank (poolWarps s pl w) pl pc w rs).isNone

/-- The allocation of the word at a PC has failed, and the victim spilled for it has still to move entries of a bank: nothing more is
spilled for it (R176, R177). -/
def allocPending (ws : List (Nat × Warp)) (w : Warp) (pc : Dword) (b : Nat) : Bool :=
  (allocLive w).any (fun a => a.pc == some pc) && bankMoving ws b

/-- The failed allocation of registers by the word at a PC: it takes the free entries that are left to it, and a victim is spilled in
the bank that has no room (R176, R177). `w` is the requester as it would allocate. -/
def spillFor (s : State) (pl : Nat) (pc : Dword) (w : Warp) (rs : List Nat) : State :=
  let core := placeCore pl
  let track := placeTrack pl
  let ws := trackWarps s core track
  let got (b : Nat) : Nat := min (newIn w rs b) (bankLeft ws b w.seq + gotAt w pc b)
  let t := modWarp s pl (fun v => { v with
    alloc := v.alloc.filter (fun a => a.pc != some pc) ++ [⟨some pc, (newIn w rs 0, newIn w rs 1), (got 0, got 1)⟩] })
  match shortBank (poolWarps s pl w) pl pc w rs with
  | none => t
  | some b =>
    if allocPending ws w pc b then t
    else
      match spillVictim (trackWarps t core track) b with
      | some e => spill t e.1
      | none => t

/-- The allocation of the registers that the oldest warp of a track that still lacks entries starts with: a victim is spilled for each
failure, and the next one only when no entry is moving any more (R176, R187, R417). -/
def spillStarts (core track : Nat) : Nat → State → State
  | 0, s => s
  | n + 1, s =>
    let ws := trackWarps s core track
    match (byAge ws).find? (fun e => starting e.2) with
    | none => s
    | some e =>
      match [0, 1].find? (fun b => (allocLive e.2).any (fun a => allocShort a b)) with
      | none => s
      | some b =>
        if bankMoving ws b then s
        else
          match spillVictim ws b with
          | some v => spillStarts core track n (spill s v.1)
          | none => s

/-- Warps that have just been admitted take the free entries that are left to them, the oldest first (R178). -/
def takeLeft (s : State) (core track : Nat) : State :=
  (byAge (trackWarps s core track)).foldl (fun s e =>
    let ws := trackWarps s core track
    let got (a : AllocWait) (b : Nat) : Nat := min (ofBank a.need b) (ofBank a.got b + bankLeft ws b e.2.seq)
    if starting e.2 then
      modWarp s e.1 (fun w => { w with alloc := w.alloc.map (fun a => if a.pc.isNone then { a with got := (got a 0, got a 1) } else a) })
    else s) s

/-- The registers that a warp of a track starts with are allocated (R176, R187, R417). -/
def fitPool (core track n : Nat) (s : State) : State := spillStarts core track n (takeLeft s core track)

/-- Entries of a bank that a warp had and has no longer, but for those that went to a spill slot: its registers released, and the
entries of allocations whose lanes have left their word. -/
def freedIn (w : Warp) (v : Option Warp) (b : Nat) : Nat :=
  match v.filter (fun v => v.seq == w.seq) with
  | none => bankUse w b
  | some v =>
    (if starting w then 0 else ((bankRegs w b).filter (fun e => !e.2.inSlot && !vMapped v e.1)).length) +
      (((allocLive w).filter (fun a => v.alloc.any (fun x => x.pc == a.pc) && !(allocLive v).any (fun x => x.pc == a.pc) &&
        a.pc.isSome)).map (fun a => ofBank a.got b)).sum

/-- What a step has freed goes to the allocations that wait on its track (R177); allocations whose lanes have left their word are gone,
and warps that start take what is left to them. -/
def givePool (old s : State) : State :=
  if s.warps.all (fun e => e.2.alloc.isEmpty) then s
  else
    let tracks := (((s.warps.filter (fun e => !isLodge e.1 && !e.2.alloc.isEmpty)).map (fun e => e.1 / 16))).dedup
    tracks.foldl (fun s t =>
      let freed (b : Nat) : Nat := ((trackWarps old (t / 8) (t % 8)).map (fun e => freedIn e.2 (warp? s e.1) b)).sum
      let n := (freed 0, freed 1)
      let s := (trackWarps s (t / 8) (t % 8)).foldl (fun s e => modWarp s e.1 (fun w => { w with alloc := allocLive w })) s
      takeLeft ([0, 1].foldl (fun s b => freeEntries s (t / 8) (t % 8) b (ofBank n b)) s) (t / 8) (t % 8)) s

/-- A spilled warp is ready to restore: each bank has as many entries held for it as it needs, and no entry waits to
move (R178). -/
def restoreReady (s : State) (pl : Nat) (w : Warp) : Bool :=
  let ws := trackWarps s (placeCore pl) (placeTrack pl)
  w.spilled && w.v.all (fun e => e.2.inSlot && e.2.busy.isNone) &&
    [0, 1].all (fun b => decide (bankOut w b ≤ bankLeft ws b w.seq))

/-- Reads one sector of a spill slot, as any read of memory (R275, R434); a sector that is not backed reads zero (R180). -/
def slotSector (s : State) (w : Warp) (a : Nat) : State × List Byte :=
  if slotBacked s w.part a then let (s, b, _) := physRead s (some w.part) (ctxKey s w.ctx false) a 32; (s, b)
  else (s, List.replicate 32 0#8)

/-- Reads one register back from the slot; its poison marks are those kept on chip and not the sectors', and an unbacked byte
reads zero and marks every lane (R177, R180). -/
def moveIn (s : State) (pl : Nat) (w : Warp) (r : Nat) : State :=
  let a := spillSlot s pl w + 128 * r
  let good := (List.range 4).all (fun i => slotBacked s w.part (a + 32 * i))
  let s := l2Access s ⟨w.part, w.ctx, none, .normal, BitVec.allOnes 4, 0#4, false, false⟩ a
  let (s, b) := (List.range 4).foldl (fun (e : State × List Byte) i =>
    let (s, x) := slotSector e.1 w (a + 32 * i)
    (s, e.2 ++ x)) (s, [])
  modWarp s pl (fun w => { w with v := FMap.modify w.v r (fun x =>
    { x with inSlot := false, lanes := Vector.ofFn (fun l =>
      ⟨BitVec.ofNat 32 (natOfBytes ((b.drop (4 * l.val)).take 4)), if good then x.lanes[l].mark else some .anon⟩) }) })

/-- The admission rule of R175 for new floors on a track. -/
def admits (s : State) (core track : Nat) (floors : List Nat) : Bool :=
  let ws := byAge (trackWarps s core track)
  decide (ws.length + floors.length ≤ 16) &&
    (let all := ws.map (fun e => share e.2.floor) ++ floors.map share
     decide (128 + (all.drop 1).sum ≤ 512) || decide (all.length ≤ 1))

end Sys2Proof.Machine
end

