-- ==== Sys2Proof/Machine/Flags.lean ====
section
/-! DEFINITION. Floating-point flags: FPCSR, the exception record, and the merge of results in issue order (R16 to R19, R30
to R32). -/

namespace Sys2Proof.Machine

open Sys2Proof

/-- RM as FPCSR codes it (R17). -/
def rmCode : RMode → Nat
  | .rne => 0 | .rtz => 1 | .rup => 2 | .rdn => 3

/-- The mode of an RM code. -/
def rmOf (n : Nat) : RMode := if n % 4 = 0 then .rne else if n % 4 = 1 then .rtz else if n % 4 = 2 then .rup else .rdn

/-- FPCSR as a read returns it (R17). -/
def fpcsr (w : Warp) : Nat :=
  (if w.xrec.v then 2 ^ 23 else 0) + w.fpEn.toNat * 2 ^ 16 + w.fpFlags.toNat * 2 ^ 8 + (if w.ftz then 4 else 0) + rmCode w.rm

/-- A write of FPCSR (R17). -/
def setFpcsr (w : Warp) (x : Nat) : Warp :=
  { w with fpEn := BitVec.ofNat 5 (bits x 16 5), fpFlags := BitVec.ofNat 5 (bits x 8 5), ftz := x.testBit 2,
           rm := rmOf (bits x 0 2) }

/-- A completed instruction's flags are merged: FLAGS, then the record if an enabled flag was raised (R30). -/
def mergeRes (w : Warp) (r : FpRes) : Warp :=
  let w := { w with fpFlags := w.fpFlags ||| r.flags }
  if r.eflags = 0#5 then w
  else if w.xrec.v then
    { w with xrec := { w.xrec with count := if w.xrec.count = 0xFFFF#16 then 0xFFFF#16 else w.xrec.count + 1 } }
  else { w with xrec := ⟨r.pc, r.lanes, true, r.low, r.dest, 1#16, r.eflags⟩ }

/-- Merges the completed results at the head of a queue, in issue order (R30). -/
def drainList : List FpRes → Warp → Warp
  | [], w => { w with fpq := [] }
  | r :: t, w => if r.done then drainList t (mergeRes w r) else { w with fpq := r :: t }

/-- Merges what has completed. -/
def drain (w : Warp) : Warp := drainList w.fpq w

/-- A floating-point instruction issues; `res` says what it raised. -/
def pushRes (w : Warp) (r : FpRes) : Warp := drain { w with fpq := w.fpq ++ [r] }

/-- Request `id` completes. -/
def completeRes (w : Warp) (id : Nat) : Warp :=
  drain { w with fpq := w.fpq.map (fun r => if r.id = id then { r with done := true } else r) }

/-- Every outstanding result completes. -/
def finishRes (w : Warp) : Warp := drain { w with fpq := w.fpq.map (fun r => { r with done := true }) }

/-- A read of FPCSR or XREC must wait (R16). -/
def fpOutstanding (w : Warp) : Bool := !w.fpq.isEmpty

/-- What an instruction with flags per lane raised: the flags over the written lanes, the lanes that raised an enabled
flag, the enabled flags (R30). -/
def resOf (w : Warp) (id : Nat) (done : Bool) (m : Mask) (fl : Lane → Nat) (pc : Dword) (dest : Nat) (low : Bool) : FpRes :=
  let all := m.lanes.foldl (fun a l => a ||| BitVec.ofNat 5 (fl l)) 0#5
  { id := id, done := done, flags := all,
    lanes := Mask.ofFn (fun l => m.has l && (BitVec.ofNat 5 (fl l) &&& w.fpEn) != 0#5),
    eflags := all &&& w.fpEn, pc := pc, dest := BitVec.ofNat 9 dest, low := low }

/-- XREC2 as a read returns it (R19). -/
def xrec2 (w : Warp) : Nat :=
  (if w.xrec.v then 2 ^ 31 else 0) + (if w.xrec.h then 512 else 0) + w.xrec.edest.toNat

/-- XREC3 as a read returns it (R19). -/
def xrec3 (w : Warp) : Nat := w.xrec.count.toNat * 256 + w.xrec.eflags.toNat

/-- A write of XREC2: 1 at V clears the record (R19). -/
def setXrec2 (w : Warp) (x : Nat) : Warp := if x.testBit 31 then { w with xrec := XRec.zero } else w

end Sys2Proof.Machine
end

