-- ==== Sys2Proof/Machine/Ops.lean ====
section
/-! DEFINITION. The operations every instruction shares: ending warps and workgroups, the barrier, the containment walk, and
taking a trap (R31, R32, R160, R162, R163, R206, R359 to R375). -/

namespace Sys2Proof.Machine

open Sys2Proof

/-! The user interrupt block's claim (R385, R386, R393). -/

/-- The address of a context's user interrupt block; 0 means none. -/
def uibAddr (s : State) (p c : Nat) : Nat := ctxField s p c 448 50

/-- A word of a context's block. -/
def uibWord (s : State) (p c off : Nat) : Nat := if uibAddr s p c = 0 then 0 else peek64 s (uibAddr s p c + off)

/-- Writes a word of a context's block. -/
def uibSet (s : State) (p c off x : Nat) : State :=
  if uibAddr s p c = 0 then s
  else physWrite64 (blockLookup s p (uibAddr s p c + off) true) (some p) (uibAddr s p c + off) x

/-- The device reads a word of a context's block for itself (R276, log 105). -/
def uibAccess (s : State) (p c off : Nat) : State :=
  if uibAddr s p c = 0 then s else blockAccess s p (uibAddr s p c + off)

/-- The block's claim names the warp at a place: HV and HRES are 1 and the location fields are its (R389, R393, R394). -/
def claimNames (s : State) (pl : Nat) (w : Warp) : Bool :=
  let ctl := uibWord s w.part w.ctx 0
  bits ctl 62 2 == 3 && bits ctl 41 15 == placeCore pl * 128 + placeTrack pl * 16 + placeSlot pl

/-- A claiming warp ends: HV := 0 (R393). -/
def dropClaim (s : State) (pl : Nat) (w : Warp) : State :=
  if w.claim || claimNames s pl w then uibSet s w.part w.ctx 0 (setBits (uibWord s w.part w.ctx 0) 62 2 0) else s

/-! The workgroup barrier (R206). -/

/-- Threads of a workgroup that wait in lift lines (R188). -/
def filed (s : State) (g : Nat) : Bool :=
  match wg? s g with
  | some x => (coreSt s x.core).lines.any (fun e => e.2.wg == g && !e.2.entries.isEmpty)
  | none => false

/-- Every expected thread has arrived, and some thread has (R206). -/
def barComplete (s : State) (g : Nat) : Bool :=
  let ws := wgWarps s g
  ws.any (fun e => e.2.arrived != 0#32) && ws.all (fun e => Mask.sub e.2.conv e.2.arrived) && !filed s g

/-- The back-edge of the level whose LEND is `pc`, after the word there has executed (R156), whatever that word was (log 43). -/
def backEdge (pc : Dword) (w : Warp) : Warp :=
  match innermost w with
  | none => w
  | some v =>
    if v.last != pc then w
    else if v.count.toNat > 1 then
      jump { w with loops := w.loops.dropLast ++ [{ v with count := v.count - 1 }] } v.lanes (fun _ => v.start)
    else { w with loops := w.loops.dropLast }

/-- The back-edge at a LEND, whether or not its level is still the innermost (R156): where the level ends, the levels within it end
with it. -/
def backEdgeAt (pc : Dword) (w : Warp) : Warp :=
  match w.loops.findIdx? (fun v => v.last == pc) with
  | none => w
  | some n =>
    match w.loops[n]? with
    | none => w
    | some v =>
      if v.count.toNat > 1 then
        jump { w with loops := w.loops.set n { v with count := v.count - 1 } } v.lanes (fun _ => v.start)
      else { w with loops := w.loops.take n }

/-- Moves a warp's waiting lanes past their BAR (R206), and back to LSTA where a complete group arrived at a BAR that stands at LEND
(R156). -/
def barPass (w : Warp) : Warp :=
  w.barEdges.foldl (fun w pc => backEdgeAt pc w) { advance w w.arrived 8 with arrived := 0#32, barEdges := [] }

/-- Completes the barrier if it is complete: every waiting lane moves to PC + 8 (R206). -/
def barCheck (s : State) (g : Nat) : State :=
  if barComplete s g then
    { s with warps := s.warps.map (fun e =>
        if !isLodge e.1 && e.2.wg == g then (e.1, barPass e.2) else e) }
  else s

/-! What a containment record says, and the level that a walk chooses (R20, R369, R374). -/

/-- A trap, as TRAPCAUSE describes it (R20), with the poison marks that a POISON trap consumed. -/
structure Trap where
  code : Nat
  detail : Nat
  opnd : Nat
  low : Bool
  lanes : Mask
  marks : List Mark
  deriving DecidableEq, Repr

/-- TRAPCAUSE of a trap (R20). -/
def Trap.cause (t : Trap) : Nat :=
  t.lanes.toNat * 2 ^ 32 + t.detail % 65536 * 65536 + (if t.low then 2048 else 0) + t.opnd % 8 * 256 + t.code % 256

/-- Where a trap was raised, as a containment record names it. -/
structure Where where
  place : Nat
  part : Nat
  ctx : Nat
  wg : Nat
  core : Nat
  track : Nat
  slot : Nat
  deriving DecidableEq, Repr

/-- The place of a resident warp. -/
def whereOf (pl : Nat) (w : Warp) : Where := ⟨pl, w.part, w.ctx, w.wg, placeCore pl, placeTrack pl, placeSlot pl⟩

/-- The origin of a containment record (R374, R479). -/
def whereOrigin (h : Where) : Nat := if h.core ≥ 72 then originOfPlace h.place else h.core

/-- Writes a containment record. -/
def contRecord (s : State) (h : Where) (cause epc level action : Nat) (demoted absorbed : Bool) : State :=
  let (s, n) := nextOseq s (whereOrigin h)
  pushError s h.part (contBits n cause epc (whereOrigin h) h.ctx h.part h.core h.track h.slot level action demoted absorbed)

/-- Levels of the walk. -/
inductive Level where
  | warp | wg | launch | ctx | part
  deriving DecidableEq, Repr

/-- LEVEL of a containment record (R374). -/
def Level.code : Level → Nat
  | .warp => 0 | .wg => 1 | .launch => 2 | .ctx => 3 | .part => 4

/-- The POLICY field of a level (R47). -/
def policyOf (r : Rec) (v : Level) : Nat := bits (rPolicy r) (8 - 2 * v.code) 2

/-- The launch a workgroup counts toward. -/
def wgLaunch (s : State) (g : Nat) : Nat := ((wg? s g).map (fun x => x.launch)).getD 0

/-- The restarts of a workgroup so far (R372). -/
def retryCount (s : State) (i index : Nat) : Nat :=
  match FMap.get? s.launches i with
  | some l => FMap.getD l.retries index 0
  | none => 0

/-- The walk's choice: level, action, demoted; none when every level ignores (R369). -/
def walkChoice (s : State) (h : Where) (r : Rec) (index : Nat) : List Level → Option (Level × Nat × Bool)
  | [] => none
  | v :: t =>
    let c := part s h.part
    let a := if v = .part ∧ ctlField c 0x500 30 1 = 1 then 0 else policyOf r v
    if a = 0 then walkChoice s h r index t
    else if a = 1 ∧ (!rIdem r ∨ v = .ctx ∨ v = .part ∨
        retryCount s (wgLaunch s h.wg) index ≥ ctlField c 0x500 0 4) then some (v, 2, true)
    else some (v, a, false)

/-- The level of the unit that an action takes: that of the level, or for kill parent, and for a restart at the warp level, the
next (R370). -/
def unitLevel (v : Level) (a : Nat) : Nat := v.code + (if a = 3 ∨ (v = .warp ∧ a = 1) then 1 else 0)

/-- A workgroup is being killed or restarted in a unit that holds the unit of an action (R373). -/
def unitKilled (s : State) (g : Nat) (v : Level) (a : Nat) : Bool :=
  ((wg? s g).map (fun x => x.killed && decide (unitLevel v a ≤ x.killLevel))).getD false

/-! Ending warps and workgroups. -/

/-- At a warp's end its flags go to EXCSUM (R32, R368). -/
def sumFlags (s : State) (w : Warp) : State :=
  let w := finishRes w
  if w.fpFlags = 0#5 ∧ !w.xrec.v then s
  else modExcsum s w.part w.ctx (fun x =>
    let x := setBits x 48 5 (bits x 48 5 ||| w.fpFlags.toNat)
    if w.xrec.v then setBits x 62 1 1 else x)

/-- Takes a warp off its track, with the requests it awaits (R160, R371). -/
def dropWarp (s : State) (pl : Nat) : State :=
  { s with warps := FMap.del s.warps pl, pend := s.pend.filter (fun e => e.2.place != pl),
           xfers := s.xfers.map (fun e => if e.2.place = some pl then (e.1, { e.2 with gone := true }) else e),
           tracks := s.tracks.map (fun e => (e.1, { e.2 with
             queue := e.2.queue.map (fun m => if m.place = pl then { m with gone := true } else m) })) }

/-- Ends a warp: R32 on its flags, its claim, its entries; its lanes count as exited for BAR (R160, R206, R393). -/
def endWarp (s : State) (pl : Nat) : State :=
  match warp? s pl with
  | none => s
  | some w => barCheck (dropWarp (dropClaim (sumFlags s w) pl w) pl) w.wg

/-- Releases the matrix binding of a workgroup's tracks: queues, tiles and accumulators (R317). -/
def unbind (s : State) (g : Nat) : State :=
  { s with tracks := s.tracks.map (fun e =>
      if e.2.bind = some g then (e.1, e.2.unbound) else e) }

/-- Discards a workgroup's lift-line entries (R371). -/
def dropLines (s : State) (g : Nat) : State :=
  match wg? s g with
  | some x => modCore s x.core (fun c => { c with lines := c.lines.filter (fun e => e.2.wg != g) })
  | none => s

/-- Cancels a workgroup's stagings (R371): of its chunks, those that no copy in flight still writes are present. -/
def dropStagings (s : State) (g : Nat) : State :=
  let xs := s.xfers.filter (fun e => !(e.2.wg == g && e.2.entry.isSome))
  modWg { s with xfers := xs } g (fun x => { x with chunks := x.chunks.filter (fun c =>
    c.2 == .absent && xs.any (fun e => e.2.wg == g && !e.2.out && dHas e.2.desc c.1 && !e.2.landed.contains c.1)) })

/-- A matrix loop. -/
def isMatLoop (m : MatOp) : Bool :=
  match m.word with
  | .mloop _ | .mvloop _ => true
  | _ => false

/-- Stops a workgroup's matrix loops and discards them; what else stands in its queues completes (R371). -/
def dropLoops (s : State) (g : Nat) : State :=
  { s with tracks := s.tracks.map (fun e =>
      if e.2.bind = some g then (e.1, { e.2 with queue := e.2.queue.filter (fun m => !isMatLoop m) }) else e) }

/-- The workgroup's tracks have matrix work queued. -/
def matBusy (s : State) (g : Nat) : Bool := s.tracks.any (fun e => e.2.bind == some g && !e.2.queue.isEmpty)

/-- The oldest unreported copy failure of a warp (R297, R301). -/
def oldestFail (w : Warp) : Option CopyFail :=
  w.fails.foldl (fun b c =>
    match b with
    | none => some c
    | some d => if (w.openb - c.batch).toNat > (w.openb - d.batch).toNat then some c else some d) none

/-- The failures that a warp passes to the containment walk at its end, as TRAPCAUSE and PC: the oldest of its copies', and the oldest
of its MVLOOPs' (R297, R338). -/
def endFailures (w : Warp) : List (Nat × Dword) :=
  ((oldestFail w).toList.map (fun c => (Trap.cause ⟨c.code, c.detail, 0, false, 0#32, []⟩, c.pc))) ++
    (w.mvfail.head?.toList.map (fun m => (Trap.cause ⟨m.code, m.detail, 0, false, 0#32, []⟩, m.pc)))

/-- The walk of a failure that a killed warp leaves is absorbed: its record alone is written (R297, R373). -/
def absorbFailure (s : State) (h : Where) (f : Nat × Dword) : State :=
  let c := (wg? s h.wg).bind (fun x => walkChoice s h x.record x.index [.warp, .wg, .launch, .ctx, .part])
  match c with
  | some (v, a, d) => contRecord s h f.1 f.2.toNat v.code a d true
  | none => contRecord s h f.1 f.2.toNat 4 0 false true

/-- Gives a save frame back by a SAVEFREE notice (R414, R416). -/
def saveFree (s : State) (p c frame : Nat) : State :=
  let (s, n) := nextOseq s originChairlift
  pushFault s p ⟨originChairlift, n, c, p, 0, 0, frame % 2 ^ 48, 0, 0xE, 0, false, 0⟩

/-- A save that a kill supersedes returns its frame (R416). -/
def dropSave (s : State) (g : Nat) : State :=
  match wg? s g with
  | some x =>
    (match x.saving with
      | some (f, _) => saveFree s x.part x.ctx f
      | none => s)
  | none => s

/-- Kills a workgroup (R371): its warps end, stagings are cancelled, matrix loops and lift lines are discarded. Copies in flight and
what else its matrix queues hold complete, and the workgroup is released when they have. `lv` is the level of the unit killed
(R373). Gives the number of warps ended. -/
def killWg (s : State) (lv g : Nat) : State × Nat :=
  let ws := wgWarps s g
  let s := modWg (dropSave s g) g (fun x => { x with killed := true, killLevel := lv, startParks := [], drain := none, saving := none })
  let s := ws.foldl (fun s e => dropWarp (dropClaim (sumFlags s e.2) e.1 e.2) e.1) s
  let s := dropLoops (dropStagings (dropLines s g) g) g
  (ws.foldl (fun s e => (endFailures e.2).foldl (fun s f => absorbFailure s (whereOf e.1 e.2) f) s) s, ws.length)

/-- Raises NKILL (R368, R371). -/
def addKills (s : State) (p c n : Nat) : State := if n = 0 then s else modExcsum s p c (satAdd 16 16 n)

/-- Kills several workgroups. -/
def killWgs (s : State) (lv : Nat) (gs : List Nat) : State × Nat :=
  gs.foldl (fun r g => let (s, n) := killWg r.1 lv g; (s, r.2 + n)) (s, 0)

/-- A TASK record's landing slot is free again (R448). -/
def freeLanding (s : State) (l : Launch) : State :=
  match l.landing with
  | none => s
  | some (i, k) =>
    modPart s l.part (fun q => ctlSet q (0x2000 + 64 * i + 40)
      (ctlWord q (0x2000 + 64 * i + 40) &&& ((2 ^ 64 - 1) ^^^ 2 ^ k)))

/-- A saved handler claim is gone with its workgroup: HV := 0 (R393). -/
def freeClaim (s : State) (l : Launch) : State :=
  if l.claim then uibSet s l.part l.ctx 0 (setBits (uibWord s l.part l.ctx 0) 62 2 0) else s

/-- Removes a launch, with its re-queued workgroups; a ring's HEAD passes a candidate (R345, R371). -/
def dropLaunch (s : State) (i : Nat) : State :=
  match FMap.get? s.launches i with
  | none => s
  | some l =>
    let s := freeLanding s l
    let s := match l.ring with
      | some q => modPart s l.part (fun p => { ringPop p (0x400 + 16 * q) with heads := FMap.del p.heads q })
      | none => s
    let s := (s.launches.filter (fun e => e.1 == i || e.2.orig == some i)).foldl (fun s e => freeClaim s e.2) s
    { s with launches := s.launches.filter (fun e => e.1 != i && e.2.orig != some i) }

/-- A launch of which nothing is left to place, to run or to restart is done, though some of it was killed (R371, R448). -/
def endLaunch (s : State) (i : Nat) : State :=
  match FMap.get? s.launches i with
  | some l =>
    if l.killed && decide (l.stop ≤ l.next) && !s.wgs.any (fun e => e.2.launch == i) && !s.launches.any (fun e => e.2.orig == some i) then
      dropLaunch s i
    else s
  | none => s

/-- The workgroups of a launch on the device. -/
def launchWgs (s : State) (i : Nat) : List Nat := (s.wgs.filter (fun e => e.2.launch == i && !e.2.killed)).map Prod.fst

/-- The workgroups of a context on the device. -/
def ctxWgs (s : State) (c : Nat) : List Nat := (s.wgs.filter (fun e => e.2.ctx == c && !e.2.killed)).map Prod.fst

/-- Kills a launch: its running workgroups, and the indices not yet placed (R371). -/
def killLaunch (s : State) (i : Nat) : State × Nat :=
  let (s, n) := killWgs s 2 (launchWgs s i)
  (dropLaunch s i, n)

/-- Kills a context: every workgroup of it, and EXCSUM.KILLED := 1 (R371). -/
def killCtx (s : State) (p c : Nat) : State :=
  let (s, n) := killWgs s 3 (ctxWgs s c)
  addKills (modExcsum s p c (fun x => setBits x 63 1 1)) p c n

/-- The valid contexts of a partition. -/
def partCtxs (s : State) (p : Nat) : List Nat :=
  let d := (part s p).desc
  ((List.range d.ctxCnt).map (fun i => d.ctxBase + i)).filter (ctxValid s p)

/-- CONTCTL.HALT := 1 (R370). -/
def haltPart (s : State) (p : Nat) : State := modPart s p (fun q => ctlSetField q 0x500 31 1 1)

/-- A new launch entry. -/
def addLaunch (s : State) (l : Launch) : State :=
  { s with launches := FMap.ins s.launches s.nextId l, nextId := s.nextId + 1 }

/-- Restarts a workgroup: kills it and queues the same index again as a fresh start, its SEQ kept (R372). -/
def restartWg (s : State) (g : Nat) : State × Nat :=
  match wg? s g with
  | none => (s, 0)
  | some x =>
    let (s, n) := killWg s 1 g
    let s := { s with launches := FMap.modify s.launches x.launch (fun l =>
      { l with retries := FMap.ins l.retries x.index (FMap.getD l.retries x.index 0 + 1) }) }
    let r := rset x.record 320 64 0
    (addLaunch s ⟨x.part, x.ctx, 0, none, r, rSeq r, rPrio r, x.index, x.index + 1, 0, some x.launch, 0, false, 0, none, [],
      false, none⟩, n)

/-- Restarts a launch: every index again, with its original ICNT (R372). -/
def restartLaunch (s : State) (i : Nat) : State × Nat :=
  let (s, n) := killWgs s 2 (launchWgs s i)
  let again (l : Launch) : Launch := { l with
    next := rIlo l.record
    stop := rIlo l.record + rIcnt l.record
    completed := 0
    passed := 0
    retries := (List.range (rIcnt l.record)).foldl (fun m k =>
      FMap.ins m (rIlo l.record + k) (FMap.getD m (rIlo l.record + k) 0 + 1)) l.retries }
  let ls := FMap.modify s.launches i again
  let s := (s.launches.filter (fun e => e.2.orig == some i)).foldl (fun s e => freeClaim s e.2) s
  ({ s with launches := ls.filter (fun e => e.2.orig != some i) }, n)

/-! The containment walk (R369, R370, R373). -/

/-- Ends one warp for the walk (R370, R371); a workgroup that has not started ends whole (R478). -/
def killWarpAt (s : State) (h : Where) : State :=
  match warp? s h.place with
  | some w =>
    if w.wg = h.wg then
      (endFailures w).foldl (fun s f => absorbFailure s h f) (addKills (endWarp s h.place) h.part h.ctx 1)
    else s
  | none => s

/-- Applies an action, 1 retry, 2 kill self, 3 kill parent, to the unit of a level (R370). -/
def applyAction (s : State) (h : Where) (v : Level) (a : Nat) : State :=
  let started : Bool := match wg? s h.wg with
    | some x => x.phase == .running
    | none => true
  let count (r : State × Nat) : State := addKills r.1 h.part h.ctx r.2
  match v, a with
  | .warp, 1 => count (restartWg s h.wg)
  | .warp, 2 => if started then killWarpAt s h else count (killWg s 1 h.wg)
  | .warp, _ => count (killWg s 1 h.wg)
  | .wg, 1 => count (restartWg s h.wg)
  | .wg, 2 => count (killWg s 1 h.wg)
  | .wg, _ => count (killLaunch s (wgLaunch s h.wg))
  | .launch, 1 => count (restartLaunch s (wgLaunch s h.wg))
  | .launch, 2 => count (killLaunch s (wgLaunch s h.wg))
  | .launch, _ => killCtx s h.part h.ctx
  | .ctx, 3 => killCtx (haltPart s h.part) h.part h.ctx
  | .ctx, _ => killCtx s h.part h.ctx
  | .part, 3 =>
    let s := haltPart s h.part
    (h.ctx :: (partCtxs s h.part).filter (· != h.ctx)).foldl (fun s c => killCtx s h.part c) s
  | .part, _ => killCtx (haltPart s h.part) h.part h.ctx

/-- The warp of a walk that is absorbed issues no more (R361); where it has ended already, nothing is left to stop. -/
def stopWarp (s : State) (h : Where) : State :=
  modWarp s h.place (fun w => if w.wg = h.wg then { w with parks := w.parks ++ [⟨.stopped, w.conv, false⟩] } else w)

/-- The containment walk of a trap (R369); one whose unit lies in a unit already killed is absorbed (R373). No rule says what LEVEL
and ACTION an absorbed record holds: it holds the walk's own choice, and LEVEL 3 and ACTION kill self where the context is KILLED
(DESIGN CHOICE, log 121). -/
def contWalk (s : State) (h : Where) (cause epc : Nat) (sup : Bool) : State :=
  if ctxKilled s h.part h.ctx then
    contRecord (stopWarp (blockAccess s h.part (excsumAddr s h.part h.ctx)) h) h cause epc 3 2 false true
  else if sup then contRecord (killCtx s h.part h.ctx) h cause epc 3 2 false false
  else
    let (r, index) := match wg? s h.wg with
      | some x => (x.record, x.index)
      | none => (0#1024, 0)
    match walkChoice s h r index [.warp, .wg, .launch, .ctx, .part] with
    | some (v, a, d) =>
      if unitKilled s h.wg v a then contRecord s h cause epc v.code a d true
      else contRecord (applyAction s h v a) h cause epc v.code a d false
    | none => contRecord (killCtx s h.part h.ctx) h cause epc 4 0 false false

/-! Taking a trap (R361 to R363, R366, R434). -/

/-- The RSEQ of a mark. -/
def Mark.rseq : Mark → Nat
  | .anon => 0
  | .ev _ n _ => n

/-- The notices of a POISON trap: one for each poison event consumed, by RSEQ (R434). -/
def poisonNotices (s : State) (h : Where) (ms : List Mark) : State :=
  (sortBy (fun a b => decide (a.rseq ≤ b.rseq)) ms.dedup).foldl (fun s m =>
    match m with
    | .anon => s
    | .ev b n sec =>
      let s := { s with pevents := s.pevents.map (fun e =>
        if e.bank = b ∧ e.sector = sec then { e with parts := e.parts ++ [(n, h.part)] } else e) }
      pushFault s h.part ⟨originBank b, n, h.ctx, h.part, h.core, h.track, sec * 32, 0, 0xD, 0, false, 0⟩) s

/-- Stops a Lodge thread on a trap (R363). -/
def lodgeStop (s : State) (pl : Nat) (pc : Dword) (t : Trap) : State :=
  let p := ((warp? s pl).map (fun w => w.part)).getD 15
  let s := cairnWrite s (originOfPlace pl) 0x0030 p pc.toNat t.cause
  { s with lodgeRun := s.lodgeRun &&& ~~~((1#64) <<< (pl - 9216)) }

/-- A warp enters its thread trap handler (R162). -/
def enterHandler (w : Warp) (a : Mask) (pc : Dword) (t : Trap) : Warp :=
  jump { w with trappc := pc, trapcause := BitVec.ofNat 64 t.cause, tmask := a, intrap := true } a (fun _ => w.trapvec)

/-- A precise trap enters the thread handler (R361). -/
def handlerApplies (pl : Nat) (w : Warp) : Bool :=
  !w.intrap && w.trapvec != 0#64 && w.svclane.isNone && !isLodge pl

/-- A debug stop: the warp parks and a record of LEVEL 6 is written (R362). -/
def debugStop (s : State) (h : Where) (a : Mask) (pc : Dword) (t : Trap) (len : Nat) : State :=
  let n := FMap.getD s.oseq (whereOrigin h) 0 + 1
  let s := contRecord s h t.cause pc.toNat 6 0 false false
  modWarp s h.place (fun w => { w with parks := w.parks ++ [⟨.debug (whereOrigin h) n t.cause len, a, false⟩] })

/-- Takes a precise trap raised by an issue with active mask `a` at `pc`, whose word has `len` words: the one operation by
which every instruction raises a trap (R361). `s` is the state before the issue. -/
def takeTrap (s : State) (pl : Nat) (a : Mask) (pc : Dword) (len : Nat) (t : Trap) : State :=
  match warp? s pl with
  | none => s
  | some w =>
    let h := whereOf pl w
    let s := { s with cur := none }
    let s := modWarp s pl (fun w => { w with
      denied := w.denied.filter (fun d => d.pc != pc || d.mask &&& a == 0#32)
      waits := w.waits.filter (fun x => x.mask &&& a == 0#32) })
    let s := if t.code = 8 then poisonNotices (modExcsum s w.part w.ctx (satAdd 0 16 1)) h t.marks else s
    if isLodge pl then lodgeStop s pl pc t
    else if handlerApplies pl w then
      let s := modWarp s pl (fun w => enterHandler w a pc t)
      if t.code = 8 then contRecord s h t.cause pc.toNat 5 0 false false else s
    else if t.code = 0xB && ctlField (part s w.part) 0x500 29 1 == 1 then debugStop s h a pc t len
    else contWalk s h t.cause pc.toNat w.svclane.isSome

/-- The return from a thread trap handler: every lane of the entry mask takes TRAPPC, and INTRAP := 0 (R163). -/
def leaveHandler (w : Warp) : Warp := { jump w w.tmask (fun _ => w.trappc) with intrap := false, tmask := 0#32 }

/-! Lanes that leave. -/

/-- Removes lanes from a warp as EXIT does: convergent mask, every LMASK, entry masks (R22, R160, R163, R395). -/
def exitLanes (w : Warp) (m : Mask) : Warp :=
  let w := leaveLevels { w with conv := w.conv &&& ~~~m } w.loops.length m
  let w := if w.intrap then
      let k := w.tmask &&& ~~~m
      { w with tmask := k, intrap := k != 0#32 }
    else w
  if w.uiin then
    let k := w.uentry &&& ~~~m
    { w with uentry := k, uiin := k != 0#32 }
  else w

/-! Serving lanes (R378). -/

/-- Puts the lowest pending lane in supervisor mode at SVCVEC (R378). -/
def serve (s : State) (pl : Nat) : State :=
  match warp? s pl with
  | none => s
  | some w =>
    match Mask.low? w.svcpend with
    | none => setWarp s pl { w with svclane := none }
    | some l =>
      let vec := bits (ctlWord (part s w.part) 0x508) 3 54 * 8
      setWarp s pl { jump w (Mask.one l) (fun _ => BitVec.ofNat 64 vec) with
        svclane := some l, svcpend := w.svcpend &&& ~~~Mask.one l }

end Sys2Proof.Machine
end

