-- ==== Sys2Proof/Machine/Operands.lean ====
section
/-! DEFINITION. Operands: the sources and destinations of a word, their values and poison marks, and the checks made on them
(R11 to R14, R20, R24 to R28, R83 to R91, R98, R364 to R366). -/

namespace Sys2Proof.Machine

open Sys2Proof

/-- What an instruction sees of its issue: place, active mask, the lanes of it whose guard holds, PC, length in words, and
the warp as it reads its sources (the deferred set applied, nothing released). -/
structure Iss where
  place : Nat
  a : Mask
  l : Mask
  pc : Dword
  len : Nat
  w : Warp
  deriving DecidableEq, Repr

/-- The lanes of a mask whose guard holds (R77). -/
def guardLanes (w : Warp) (g : Guard) (a : Mask) : Mask :=
  let m := pMask w g.p.val
  a &&& (if g.neg then ~~~m else m)

/-- The issue acts on the whole convergent mask (R24, R25). -/
def Iss.whole (i : Iss) : Bool := i.a == i.w.conv

/-- The issue in progress, seen under a guard; none when no resident warp is named. -/
def issOf (s : State) (g : Guard) : Option Iss :=
  match s.cur with
  | none => none
  | some c =>
    match warp? s c.place with
    | none => none
    | some w =>
      let w := if c.mask = w.conv then applyDeferred w else w
      some ⟨c.place, c.mask, guardLanes w g c.mask, c.pc, c.len, w⟩

/-! Sources and destinations of a word. -/

/-- A source of a word: TRAPCAUSE.OPND, the half, what it names, how many registers it reads, how many of them hold one value (2
for 64-bit values, whose pair counts as one source, R26), its bits. -/
structure SrcRef where
  opnd : Nat
  low : Bool
  o : Src
  span : Nat
  unit : Nat
  lu : Bool
  wait : Bool
  deriving DecidableEq, Repr

/-- The source that stands in a position. -/
def srcAt (p : PosSpec) (opnd : Nat) (low : Bool) (o : Opd) : List SrcRef :=
  match p, o with
  | .src _ _ _ _ _ step _, .src x lu wt =>
    [⟨opnd, low, x, if step = 160 then 1 else step, if step = 160 ∨ step = 1 then 1 else 2, lu, wt⟩]
  | _, _ => []

/-- The positions of a format F or X word. -/
def posOf (k : FKind) (f : WordF) : SpecF :=
  (fSpec k f.mod.toNat f.sub.toNat (rawSrc f.b).code.toNat (rawSrc f.c).code.toNat).getD ⟨.none, .none, .none, .none⟩

/-- The source DATA of a format M word: two registers hold one value where the width is 64 bits (R80, R258). -/
def dataRef (k : MKind) (m : WordM) : List SrcRef :=
  let wide : Bool := match k with
    | .st | .sts => m.sub.toNat == 5
    | _ => m.xm.toNat % 2 == 1
  (srcAt (mData k m.sub.toNat m.xm.toNat) 6 false m.data).map (fun r => { r with unit := if wide then 2 else 1 })

/-- The sources of an instruction, in the order of R20. -/
def sourcesOf (i : Instr) : List SrcRef :=
  match formOf i with
  | .f k f => let p := posOf k f; srcAt p.a 1 false f.a ++ srcAt p.b 2 false f.b ++ srcAt p.c 3 false f.c
  | .m k m =>
    srcAt (mBase k) 5 false m.base ++
      (if k.dataIsSrc then dataRef k m
       else match k with
        | .atom | .atoms => dataRef k m
        | _ => [])
  | .b k b => srcAt k.ct 1 false b.ct
  | .h hi lo =>
    let half (h : Half) (low : Bool) : List SrcRef :=
      ⟨4, low, .v ⟨h.hd.val, h.hd.isLt⟩, 1, 1, false, true⟩ ::
        srcAt ((halfSpec h.op h.hmod.toNat).getD .none) 1 low h.hs
    half hi false ++ half lo true
  | .illeg _ | .event => []

/-- Registers that a destination operand names, from its first. -/
def regsFrom (o : Opd) (span : Nat) : List Nat × List Nat :=
  match o with
  | .src (.v n) _ _ => ((List.range span).map (fun i => n.val + i), [])
  | .src (.s n) _ _ => ([], (List.range span).map (fun i => n.val + i))
  | _ => ([], [])

/-- The v and s registers an instruction writes. -/
def destsOf (i : Instr) : List Nat × List Nat :=
  match formOf i with
  | .f k f =>
    match k with
    | .svc => ([61, 62, 63], [])
    | .errinjReg => regsFrom f.dst 1
    | _ =>
      match (posOf k f).d with
      | .dst _ _ _ span => regsFrom f.dst span
      | _ => ([], [])
  | .m k m =>
    (match k, mData k m.sub.toNat m.xm.toNat with
      | .ld, .dst _ _ _ span => regsFrom m.data span
      | .lds, .dst _ _ _ span => regsFrom m.data span
      | .atom, .src _ _ _ _ _ step _ => regsFrom m.data (if m.sub.toNat = 9 then step / 2 else step)
      | .atoms, .src _ _ _ _ _ step _ => regsFrom m.data (if m.sub.toNat = 9 then step / 2 else step)
      | _, _ => ([], []))
  | .b k b =>
    (match k with
      | .call | .callx => ([bits b.bmod.toNat 5 8, bits b.bmod.toNat 5 8 + 1], [])
      | _ => ([], []))
  | .h hi lo => ([hi.hd.val, lo.hd.val], [])
  | .illeg _ | .event => ([], [])

/-- The v registers that the last-use bits of a word name (R24). -/
def lastUses (i : Instr) : List Nat :=
  (sourcesOf i).flatMap (fun r =>
    match r.o with
    | .v n => if r.lu then (List.range r.span).map (fun k => n.val + k) else []
    | _ => [])

/-! Empty, stale and leased registers (R26 to R28). -/

/-- A source's registers are all full. -/
def SrcRef.full (w : Warp) (r : SrcRef) : Bool :=
  match r.o with
  | .v n => (List.range r.span).all (fun k => !vBusy w (n.val + k))
  | .s n => (List.range r.span).all (fun k => !sBusy w (n.val + k))
  | _ => true

/-- A source's registers are all mapped. -/
def SrcRef.mapped (w : Warp) (r : SrcRef) : Bool :=
  match r.o with
  | .v n => (List.range r.span).all (fun k => vMapped w (n.val + k))
  | _ => true

/-- The word waits for a source whose wait bit is 1, or for its destination (R27, R28). -/
def operandsWait (w : Warp) (i : Instr) : Bool :=
  (sourcesOf i).any (fun r => r.wait && !r.full w) ||
    (destsOf i).1.any (vBusy w) || (destsOf i).2.any (sBusy w)

/-- A trap of the whole issue (R20). -/
def issueTrap (i : Iss) (code detail opnd : Nat) (low : Bool) : Trap := ⟨code, detail, opnd, low, i.a, []⟩

/-- ILLEGAL from the warp's state (R152). -/
def illegalTrap (i : Iss) (detail : Nat) : Trap := issueTrap i 1 detail 0 false

/-- STALE over the sources (R26). -/
def staleTrap (i : Iss) (x : Instr) : Option Trap :=
  if i.w.stale then
    ((sourcesOf x).find? (fun r => !r.mapped i.w)).map (fun r => issueTrap i 3 0 r.opnd r.low)
  else none

/-- LEASE over the sources (R28). -/
def leaseTrap (i : Iss) (x : Instr) : Option Trap :=
  ((sourcesOf x).find? (fun r => !r.wait && !r.full i.w)).map (fun r => issueTrap i 2 0 r.opnd r.low)

/-! Values. -/

/-- How a source position reads: an integer or bit value of n bits, a floating-point value, or a packed register. -/
inductive OpT where
  | int (n : Nat)
  | fp (t : FType)
  | packed (t : FType)
  deriving DecidableEq, Repr

/-- The operand is 64 bits wide (R11). -/
def OpT.wide : OpT → Bool
  | .int n => n == 64
  | .fp t => t == .f64
  | .packed _ => false

/-- The launch record of the issuing warp's workgroup; zero on the Lodge. -/
def issRecord (s : State) (i : Iss) : Rec := ((wg? s i.w.wg).map (fun g => g.record)).getD 0

/-- A special operand (R14); on a Lodge thread, which has no core and no workgroup, as log 106 says. -/
def specialVal (s : State) (i : Iss) (n : Nat) (wide : Bool) (l : Lane) : Nat :=
  let r := issRecord s i
  let idx := if isLodge i.place then 0 else ((wg? s i.w.wg).map (fun g => g.index)).getD 0
  let clock := if isLodge i.place then s.lodgeCycle else coreClock s (placeCore i.place)
  match n with
  | 0 => l.val
  | 1 => i.w.tid[l].toNat
  | 2 => i.w.widx
  | 3 => idx % rGrid r 0
  | 4 => idx / rGrid r 0 % rGrid r 1
  | 5 => idx / (rGrid r 0 * rGrid r 1)
  | 6 => rShape r 0
  | 7 => rShape r 1
  | 8 => rShape r 2
  | 9 => if isLodge i.place then 0 else placeTrack i.place
  | 10 => if isLodge i.place then 0 else placeCore i.place
  | 11 => i.w.ctx
  | 12 => i.a.toNat
  | 13 => 2 ^ l.val - 1
  | 14 => 2 ^ (l.val + 1) - 1
  | 15 => 2 ^ l.val
  | 16 => 2 ^ 32 - 2 ^ l.val
  | 17 => 2 ^ 32 - 2 ^ (l.val + 1)
  | 18 => clock % (if wide then 2 ^ 64 else 2 ^ 32)
  | 19 => clock / 2 ^ 32 % 2 ^ 32
  | 20 => rFrame r % (if wide then 2 ^ 64 else 2 ^ 32)
  | 21 => rFrame r / 2 ^ 32
  | _ => ((wg? s i.w.wg).map (fun g => g.spadBytes)).getD 0

/-- An inline constant as its operand reads it (R84). -/
def constVal (t : OpT) (o : Src) : Nat :=
  match t, o with
  | .int n, .int k => ofInt (if n = 64 then 64 else 32) ((k.val : Int) - 16)
  | .fp f, .fp k => fpConst f k.val
  | .packed f, .fp k =>
    let x := fpConst f k.val
    if f.bits = 16 then x + x * 65536 else x * 0x01010101
  | _, _ => 0

/-- Register k of a v source of `span` registers: a 64-bit source is unmapped, and reads zero, if either register of its
pair is (R26, R147). -/
def vSource (w : Warp) (n span k : Nat) (l : Lane) : Val :=
  if span ≥ 2 ∧ !(vMapped w (n + k / 2 * 2) && vMapped w (n + k / 2 * 2 + 1)) then Val.clean 0 else vRead w (n + k) l

/-- The bits that a source gives a lane: 32, or 64 for a wide operand. -/
def srcVal (s : State) (i : Iss) (t : OpT) (o : Opd) (l : Lane) : Nat :=
  match o with
  | .src (.v n) _ _ =>
    if t.wide then (vSource i.w n.val 2 0 l).bits.toNat + (vSource i.w n.val 2 1 l).bits.toNat * 2 ^ 32
    else (vRead i.w n.val l).bits.toNat
  | .src (.s n) _ _ =>
    (sRead i.w n.val).bits.toNat + (if t.wide then (sRead i.w (n.val + 1)).bits.toNat * 2 ^ 32 else 0)
  | .src (.special n) _ _ => specialVal s i n.val t.wide l
  | .src (.lit x) _ _ => x.toNat % (if t.wide then 2 ^ 64 else 2 ^ 32)
  | .src x _ _ => constVal t x
  | _ => 0

/-- A predicate source in a lane (R86). -/
def predVal (i : Iss) (o : Opd) (l : Lane) : Bool :=
  match o with
  | .pred neg p => (pRead i.w p.val l) != neg
  | _ => true

/-- The extension field of a position (R78). -/
def extVal (o : Opd) : Nat :=
  match o with
  | .ext n _ => n.val
  | _ => 0

/-- The mark of register k of a source of `span` registers in a lane. -/
def regMark (i : Iss) (o : Opd) (span k : Nat) (l : Lane) : Option Mark :=
  match o with
  | .src (.v n) _ _ => (vSource i.w n.val span k l).mark
  | .src (.s n) _ _ => (sRead i.w (n.val + k)).mark
  | _ => none

/-- A source's marks in a lane. -/
def SrcRef.marks (i : Iss) (r : SrcRef) (l : Lane) : List Mark :=
  (List.range r.span).filterMap (fun k => regMark i (.src r.o r.lu r.wait) r.unit k l)

/-- POISON over consumed sources (R366): OPND the first that is poisoned in a lane of L, TLANES every lane of L in which one
is poisoned. -/
def poisonTrap (i : Iss) (rs : List SrcRef) : Option Trap :=
  let bad (r : SrcRef) (l : Lane) : Bool := !(r.marks i l).isEmpty
  match rs.find? (fun r => i.l.lanes.any (bad r)) with
  | none => none
  | some r =>
    some ⟨8, 0, r.opnd, r.low, Mask.ofFn (fun l => i.l.has l && rs.any (fun r => bad r l)),
      (i.l.lanes.flatMap (fun l => rs.flatMap (fun r => r.marks i l))).dedup⟩

/-- POISON of a word that consumes some of its sources and carries others: a consumed one raises it, and it names the first poisoned
source of all, and the lanes in which any is (R366); what it consumes is the consumed ones' (R434). -/
def poisonWhere (i : Iss) (used all : List SrcRef) : Option Trap :=
  (poisonTrap i used).bind (fun u => (poisonTrap i all).map (fun t => { t with marks := u.marks }))

/-! Results. -/

/-- Writes a result of one or two registers, clean, to a destination: per lane to a v register, once to an s register from
the lowest lane of L (R11, R87). -/
def writeDst (w : Warp) (m : Mask) (o : Opd) (wide : Bool) (f : Lane → Nat) : Warp :=
  match o with
  | .src (.v n) _ _ =>
    let w := vWrite w n.val m (fun l => Val.clean (BitVec.ofNat 32 (f l)))
    if wide then vWrite w (n.val + 1) m (fun l => Val.clean (BitVec.ofNat 32 (f l / 2 ^ 32))) else w
  | .src (.s n) _ _ =>
    match m.low? with
    | none => w
    | some l =>
      let w := sWrite w n.val (Val.clean (BitVec.ofNat 32 (f l)))
      if wide then sWrite w (n.val + 1) (Val.clean (BitVec.ofNat 32 (f l / 2 ^ 32))) else w
  | _ => w

/-- Writes a destination's first register, or its second, with marks. -/
def writeVals (w : Warp) (m : Mask) (o : Opd) (k : Nat) (f : Lane → Val) : Warp :=
  match o with
  | .src (.v n) _ _ => vWrite w (n.val + k) m f
  | .src (.s n) _ _ =>
    match m.low? with
    | none => w
    | some l => sWrite w (n.val + k) (f l)
  | _ => w

/-- Writes a predicate destination (R86, R101). -/
def writePred (w : Warp) (m : Mask) (o : Opd) (f : Lane → Bool) : Warp :=
  match o with
  | .pred _ p => pWrite w p.val m (Mask.ofFn f)
  | _ => w

/-- The operand code of a destination, as XREC2.EDEST and the requests in flight name it. -/
def dstCode (o : Opd) : Nat := (rawDst o).code.toNat

/-- A uniform source's value: that of the lowest active lane, which is every lane's (R87). -/
def uniVal (s : State) (i : Iss) (t : OpT) (o : Opd) : Nat := srcVal s i t o (i.l.low?.getD 0)

end Sys2Proof.Machine
end

