-- ==== Sys2Proof/Machine/Issue.lean ====
section
/-! DEFINITION. The issue of an instruction word: what every word does around its own effect (R20, R24 to R28, R96, R156, R176,
R361, R405). -/

namespace Sys2Proof.Machine

open Sys2Proof

/-- What a word's own effect gives. -/
inductive Res where
  /-- the word has executed: its lanes go on to the next word -/
  | retire (s : State)
  /-- the word has executed and has set the PCs of its lanes itself -/
  | moved (s : State)
  /-- the word has executed, and its lanes stay at it until what they wait for moves them -/
  | stay (s : State)
  /-- the word does not issue: the state with what its attempt leaves, and what becomes of the warp as it was -/
  | hold (s : State) (f : Warp → Warp)
  /-- a precise trap -/
  | trap (t : Trap)
  /-- a precise trap that reports a failure recorded in the warp, and clears its record (R297, R338) -/
  | report (t : Trap) (f : Warp → Warp)

/-- Ends the issue in progress. -/
def endIssue (s : State) : State := { s with cur := none }

/-- The issue stands at the LEND of an active level (R152). -/
def atLend (i : Iss) : Bool := i.w.loops.any (fun v => v.last == i.pc)

/-- A back-edge is evaluated after the issue (R156). -/
def edgeDue (i : Iss) : Bool := !i.w.intrap && atLend i

/-- A word has issued without a precise trap: its workgroup's RETIRED rises, and the denials that its lanes carried and the entries that
its allocation waited for are spent (R177, R226, R405). -/
def counted (s : State) (i : Iss) : State :=
  let s := modWarp s i.place (fun w =>
    if w.denied.isEmpty && w.alloc.isEmpty then w
    else { w with
      denied := w.denied.filter (fun d => d.pc != i.pc || d.mask &&& i.a == 0#32)
      alloc := w.alloc.filter (fun a => a.pc != some i.pc) })
  if isLodge i.place then s else modWg s i.w.wg (fun g => { g with retired := g.retired + 1 })

/-- Ends an issue that has executed: at a LEND the back-edge follows in the same step (R156). -/
def retired (s : State) (i : Iss) : State :=
  let s := counted s i
  if edgeDue i then { s with agenda := .event .issueAtLend :: s.agenda } else endIssue s

/-- The group stands at the LEND of an active level and is not complete there (R156). Lanes outside the level's LMASK that reach a BAR
at LEND after LMASK's lanes have arrived at it wait here for lanes that are in no group any more: no rule says what ends that wait
(DESIGN CHOICE, log 129). -/
def lendWait (i : Iss) : Bool :=
  !i.w.intrap &&
    (match i.w.loops.find? (fun v => v.last == i.pc) with
      | none => false
      | some _ =>
        match innermost i.w with
        | some v => !(v.last == i.pc && Mask.sub v.lanes i.a)
        | none => false)

/-- Takes a trap of an issue. -/
def trapOf (s : State) (i : Iss) (t : Trap) : State := takeTrap s i.place i.a i.pc i.len t

/-- The outcome of a word's effect, with the allocation of its destinations (R23, R176): without room the word does not
issue and a victim is spilled. -/
def settleRes (s : State) (i : Iss) (x : Instr) (rel : Warp) (r : Res) : State :=
  let room := i.l == 0#32 || poolRoom s i.place i.pc rel (destsOf x).1
  match r with
  | .trap t => trapOf s i t
  | .report t f => trapOf (modWarp s i.place f) i t
  | .hold s' f =>
    (match warp? s i.place with
      | some w0 => endIssue (setWarp s' i.place (f w0))
      | none => endIssue s')
  | .retire s' =>
    if room then retired (modWarp s' i.place (fun w => advance w i.a (8 * i.len))) i
    else endIssue (spillFor s i.place i.pc rel (destsOf x).1)
  | .stay s' => endIssue (counted s' i)
  | .moved s' => if room then retired s' i else endIssue (spillFor s i.place i.pc rel (destsOf x).1)

/-- Issues a word: it waits as R171 states; then ILLEGAL from the warp's state, STALE and LEASE; then its sources are read
and released and its effect acts (R20, R24). `wait` holds the word's own waits, `bad` its ILLEGAL conditions. A word that
waits leaves the state as it is. -/
def runWord (x : Instr) (g : Guard) (wait : State → Iss → Bool) (bad : State → Iss → Option Nat)
    (eff : State → Iss → Res) (s : State) : Host.Outcome State Fault Refusal :=
  match issOf s g with
  | none => .fault .noIssue
  | some i =>
    if lendWait i || operandsWait i.w x || wait s i then .next s
    else
      match ((bad s i).map (illegalTrap i)).orElse (fun _ => (staleTrap i x).orElse (fun _ => leaseTrap i x)) with
      | some t => .next (trapOf s i t)
      | none =>
        let rel := release i.w i.whole (lastUses x) (destsOf x).1
        .next (settleRes s i x rel (eff (setWarp s i.place rel) i))

/-- No wait of its own. -/
def noWait (_ : State) (_ : Iss) : Bool := false
/-- No ILLEGAL condition of its own. -/
def noBad (_ : State) (_ : Iss) : Option Nat := none

/-- The effect of a word whose register sources are all consumed (R103, R365): POISON, or a new warp. -/
def consuming (x : Instr) (f : State → Iss → Warp → Warp) (s : State) (i : Iss) : Res :=
  match poisonTrap i (sourcesOf x) with
  | some t => .trap t
  | none => .retire (modWarp s i.place (f s i))

/-- A word that computes one result per lane from its sources, all of them consumed, and writes its destination. -/
def runCalc (x : Instr) (f : WordF) (wide : Bool) (val : State → Iss → Lane → Nat) (s : State) :
    Host.Outcome State Fault Refusal :=
  runWord x f.guard noWait noBad (consuming x (fun s i w => writeDst w i.l f.dst wide (val s i))) s

end Sys2Proof.Machine
end

