-- ==== Sys2Proof/Machine/Fetch.lean ====
section
/-! DEFINITION. Instruction fetch (R154, R208, R213, R224) and how a warp's accesses are named in fault records. -/

namespace Sys2Proof.Machine

open Sys2Proof

/-- A warp's accesses are made in supervisor mode (R224, R376). -/
def supMode (pl : Nat) (w : Warp) : Bool := isLodge pl || w.svclane.isSome

/-- How a fault record names a warp's access. -/
def faulterOf (pl : Nat) (w : Warp) : Faulter := ⟨w.part, w.ctx, placeCore pl, placeTrack pl, supMode pl w⟩

/-- What a fetch gives. -/
inductive Fetched where
  | word (x : Dword)
  | park (c : ParkCause)
  /-- a precise trap: CODE, DETAIL, OPND -/
  | trap (code detail opnd : Nat)
  deriving DecidableEq, Repr

/-- Where a core's instruction cache holds the word at a physical address under a key slot: a word is kept as one rule of R427
reads it, and serves no fetch under another (R429). -/
def icacheKey (slot : Option Nat) (pa : Nat) : Nat :=
  pa + 2 ^ 50 * (match slot with
    | some k => k + 1
    | none => 0)

/-- Reads the word of a fetch from memory: an uncounted lookup, charged to the partition (R154, R220, R286, R442). -/
def fetchWord (s : State) (p ctx va leaf : Nat) (key : Option Nat) (pa : Nat) : State × Dword :=
  let s := engineLookups s p ctx (some va) leaf pa 8 false
  let (s, b, _) := physReadN s none key 9 pa 8
  (s, BitVec.ofNat 64 (natOfBytes b))

/-- The core's instruction cache serves a fetch: it holds the word, or an older one that it still may serve (R213). -/
def icacheServes (s : State) (core : Nat) (slot : Option Nat) (pa : Nat) : State × Option Dword :=
  match (if core ≥ 72 then none else FMap.get? (coreSt s core).icache (icacheKey slot pa)) with
  | none => (s, none)
  | some old =>
    if old = wordAt s (slot.map (slotKey s)) pa then (s, some old)
    else
      let (s, n) := takeFree s
      (s, if Config.icacheServes n then some old else none)

/-- The word that a fetch of a physical address gives: the instruction cache's, with no access made, or what memory holds, which the
cache then keeps (R213). -/
def fetchMem (s : State) (p ctx va leaf core : Nat) (slot : Option Nat) (pa : Nat) : State × Dword :=
  match icacheServes s core slot pa with
  | (s, some x) => (s, x)
  | (s, none) =>
    let (s, x) := fetchWord s p ctx va leaf (slot.map (slotKey s)) pa
    if core ≥ 72 then (s, x)
    else (modCore s core (fun c => { c with icache := FMap.ins c.icache (icacheKey slot pa) x }), x)

/-- Fetches the word at a virtual address for a warp (R154); a line that a host holds exclusive is snooped first (R441). -/
def fetchAt (s : State) (pl : Nat) (w : Warp) (va : Dword) : State × Fetched :=
  if va.toNat / 2 ^ 57 ≠ 0 then (s, .trap 6 8 0)
  else
    let f := faulterOf pl w
    let (s, x) := translate s w.part w.ctx f.core f.sup .fetch va.toNat
    match x with
    | .ok pa e =>
      match snoopSpan s e false pa 8 with
      | some ln => (sendSnoop s ln false, .park (.snoop ln))
      | none =>
        let (s, d) := fetchMem s w.part w.ctx va.toNat e f.core (if pteHome e then none else ctxSlot s w.ctx) pa
        (s, .word d)
    | .lost k c => (s, .trap 0xA (c * 256 + k) 5)
    | .fail k _ _ =>
      if isLodge pl then (s, .trap 6 k 0)
      else
        let (s, c) := parkCause s f .fetch (va.toNat / 4096) x
        (s, match c with
          | some c => .park c
          | none => .trap 6 k 0)
    | .miss =>
      if isLodge pl then (s, .trap 6 7 0)
      else
        let (s, c) := parkCause s f .fetch (va.toNat / 4096) x
        (s, match c with
          | some c => .park c
          | none => .trap 6 7 0)

/-- The denial that a fetch by lanes of a mask meets (R226). -/
def fetchDenied (w : Warp) (m : Mask) (pc : Dword) : Option Denied :=
  w.denied.find? (fun d => d.fetch && d.pc == pc && d.mask &&& m != 0#32)

/-- The PC of the lowest lane of a mask. -/
def pcOf (w : Warp) (m : Mask) : Dword := w.pc[m.low?.getD 0]

/-- Parks lanes on a cause: the lanes of one word that join one cause stand in one park, so that a denial names them all (R226). -/
def parkLanes (w : Warp) (c : ParkCause) (m : Mask) (fetch : Bool) : Warp :=
  let joins (x : Park) : Bool := x.cause == c && x.fetch == fetch && pcOf w x.mask == pcOf w m
  if w.parks.any joins then
    { w with parks := w.parks.map (fun x => if joins x then { x with mask := x.mask ||| m } else x) }
  else { w with parks := w.parks ++ [⟨c, m, fetch⟩] }

/-- The word length, in bytes, of the word at an address inside a word's own execution, as LOOP and LBRK read it (R155,
R158): the length, a park, or a trap. -/
inductive LenAt where
  | ok (bytes : Nat)
  | park (c : ParkCause)
  | trap (t : Trap)
  deriving DecidableEq, Repr

/-- Reads the length of the word at an address as an instruction fetch (R155). -/
def lengthAt (s : State) (i : Iss) (va : Dword) : State × LenAt :=
  match fetchDenied i.w i.a i.pc with
  | some d => (s, .trap ⟨6, d.kind, 0, false, d.mask &&& i.a, []⟩)
  | none =>
    match fetchAt s i.place i.w va with
    | (s, .word x) => (s, .ok (8 * wordLength x))
    | (s, .park c) => (s, .park c)
    | (s, .trap c d o) => (s, .trap ⟨c, d, o, false, i.a, []⟩)

end Sys2Proof.Machine
end

