-- ==== Sys2Proof/Machine/UserInt.lean ====
section
/-! DEFINITION. User-level interrupts (R385 to R403): the context's block, sends and their acceptance, Notify, takes, and UISEND,
UIWAIT and UIRET; with what Chairlift does to link a record (R346, R347) and sessions with peers (R444, R445, R449). -/

namespace Sys2Proof.Machine

open Sys2Proof

/-! Linking records. -/

/-- A dropped record's Cairn event (R345). -/
def badRec (s : State) (p addr : Nat) : State := cairnWrite s originChairlift 0x0020 p addr 0

/-- Reads a record at a physical address under a key, and whether a byte of it is poisoned. -/
def readRecord (s : State) (owner key : Option Nat) (pa : Nat) : State × Rec × Bool :=
  let s := match owner with
    | some p => engineLookups s p 0 none 0 pa 128 false
    | none => s
  let (s, b, m) := physReadN s owner key 129 pa 128
  (s, BitVec.ofNat 1024 (natOfBytes b), (m.findSome? id).isSome)

/-- What Chairlift writes into a record it links: SEQ, and LINK, whose contents are open (R346, R347). -/
def writeLink (s : State) (owner key : Option Nat) (pa seq : Nat) : State :=
  let (s, n) := takeFree s
  let s := physStores s owner key [⟨pa + 24, bytesOfNat 8 seq, none⟩]
  physStores s owner key [⟨pa + 96, bytesOfNat 8 (Config.link n).toNat, none⟩]

/-- Links a record: it becomes a candidate in the chain of a priority (R346). -/
def linkRecord (s : State) (p addr : Nat) (r : Rec) (seq prio : Nat) (landing : Option (Nat × Nat)) : State :=
  addLaunch s ⟨p, rCtx r, addr, none, rset r 192 64 seq, seq, prio, rIlo r, rIlo r + rIcnt r, 0, none, rSave r, false, 0,
    landing, [], false, none⟩

/-! The block of a context (R385 to R388). -/

/-- Pending vectors that are not masked. -/
def uiDeliverable (s : State) (p c : Nat) : Nat := uibWord s p c 8 &&& not64 (uibWord s p c 0x10)

/-- Where a send comes from, as it orders sends (R2, R392): an agent of the device by its origin, a session, or a requester in a
host's system by the origin it carries. -/
inductive SendOrigin where
  | agent (origin : Nat)
  | session (part sess : Nat)
  | host (origin : Nat)
  deriving DecidableEq, Repr

/-- A sender's identity (R391): KIND, device, partition, context; and the send's origin with its sequence number there (R2). -/
structure Sender where
  kind : Nat
  dev : Nat
  part : Nat
  ctx : Nat
  origin : SendOrigin
  oseq : Nat
  deriving DecidableEq, Repr

/-- A PERM entry matches a sender (R388). -/
def permMatch (e : Nat) (id : Sender) : Bool :=
  bits e 63 1 == 1 && bits e 48 12 == 0 && bits e 12 20 == 0 && bits e 60 2 == id.kind && bits e 60 2 != 3 &&
    bits e 36 12 == id.dev && bits e 32 4 == id.part &&
    (decide (id.kind = 1 ∨ id.kind = 2) || bits e 62 1 == 1 || bits e 0 12 == id.ctx)

/-- A send of a vector is permitted (R388). -/
def uiPermitted (s : State) (p c v : Nat) (id : Sender) : Bool :=
  (id.kind == 0 && id.dev == devNum s && id.ctx == c) ||
    (match (List.range 256).find? (fun i => permMatch (uibWord s p c (0x400 + 16 * i)) id) with
      | some i => (uibWord s p c (0x408 + 16 * i)).testBit v
      | none => false)

/-- Notify (R394, R396): a group that waits at UIWAIT looks again; a claim that is saved, or is being saved, rises in priority; WAKE
is linked. -/
def uiNotify (s : State) (p c : Nat) : State :=
  let ctl := uibWord s p c 0
  let prio := min (ctxField s p c 56 3 + 1) 7
  if bits ctl 63 1 = 1 then
    if bits ctl 62 1 = 1 then
      { s with warps := s.warps.map (fun e =>
          if e.2.ctx = c ∧ claimNames s e.1 e.2 then
            (e.1, { e.2 with waits := e.2.waits.map (fun x => if x.kind = .uiwait then { x with done := x.mask } else x) })
          else e) }
    else
      { s with
        launches := s.launches.map (fun e => if e.2.ctx = c ∧ e.2.claim then (e.1, { e.2 with prio := max e.2.prio prio }) else e)
        wgs := s.wgs.map (fun e =>
          if e.2.ctx = c ∧ (wgWarps s e.1).any (fun w => w.2.claim) then (e.1, { e.2 with raised := max e.2.raised prio }) else e) }
  else if bits ctl 61 1 = 1 then
    let s := uibSet s p c 0 (setBits ctl 61 1 0)
    let a := uibAddr s p c + 0x280
    let (s, r, _) := readRecord s (some p) none a
    if rHwake r && rCtx r == c && !malformed s p r then
      let (s, n) := nextSeqOf s p
      let s := writeLink s (some p) none a n
      linkRecord s p a (rset r 688 3 prio) n prio none
    else badRec s p a
  else s

/-- Vectors of a context with a host's or a peer's send that no delivery has collected (R253). -/
def uiSys (s : State) (c : Nat) : Nat := FMap.getD s.uisys c 0

/-- A sender that is no thread of this device (R253, R391). -/
def outsideSender (s : State) (id : Sender) : Bool := id.kind == 2 || id.dev != devNum s

/-- Notes whether an accepted send comes from outside the device. -/
def noteSender (s : State) (c v : Nat) (id : Sender) : State :=
  if outsideSender s id then { s with uisys := FMap.ins s.uisys c (uiSys s c ||| 2 ^ v) } else s

/-- Accept (R390): a send of vector v with payload x reaches context c. -/
def uiAccept (s : State) (c : Nat) (id : Sender) (vec x : Nat) : State :=
  let v := vec % 64
  match partOfCtx s c with
  | none => s
  | some p =>
    let s := uibAccess (blockAccess s p (ctxAddr s p c)) p c 0
    if !ctxValid s p c || uibAddr s p c == 0 then s
    else if !uiPermitted s p c v id then
      let d := uibWord s p c 0x28
      uibSet s p c 0x28 (setBits (satAdd 0 32 1 d) 32 6 v)
    else
      let s := noteSender s c v id
      let mode := bits (uibWord s p c (0x30 + v / 32 * 8)) (2 * (v % 32)) 2
      let pay := uibWord s p c (0x80 + 8 * v)
      let s := uibSet s p c (0x80 + 8 * v)
        (if mode = 0 then pay ||| x else if mode = 1 then (pay + x) % 2 ^ 64 else x)
      let s := uibSet s p c (0x40 + v / 8 * 8) (satAdd (8 * (v % 8)) 8 1 (uibWord s p c (0x40 + v / 8 * 8)))
      let ctl := uibWord s p c 0
      let pend := uibWord s p c 8
      let s := if pend.testBit v then s
        else
          let s := uibSet s p c 8 (pend ||| 2 ^ v)
          uibSet s p c (0x300 + v / 2 * 8) (setBits (uibWord s p c (0x300 + v / 2 * 8)) (32 * (v % 2)) 32 (bits ctl 0 32))
      let s := uibSet s p c 0 (setBits ctl 0 32 (bits ctl 0 32 + 1))
      if (uibWord s p c 0x10).testBit v then s else uiNotify s p c

/-- Clears a pending vector with its payload and count. -/
def uiClear (s : State) (p c v : Nat) : State :=
  let s := if (uiSys s c).testBit v then { s with uisys := FMap.ins s.uisys c (uiSys s c &&& not64 (2 ^ v)) } else s
  let s := uibSet s p c 8 (uibWord s p c 8 &&& not64 (2 ^ v))
  let s := uibSet s p c (0x80 + 8 * v) 0
  uibSet s p c (0x40 + v / 8 * 8) (setBits (uibWord s p c (0x40 + v / 8 * 8)) (8 * (v % 8)) 8 0)

/-- The pending unmasked vector accepted first: the largest (ACNT − ASEQ) mod 2^32 (R394). -/
def uiFirst (s : State) (p c : Nat) : Option Nat :=
  let m := uiDeliverable s p c
  let acnt := bits (uibWord s p c 0) 0 32
  let age (v : Nat) : Nat := (acnt + 2 ^ 32 - bits (uibWord s p c (0x300 + v / 2 * 8)) (32 * (v % 2)) 32) % 2 ^ 32
  ((List.range 64).filter (fun v => m.testBit v)).foldl (fun b v =>
    match b with
    | none => some v
    | some u => if age v > age u then some v else some u) none

/-- Take (R394): TAKEN and TPAY; gives TCOUNT. -/
def uiTake (s : State) (p c v : Nat) : State × Nat :=
  let n := bits (uibWord s p c (0x40 + v / 8 * 8)) (8 * (v % 8)) 8
  let s := uibSet s p c 0x18 (2 ^ 63 + n * 256 + v)
  let s := uibSet s p c 0x20 (uibWord s p c (0x80 + 8 * v))
  (uiClear s p c v, n)

/-- A delivery acquires: the core's L1 is invalidated; where it collects a send from outside the device, it is an acquire in the
system instance (R212, R253, R403, R442). -/
def uiDelivered (s : State) (pl p : Nat) (sys : Bool) : State :=
  let s := if isLodge pl then s else l1Clear s (placeCore pl)
  if sys then sysAcquire s p else s

/-- A write of UIMASK (R396, R397). -/
def uiMaskWrite (s : State) (p c x : Nat) : State :=
  if uibAddr s p c = 0 then s
  else
    let s := uibSet s p c 0x10 x
    if uiDeliverable s p c = 0 then s else uiNotify s p c

/-- A write of UIPEND clears the vectors it names (R397). -/
def uiPendWrite (s : State) (p c x : Nat) : State :=
  ((List.range 64).filter (fun v => x.testBit v)).foldl (fun s v => uiClear s p c v) s

/-! Sessions and fabric messages (R444, R445, R449). -/

/-- Word k of session entry i. -/
def sessWord (p : Part) (i k : Nat) : Nat := ctlWord p (0x2000 + 64 * i + 8 * k)
/-- V. -/
def sessV (p : Part) (i : Nat) : Bool := (sessWord p i 1).testBit 63
/-- TX. -/
def sessTx (p : Part) (i : Nat) : Bool := (sessWord p i 1).testBit 62
/-- RX. -/
def sessRx (p : Part) (i : Nat) : Bool := (sessWord p i 1).testBit 61
/-- ANYCTX. -/
def sessAny (p : Part) (i : Nat) : Bool := (sessWord p i 1).testBit 60
/-- CTX. -/
def sessCtx (p : Part) (i : Nat) : Nat := bits (sessWord p i 1) 48 12
/-- LSLOTS. -/
def sessSlots (p : Part) (i : Nat) : Nat := bits (sessWord p i 1) 42 6
/-- KEYSLOT. -/
def sessKey (p : Part) (i : Nat) : Nat := bits (sessWord p i 1) 36 6
/-- PEERDEV. -/
def sessPeerDev (p : Part) (i : Nat) : Nat := bits (sessWord p i 1) 20 12
/-- PEERSESS. -/
def sessPeer (p : Part) (i : Nat) : Nat := bits (sessWord p i 1) 14 6
/-- PORT. -/
def sessPort (p : Part) (i : Nat) : Nat := bits (sessWord p i 1) 11 3

/-- BODY of a UINT or a TASK message (R445). -/
def messageBody (task : Bool) (m : Message) : List Byte :=
  if task then bytesOfNat 128 m.record.toNat ++ m.args
  else bytesOfNat 8 m.payload.toNat ++ bytesOfNat 2 (m.vector % 64) ++ bytesOfNat 2 (m.target % 4096) ++ bytesOfNat 4 0

/-- The bytes of a message before its tag (R445). -/
def messageHead (task : Bool) (m : Message) : List Byte :=
  let body := messageBody task m
  bytesOfNat 8 ((if task then 2 else 1) + 2 ^ 8 + body.length % 65536 * 2 ^ 16) ++ bytesOfNat 8 m.oseq ++
    bytesOfNat 8 (m.srcCtx % 4096 + m.srcPart % 16 * 2 ^ 12 + m.srcDev % 4096 * 2 ^ 16 + m.srcSess % 64 * 2 ^ 28) ++
    bytesOfNat 8 (m.dstDev % 4096 + m.dstPart % 16 * 2 ^ 12) ++ body

/-- The tag of a message under a session key (R445). -/
def messageTag (key : Nat) (task : Bool) (m : Message) : BitVec 256 := Config.hmac key (messageHead task m)

/-- The payload of a message (R445). -/
def messageBytes (task : Bool) (m : Message) : List Byte := messageHead task m ++ bytesOfNat 32 m.tag.toNat

/-- Bytes in pieces of at most n, n not 0. -/
def pieces (n : Nat) : Nat → List Byte → List (List Byte)
  | 0, l => [l]
  | f + 1, l => if l.length ≤ n then [l] else l.take n :: pieces n f (l.drop n)

/-- The consecutive PCIe messages that carry a message (R445). -/
def messagePieces (l : List Byte) : List (List Byte) := pieces (max 1 Config.pcieBytes) l.length l

/-- Sends a message under a session: TXSEQ rises and is its OSEQ, and its tag is made under the session key (R445). -/
def fabricSend (s : State) (p i : Nat) (task : Bool) (ctx : Nat) (f : Message → Message) : State :=
  let n := (sessWord (part s p) i 7 + 1) % 2 ^ 64
  let s := modPart s p (fun q => ctlSet q (0x2000 + 64 * i + 56) n)
  let q := part s p
  let m : Message := f ⟨n, ctx, p, devNum s, i, sessPeerDev q i, bits (sessWord q i 1) 32 4, 0, 0, 0, 0, 0, []⟩
  let m := { m with tag := messageTag (slotKey s (sessKey q i)) task m }
  { s with outbox := s.outbox ++ [.fabric (sessPort q i) (sessPeer q i) n (messagePieces (messageBytes task m))] }

/-- A remote UISEND: a UINT message under the lowest session to the device; dropped without one (R449). It is a release at .SYS
(R253, R442). -/
def uiSendRemote (s : State) (p ctx dev target vec x : Nat) : State :=
  let q := part s p
  match (List.range 64).find? (fun i => sessV q i && sessTx q i && sessPeerDev q i == dev) with
  | none => s
  | some i =>
    if (port s (sessPort q i)).lost then s
    else fabricSend (sysRelease s p) p i false ctx (fun m => { m with payload := BitVec.ofNat 64 x, vector := vec % 64, target := target })

/-- A send by UISEND from a warp (R391, R399): it takes the next number of the warp's origin (R2, R392). -/
def uiSend (s : State) (pl : Nat) (w : Warp) (target vec x : Nat) : State :=
  let ctx := target % 4096
  if target.testBit 28 then uiSendRemote s w.part w.ctx (bits target 16 12) ctx vec x
  else
    let (s, n) := nextOseq s (originOfPlace pl)
    uiAccept s ctx ⟨if isLodge pl then 1 else 0, devNum s, w.part, w.ctx, .agent (originOfPlace pl), n⟩ vec x

/-! The three instructions (R398 to R402). -/

/-- Some active lane's guard holds, for an instruction that runs as a uniform operation (R87). -/
def Iss.acts (i : Iss) : Bool := i.l != 0#32

/-- UISEND (R399). -/
def execUisend (f : WordF) (s : State) : Host.Outcome State Fault Refusal :=
  runWord (.uisend f) f.guard noWait noBad (fun s i =>
    match poisonTrap i (sourcesOf (.uisend f)) with
    | some t => .trap t
    | none =>
      if !i.acts then .retire s
      else .retire (uiSend s i.place i.w (uniVal s i (.int 32) f.a) (uniVal s i (.int 32) f.b) (uniVal s i (.int 64) f.c))) s

/-- Every lane of a mask stands in a wait of a kind. -/
def inWait (w : Warp) (k : WaitKind) (m : Mask) : Bool := w.waits.any (fun x => x.kind == k && Mask.sub m x.mask)

/-- Ends the waits of lanes. -/
def endWaits (w : Warp) (m : Mask) : Warp := { w with waits := w.waits.filter (fun x => x.mask &&& m == 0#32) }

/-- Lanes enter a wait. -/
def enterWait (w : Warp) (k : WaitKind) (m done : Mask) (x : Instr) : Warp :=
  let w := endWaits w m
  { w with waits := w.waits ++ [⟨k, m, done, x⟩] }

/-- The group that waits at a UIWAIT: its lanes, and those that have reached its PC since (R172, R394). -/
def uiGroup (w : Warp) (x : Wait) : Mask :=
  x.mask ||| (match x.mask.low? with
    | some l => lanesAt w (eligible w) w.pc[l]
    | none => 0#32)

/-- A group that waits at UIWAIT and has not been notified (R400). -/
def uiWaiting (i : Iss) : Bool := i.w.waits.any (fun x => x.kind == .uiwait && x.mask &&& i.a != 0#32 && x.done == 0#32)

/-- The handler claim (R393): the block names the warp's place. -/
def uiClaim (s : State) (pl : Nat) (w : Warp) : State :=
  let ctl := uibWord s w.part w.ctx 0
  let loc := 2 ^ 63 + 2 ^ 62 + bits ctl 61 1 * 2 ^ 61 + placeCore pl * 2 ^ 48 + placeTrack pl * 2 ^ 45 +
    placeSlot pl * 2 ^ 41 + bits ctl 0 32
  uibSet s w.part w.ctx 0 loc

/-- UIWAIT as its rule states (R400). -/
def uiWaitEffect (f : WordF) (s : State) (i : Iss) : Res :=
  let done (s : State) (st : Nat) : Res :=
    .retire (modWarp s i.place (fun w => writeDst (endWaits w i.a) i.l f.dst false (fun _ => st)))
  if !i.acts then .retire (modWarp s i.place (fun w => endWaits w i.a))
  else
  let s := uibAccess s i.w.part i.w.ctx 0
  if uibAddr s i.w.part i.w.ctx = 0 then done s 0x03000000
  else if bits (uibWord s i.w.part i.w.ctx 0) 63 1 = 1 ∧ !claimNames s i.place i.w then done s 0x02000000
  else
    let s := if bits (uibWord s i.w.part i.w.ctx 0) 63 1 = 1 then s else uiClaim s i.place i.w
    match uiFirst s i.w.part i.w.ctx with
    | some v =>
      let sys := (uiSys s i.w.ctx).testBit v
      let (s, n) := uiTake s i.w.part i.w.ctx v
      done (uiDelivered s i.place i.w.part sys) (n * 256 + v)
    | none =>
      if f.mod.getLsbD 0 then done s 0x01000000
      else .hold s (fun w => enterWait w .uiwait i.a 0#32 (.uiwait f))

/-- UIWAIT is ILLEGAL on the Lodge (R402). -/
def uiWaitBad (_ : State) (i : Iss) : Option Nat := if isLodge i.place then some 0x36 else none

/-- UIWAIT (R400). -/
def execUiwait (f : WordF) (s : State) : Host.Outcome State Fault Refusal :=
  runWord (.uiwait f) f.guard (fun _ i => uiWaiting i) uiWaitBad (uiWaitEffect f) s

/-- UIRET waits for every lane of uentry (R401). -/
def uiRetWait (_ : State) (i : Iss) : Bool := i.w.uiin && !i.w.intrap && !Mask.sub i.w.uentry i.a

/-- UIRET's ILLEGAL conditions (R402). -/
def uiRetBad (_ : State) (i : Iss) : Option Nat :=
  if isLodge i.place then some 0x36 else if !i.w.uiin then some 0x34 else if i.w.intrap then some 0x35 else none

/-- The return from an interrupt: every lane of uentry takes UIEPC.EPC and IN := 0 (R401). -/
def uiLeave (w : Warp) : Warp := { jump w w.uentry (fun _ => w.uiepc) with uiin := false, uentry := 0#32 }

/-- UIRET (R401). -/
def execUiret (f : WordF) (s : State) : Host.Outcome State Fault Refusal :=
  runWord (.uiret f) f.guard uiRetWait uiRetBad (fun s i =>
    if i.acts then .moved (modWarp s i.place uiLeave) else .retire s) s

end Sys2Proof.Machine
end

