-- ==== Sys2Proof/Machine/Control.lean ====
section
/-! DEFINITION. Group 0x5: branches, calls, hardware loops, EXIT, traps and control registers (R150 to R167). -/

namespace Sys2Proof.Machine

open Sys2Proof

/-! ILLEGAL from the warp's state (R152, R379), lowest DETAIL first. -/

/-- The first condition that holds, of a list of conditions and DETAIL values. -/
def firstBad : List (Bool × Nat) → Option Nat
  | [] => none
  | (true, d) :: _ => some d
  | (false, _) :: t => firstBad t

/-- At the LEND of an active level only NOP and MOVX of group 0x5 may stand. -/
def lendBad (_ : State) (i : Iss) : Option Nat := firstBad [(atLend i, 0x14)]

/-- EXIT's conditions. -/
def exitBad (_ : State) (i : Iss) : Option Nat :=
  firstBad [(atLend i, 0x14), (supMode i.place i.w, 0x32)]

/-! Branches, calls and returns (R153). -/

/-- The target PC + 8 × DISP (R82). -/
def dispTarget (i : Iss) (b : WordB) : Dword := i.pc + 8 * b.disp.signExtend 64

/-- The address of the next word. -/
def Iss.next (i : Iss) : Dword := i.pc + BitVec.ofNat 64 (8 * i.len)

/-- A target that is not a multiple of 8. -/
def misTarget (t : Dword) : Bool := t.toNat % 8 != 0

/-- The return register that BMOD<12:5> names. -/
def retReg8 (b : WordB) : Nat := bits b.bmod.toNat 5 8

/-- TransferTo (R153): `t` gives each lane's target, `ret` the return register of a call. -/
def transfer (x : Instr) (ret : Option Nat) (t : State → Iss → Lane → Dword) (s : State) (i : Iss) : Res :=
  match poisonTrap i (sourcesOf x) with
  | some tr => .trap tr
  | none =>
    let bad := Mask.ofFn (fun l => i.l.has l && misTarget (t s i l))
    if bad != 0#32 then .trap ⟨5, 0, 1, false, bad, []⟩
    else
      .moved (modWarp s i.place (fun w =>
        let w := match ret with
          | some r =>
            let w := vWrite w r i.l (fun _ => Val.clean (i.next.setWidth 32))
            vWrite w (r + 1) i.l (fun _ => Val.clean ((i.next >>> 32).setWidth 32))
          | none => w
        jump w i.a (fun l => if i.l.has l then t s i l else i.next)))

/-- The 64-bit target in CT. -/
def ctTarget (b : WordB) (s : State) (i : Iss) (l : Lane) : Dword := BitVec.ofNat 64 (srcVal s i (.int 64) b.ct l)

/-- BRA (R153). -/
def execBra (b : WordB) (s : State) : Host.Outcome State Fault Refusal :=
  runWord (.bra b) b.guard noWait lendBad (transfer (.bra b) none (fun _ i _ => dispTarget i b)) s

/-- BRX (R153). -/
def execBrx (b : WordB) (s : State) : Host.Outcome State Fault Refusal :=
  runWord (.brx b) b.guard noWait lendBad (transfer (.brx b) none (ctTarget b)) s

/-- CALL (R153). -/
def execCall (b : WordB) (s : State) : Host.Outcome State Fault Refusal :=
  runWord (.call b) b.guard noWait lendBad (transfer (.call b) (some (retReg8 b)) (fun _ i _ => dispTarget i b)) s

/-- CALLX (R153). -/
def execCallx (b : WordB) (s : State) : Host.Outcome State Fault Refusal :=
  runWord (.callx b) b.guard noWait lendBad (transfer (.callx b) (some (retReg8 b)) (ctTarget b)) s

/-- RET (R153). -/
def execRet (b : WordB) (s : State) : Host.Outcome State Fault Refusal :=
  runWord (.ret b) b.guard noWait lendBad (transfer (.ret b) none (ctTarget b)) s

/-! Hardware loops (R155 to R158). -/

/-- LOOP's ILLEGAL conditions (R152). -/
def loopBad (b : WordB) (_ : State) (i : Iss) : Option Nat :=
  firstBad [(i.w.loops.length == 4, 0x11),
    (decide (b.disp.toInt < (i.len : Int)) ||
      (match innermost i.w with
        | some v => decide (v.last.toNat ≤ (dispTarget i b).toNat)
        | none => false), 0x12),
    (atLend i, 0x14), (i.w.intrap, 0x16)]

/-- What a LOOP or LBRK does once it knows the length of the last body word (R155). -/
def withLength (s : State) (i : Iss) (va : Dword) (k : State → Nat → Res) : Res :=
  match lengthAt s i va with
  | (s, .ok n) => k s n
  | (s, .park c) => .hold s (fun w => parkLanes w c i.a true)
  | (_, .trap t) => .trap t

/-- LOOP (R155). -/
def execLoop (b : WordB) (s : State) : Host.Outcome State Fault Refusal :=
  runWord (.loop b) b.guard noWait (loopBad b) (fun s i =>
    match poisonTrap i (sourcesOf (.loop b)) with
    | some t => .trap t
    | none =>
      let last := dispTarget i b
      let k := uniVal s i (.int 32) b.ct
      if i.l = 0#32 then .retire s
      else if k = 0 then
        withLength s i last (fun s n => .moved (modWarp s i.place (fun w =>
          jump w i.a (fun l => if i.l.has l then last + BitVec.ofNat 64 n else i.next))))
      else .retire (modWarp s i.place (fun w => { w with loops := w.loops ++ [⟨i.next, last, BitVec.ofNat 32 k, i.l⟩] }))) s

/-- Levels that LBRK leaves. -/
def lbrkLevels (b : WordB) : Nat := b.bmod.toNat % 4 + 1

/-- LBRK's ILLEGAL conditions (R152). -/
def lbrkBad (b : WordB) (_ : State) (i : Iss) : Option Nat :=
  firstBad [(decide (i.w.loops.length < lbrkLevels b), 0x13), (atLend i, 0x14), (i.w.intrap, 0x16)]

/-- LBRK (R158). -/
def execLbrk (b : WordB) (s : State) : Host.Outcome State Fault Refusal :=
  runWord (.lbrk b) b.guard noWait (lbrkBad b) (fun s i =>
    if i.l = 0#32 then .retire s
    else
      match i.w.loops[i.w.loops.length - lbrkLevels b]? with
      | none => .retire s
      | some v =>
        withLength s i v.last (fun s n => .moved (modWarp s i.place (fun w =>
          jump (leaveLevels w (lbrkLevels b) i.l) i.a (fun l =>
            if i.l.has l then v.last + BitVec.ofNat 64 n else i.next))))) s

/-- ISSUE_AT_LEND (R156): the back-edge that follows the word at LEND; nothing where no issue is in progress. -/
def execIssueAtLend (s : State) : Host.Outcome State Fault Refusal :=
  match s.cur with
  | none => .next s
  | some c => .next (endIssue (modWarp s c.place (backEdge c.pc)))

/-! Ending threads (R160, R161). -/

/-- EXIT (R160). The warp itself ends in a step of its own. -/
def execExit (f : WordF) (s : State) : Host.Outcome State Fault Refusal :=
  runWord (.exit f) f.guard noWait exitBad (fun s i =>
    .moved (barCheck (modWarp s i.place (fun w =>
      exitLanes (advance w (i.a &&& ~~~i.l) (8 * i.len)) i.l)) i.w.wg)) s

/-- NOP (R161). -/
def execNop (f : WordF) (s : State) : Host.Outcome State Fault Refusal :=
  runWord (.nop f) f.guard noWait noBad (fun s _ => .retire s) s

/-! Thread traps (R162 to R166). -/

/-- TRAP and BKPT (R164). -/
def userTrap (x : Instr) (f : WordF) (code : Nat) (s : State) (i : Iss) : Res :=
  if i.l = 0#32 then .retire s
  else
    match poisonTrap i (sourcesOf x) with
    | some t => .trap t
    | none => .trap ⟨code, uniVal s i (.int 32) f.a % 65536, 0, false, i.l, []⟩

/-- TRAP (R164). -/
def execTrap (f : WordF) (s : State) : Host.Outcome State Fault Refusal :=
  runWord (.trap f) f.guard noWait lendBad (userTrap (.trap f) f 7) s

/-- BKPT (R164). -/
def execBkpt (f : WordF) (s : State) : Host.Outcome State Fault Refusal :=
  runWord (.bkpt f) f.guard noWait lendBad (userTrap (.bkpt f) f 0xB) s

/-- TRET waits for every lane of the entry mask (R163). -/
def tretWait (_ : State) (i : Iss) : Bool := i.w.intrap && i.w.svclane.isNone && !Mask.sub i.w.tmask i.a

/-- TRET's ILLEGAL conditions (R152, R379). -/
def tretBad (_ : State) (i : Iss) : Option Nat :=
  firstBad [(atLend i, 0x14), (supMode i.place i.w, 0x32), (!i.w.intrap, 0x15)]

/-- TRET (R163). -/
def execTret (f : WordF) (s : State) : Host.Outcome State Fault Refusal :=
  runWord (.tret f) f.guard tretWait tretBad (fun s i =>
    if i.l = 0#32 then .retire s
    else if misTarget i.w.trappc then .trap ⟨5, 0, 0, false, i.l, []⟩
    else .moved (modWarp s i.place leaveHandler)) s

/-- ILLEG (R166). -/
def execIlleg (low : BitVec 52) (s : State) : Host.Outcome State Fault Refusal :=
  runWord (.illeg low) Guard.always noWait noBad (fun _ i => .trap (issueTrap i 1 0 0 false)) s

/-! Control registers (R15 to R22, R167, R318, R397). -/

/-- WCTL as a read returns it (R18). -/
def wctl (w : Warp) : Nat :=
  w.loops.length * 65536 + (if w.deferred = 0#256 then 0 else 512) + (if w.intrap then 256 else 0) + (if w.stale then 1 else 0)

/-- A loop level's register; zero for a level that is not active (R22). -/
def levelVal (w : Warp) (n : Nat) (f : LoopLevel → Nat) : Nat := ((w.loops[n]?).map f).getD 0

/-- The value of a control register. -/
def ctlRead (s : State) (w : Warp) (idx : Nat) : Nat :=
  if idx = 0x00 then fpcsr w
  else if idx = 0x01 then wctl w
  else if idx = 0x04 then w.xrec.epc.toNat
  else if idx = 0x05 then w.xrec.elanes.toNat
  else if idx = 0x06 then xrec2 w
  else if idx = 0x07 then xrec3 w
  else if idx = 0x08 then w.trapvec.toNat
  else if idx = 0x09 then w.trappc.toNat
  else if idx = 0x0A then w.trapcause.toNat
  else if idx = 0x10 then uibWord s w.part w.ctx 0x10
  else if idx = 0x11 then uibWord s w.part w.ctx 8
  else if idx = 0x12 then w.uivec.toNat
  else if idx = 0x13 then w.uiepc.toNat + (if w.uiin then 1 else 0)
  else if idx = 0x20 then w.refage.toNat
  else if idx = 0x21 then (part s w.part).l2hit.toNat
  else if idx = 0x22 then (part s w.part).l2miss.toNat
  else if h : 0x18 ≤ idx ∧ idx < 0x20 then (w.tcfg[idx - 0x18]'(by omega)).toNat
  else if idx < 0x30 then 0
  else if idx < 0x34 then levelVal w (idx - 0x30) (fun v => v.start.toNat)
  else if idx < 0x38 then levelVal w (idx - 0x34) (fun v => v.last.toNat)
  else if idx < 0x3C then levelVal w (idx - 0x38) (fun v => v.count.toNat)
  else levelVal w (idx - 0x3C) (fun v => v.lanes.toNat)

/-- The low n bits of an address cleared. -/
def clearLow (x n : Nat) : Dword := BitVec.ofNat 64 (x / 2 ^ n * 2 ^ n)

/-- A write of a control register (R7, R16 to R21, R318, R397). -/
def ctlRegWrite (s : State) (pl : Nat) (w : Warp) (idx x : Nat) : State :=
  if idx = 0x00 then modWarp s pl (fun w => setFpcsr w x)
  else if idx = 0x01 then modWarp s pl (fun w => { w with stale := x.testBit 0 })
  else if idx = 0x06 then modWarp s pl (fun w => setXrec2 w x)
  else if idx = 0x08 then modWarp s pl (fun w => { w with trapvec := clearLow x 3 })
  else if idx = 0x09 then modWarp s pl (fun w => { w with trappc := BitVec.ofNat 64 x })
  else if idx = 0x10 then uiMaskWrite s w.part w.ctx x
  else if idx = 0x11 then uiPendWrite s w.part w.ctx x
  else if idx = 0x12 then modWarp s pl (fun w => { w with uivec := clearLow x 3 })
  else if idx = 0x13 then modWarp s pl (fun w => { w with uiepc := clearLow x 3 })
  else if idx = 0x20 then modWarp s pl (fun w => { w with refage := BitVec.ofNat 16 (max 16 (x % 65536)) })
  else if h : 0x18 ≤ idx ∧ idx < 0x20 then
    modWarp s pl (fun w => { w with tcfg := w.tcfg.set (idx - 0x18) (BitVec.ofNat 32 (x &&& 0xFCFFFFFF)) (by omega) })
  else s

/-- The access is 64 bits wide. -/
def movxWide (f : WordF) : Bool := f.mod.getLsbD 1

/-- A MOVX that reads FPCSR or XREC0 to XREC3, or writes FPCSR or XREC2, waits for the warp's outstanding floating-point
instructions (R16, R167). -/
def movxWait (write : Bool) (f : WordF) (_ : State) (i : Iss) : Bool :=
  let idx := extVal f.b
  fpOutstanding i.w && (idx == 0 || idx == 6 || (!write && decide (4 ≤ idx ∧ idx ≤ 7)))

/-- The access that a read of a control register makes: UIMASK and UIPEND stand in the context's block (R397). -/
def ctlAccess (s : State) (w : Warp) (idx : Nat) : State :=
  if idx = 0x10 then uibAccess s w.part w.ctx 0x10 else if idx = 0x11 then uibAccess s w.part w.ctx 8 else s

/-- MOVX, read (R167). -/
def execMovxRead (f : WordF) (s : State) : Host.Outcome State Fault Refusal :=
  runWord (.movxRead f) f.guard (movxWait false f) noBad (fun s i =>
    let s := if i.l = 0#32 then s else ctlAccess s i.w (extVal f.b)
    .retire (modWarp s i.place (fun w => writeDst w i.l f.dst (movxWide f) (fun _ => ctlRead s i.w (extVal f.b))))) s

/-- MOVX, write (R167). -/
def execMovxWrite (f : WordF) (s : State) : Host.Outcome State Fault Refusal :=
  runWord (.movxWrite f) f.guard (movxWait true f) noBad (fun s i =>
    match poisonTrap i (sourcesOf (.movxWrite f)) with
    | some t => .trap t
    | none =>
      if i.l = 0#32 then .retire s
      else .retire (ctlRegWrite s i.place i.w (extVal f.b) (uniVal s i (.int (if movxWide f then 64 else 32)) f.a))) s

end Sys2Proof.Machine
end

