-- ==== Sys2Proof/Machine/Funcs.lean ====
section
/-! DEFINITION. Division, square root and the approximate functions (R138 to R140): quotients and roots with a sticky bit,
and the transcendental functions in fixed point with 640 fraction bits, truncated to a value with a sticky bit. -/

namespace Sys2Proof

/-- A quotient of magnitudes to at least 130 significant bits. -/
def quotExact (m : Nat) (e : Int) (m' : Nat) (e' : Int) : Exact :=
  let k := 130 + Nat.log2 m'
  ⟨m * 2 ^ k / m', e - e' - k, m * 2 ^ k % m' != 0⟩

/-- Integer square root by binary digits: `bit` runs down from the given power of two. -/
def isqrtGo : Nat → Nat → Nat → Nat
  | 0, _, r => r
  | k + 1, n, r =>
    let c := r + 2 ^ k
    if c * c ≤ n then isqrtGo k n c else isqrtGo k n r

/-- The integer part of the square root. -/
def isqrt (n : Nat) : Nat := isqrtGo (Nat.log2 n / 2 + 1) n 0

/-- The square root of m times 2^e to at least 130 significant bits. -/
def sqrtExact (m : Nat) (e : Int) : Exact :=
  let k : Nat := 260 + (if (e - 260) % 2 = 0 then 0 else 1)
  let n := m * 2 ^ k
  let r := isqrt n
  ⟨r, (e - k) / 2, r * r != n⟩

/-- The reciprocal square root of m times 2^e. -/
def rsqrtExact (m : Nat) (e : Int) : Exact :=
  let (m, e) := if e % 2 = 0 then (m, e) else (2 * m, e - 1)
  let k := 200 + Nat.log2 m
  let r := isqrt (2 ^ (2 * k) / m)
  ⟨r, -(k : Int) - e / 2, r * r * m != 2 ^ (2 * k)⟩

/-- Fraction bits of the fixed-point functions. -/
def fxBits : Nat := 640
/-- One in fixed point. -/
def fxOne : Nat := 2 ^ fxBits
/-- The natural logarithm of 2 in fixed point. -/
def fxLn2 : Nat :=
  0xb17217f7d1cf79abc9e3b39803f2f6af40f343267298b62d8a0d175b8baafa2be7b876206debac98559552fb4afa1b10ed2eae35c138214427573b291169b8253e96ca16224ae8c51acbda11317c387e
/-- Pi in fixed point. -/
def fxPi : Nat :=
  0x3243f6a8885a308d313198a2e03707344a4093822299f31d0082efa98ec4e6c89452821e638d01377be5466cf34e90c6cc0ac29b7c97c50dd3f84d5b5b54709179216d5d98979fb1bd1310ba698dfb5ac

/-- Product in fixed point. -/
def fxMul (a b : Nat) : Nat := a * b / fxOne

/-- Sums terms of the exponential series: the term of order k, for k from `k` on. -/
def expGo : Nat → Nat → Nat → Nat → Nat → Nat
  | 0, _, _, _, acc => acc
  | fuel + 1, y, k, term, acc =>
    let t := fxMul term y / k
    expGo fuel y (k + 1) t (acc + t)

/-- e^y for 0 ≤ y < 1. -/
def fxExp (y : Nat) : Nat := expGo 150 y 1 fxOne fxOne

/-- Sums the odd terms z^(2k+1)/(2k+1). -/
def atanhGo : Nat → Nat → Nat → Nat → Nat → Nat
  | 0, _, _, _, acc => acc
  | fuel + 1, z2, k, p, acc => atanhGo fuel z2 (k + 2) (fxMul p z2) (acc + p / k)

/-- ln x for 1 ≤ x < 2, by the inverse hyperbolic tangent of (x - 1)/(x + 1). -/
def fxLn (x : Nat) : Nat :=
  let z := (x - fxOne) * fxOne / (x + fxOne)
  2 * atanhGo 210 (fxMul z z) 1 z 0

/-- Sums the alternating series of the sine: positive and negative parts. -/
def sinGo : Nat → Nat → Nat → Nat → Nat → Nat → Nat
  | 0, _, _, _, pos, neg => pos - neg
  | fuel + 1, y2, k, term, pos, neg =>
    let t1 := fxMul term y2 / ((k + 1) * (k + 2))
    let t2 := fxMul t1 y2 / ((k + 3) * (k + 4))
    sinGo fuel y2 (k + 4) t2 (pos + t2) (neg + t1)

/-- sin y for 0 ≤ y ≤ 2. -/
def fxSin (y : Nat) : Nat := sinGo 50 (fxMul y y) 1 y y 0

/-- m times 2^e in fixed point, for e at least -640. -/
def toFx (m : Nat) (e : Int) : Nat := if e + fxBits ≥ 0 then m * 2 ^ (e + fxBits).toNat else m / 2 ^ (-(e + fxBits)).toNat

/-- 2 to the fixed-point power f < 1. -/
def fxExp2 (f : Nat) : Nat := fxExp (fxMul f fxLn2)

/-- 2^a of a finite nonzero a (R139): exact for an integer. -/
def exp2Exact (s : Bool) (m : Nat) (e : Int) : Exact :=
  -- beyond 2^14 in magnitude every format of class H overflows or underflows as at 2^14
  let big := (Nat.log2 m : Int) + e ≥ 14
  let (m, e) := if big then (1, (14 : Int)) else (m, e)
  let x := toFx m e
  let n : Int := if s then -((x + fxOne - 1) / fxOne : Nat) else (x / fxOne : Nat)
  let f := if s then (fxOne - x % fxOne) % fxOne else x % fxOne
  if f = 0 then ⟨1, n, false⟩ else ⟨fxExp2 f, n - fxBits, true⟩

/-- log2 of a positive finite value: sign and magnitude; exact for a power of two. -/
def log2Exact (m : Nat) (e : Int) : Bool × Exact :=
  let k := Nat.log2 m
  let n : Int := k + e
  let x := m * fxOne / 2 ^ k
  if x = fxOne then (decide (n < 0), ⟨n.natAbs, 0, false⟩)
  else
    let fr := fxLn x * fxOne / fxLn2
    let v : Int := n * fxOne + fr
    if v < 0 then (true, ⟨(-v - 1).toNat, -(fxBits : Int), true⟩) else (false, ⟨v.toNat, -(fxBits : Int), true⟩)

/-- sin(pi x) for x times 2^-640 in [0, 2): sign and magnitude, exact at multiples of one half. -/
def sinpiFx (x : Nat) : Bool × Exact :=
  let neg := decide (x ≥ fxOne)
  let y := x % fxOne
  let z := if y ≤ fxOne / 2 then y else fxOne - y
  if z = 0 then (neg, ⟨0, 0, false⟩)
  else if 2 * z = fxOne then (neg, ⟨1, 0, false⟩)
  else (neg, ⟨fxSin (fxMul z fxPi), -(fxBits : Int), true⟩)

/-- A finite magnitude modulo 2, in fixed point. -/
def mod2Fx (m : Nat) (e : Int) : Nat := if e ≥ 1 then 0 else toFx m e % (2 * fxOne)

/-- tanh of a positive finite value. -/
def tanhExact (m : Nat) (e : Int) : Exact :=
  if (Nat.log2 m : Int) + e ≥ 9 then ⟨fxOne - 1, -(fxBits : Int), true⟩
  else
    let y := 2 * toFx m e * fxOne / fxLn2
    let n := y / fxOne
    let t := fxExp2 (y % fxOne) * 2 ^ n
    ⟨(t - fxOne) * fxOne / (t + fxOne), -(fxBits : Int), true⟩

/-- The one-operand functions of R138. -/
inductive FFun where
  | rcp | rsq | sqrt | exp2 | log2 | sinpi | cospi | tanh
  deriving DecidableEq, Repr

/-- FRCP to FTANH and FSQRT (R138 to R140); FSQRT alone rounds by the mode. -/
def fpFun (k : FFun) (t : FType) (mode : RMode) (ftz : Bool) (a : Nat) : Nat × Flags :=
  let f := t.fmt
  let x := f.read ftz a
  let fin (s : Bool) (e : Exact) : Nat × Flags := f.round .ieee (if k = .sqrt then mode else .rne) ftz s e
  let bad : Nat × Flags := (f.canonNan, flagNV)
  let one (s : Bool) : Nat × Flags := fin s ⟨1, 0, false⟩
  match x with
  | .nan _ _ _ _ => (f.deliverNan [x], signalFlag [x])
  | .inf s =>
    match k with
    | .rcp => (f.packZero s, 0)
    | .rsq => if s then bad else (f.packZero false, 0)
    | .sqrt => if s then bad else (f.packInf false, 0)
    | .exp2 => if s then (f.packZero false, 0) else (f.packInf false, 0)
    | .log2 => if s then bad else (f.packInf false, 0)
    | .sinpi | .cospi => bad
    | .tanh => one s
  | .fin s m e =>
    if m = 0 then
      match k with
      | .rcp | .rsq => (f.packInf s, flagDZ)
      | .sqrt | .sinpi | .tanh => (f.packZero s, 0)
      | .exp2 | .cospi => one false
      | .log2 => (f.packInf true, flagDZ)
    else
      match k with
      | .rcp => fin s (quotExact 1 0 m e)
      | .rsq => if s then bad else fin false (rsqrtExact m e)
      | .sqrt => if s then bad else fin false (sqrtExact m e)
      | .exp2 => fin false (exp2Exact s m e)
      | .log2 => if s then bad else
        let r := log2Exact m e
        if r.2.m = 0 ∧ !r.2.sticky then (f.packZero false, 0) else fin r.1 r.2
      | .sinpi =>
        let r := sinpiFx (mod2Fx m e)
        -- an integer gives a zero of the operand's sign
        if r.2.m = 0 ∧ !r.2.sticky then (f.packZero s, 0) else fin (r.1 != s) r.2
      | .cospi =>
        let r := sinpiFx ((mod2Fx m e + fxOne / 2) % (2 * fxOne))
        if r.2.m = 0 ∧ !r.2.sticky then (f.packZero false, 0) else fin r.1 r.2
      | .tanh => fin s (tanhExact m e)

/-- FDIV (R139, R140). -/
def fpDiv (t : FType) (mode : RMode) (ftz : Bool) (a b : Nat) : Nat × Flags :=
  let f := t.fmt
  let x := f.read ftz a
  let y := f.read ftz b
  let s := x.sign != y.sign
  if x.isNan || y.isNan then (f.deliverNan [x, y], signalFlag [x, y])
  else
    match x, y with
    | .inf _, .inf _ => (f.canonNan, flagNV)
    | .inf _, _ => (f.packInf s, 0)
    | _, .inf _ => (f.packZero s, 0)
    | .fin _ m e, .fin _ m' e' =>
      if m' = 0 then (if m = 0 then (f.canonNan, flagNV) else (f.packInf s, flagDZ))
      else if m = 0 then (f.packZero s, 0)
      else f.round .ieee mode ftz s (quotExact m e m' e')
    | _, _ => (f.canonNan, flagNV)

/-- Philox4x32-10 (R148): four counter words, two key words. -/
def philox (c0 c1 c2 c3 k0 k1 : Nat) : List Nat :=
  let go := (List.range 10).foldl (fun (st : List Nat) (r : Nat) =>
    match st with
    | [c0, c1, c2, c3, k0, k1] =>
      let k0 := if r > 0 then (k0 + 0x9E3779B9) % 2 ^ 32 else k0
      let k1 := if r > 0 then (k1 + 0xBB67AE85) % 2 ^ 32 else k1
      let h := 0xD2511F53 * c0
      let g := 0xCD9E8D57 * c2
      [(g / 2 ^ 32) ^^^ c1 ^^^ k0, g % 2 ^ 32, (h / 2 ^ 32) ^^^ c3 ^^^ k1, h % 2 ^ 32, k0, k1]
    | _ => st) [c0, c1, c2, c3, k0, k1]
  go.take 4

end Sys2Proof
end

