-- ==== Sys2Proof/Machine/Integer.lean ====
section
/-! DEFINITION. Integer arithmetic (R105 to R110). -/

namespace Sys2Proof.Machine

open Sys2Proof

/-- The TY field of a word (R79). -/
def tyCode (f : WordF) : Nat := f.mod.toNat / 8
/-- The sub-op field of a word. -/
def subOp (f : WordF) : Nat := f.mod.toNat % 8
/-- The integer type of a word. -/
def tyInt (f : WordF) : IType := ityOf (tyCode f)

/-- SatT (R102). -/
def satT (t : IType) (x : Int) : Int := max t.lo (min t.hi x)

/-- A source read at an integer type (R51). -/
def intArg (s : State) (i : Iss) (t : IType) (o : Opd) (l : Lane) : Int := t.val (srcVal s i (.int t.bits) o l)

/-- A source read as u32 (R98). -/
def u32Arg (s : State) (i : Iss) (o : Opd) (l : Lane) : Nat := srcVal s i (.int 32) o l

/-- A result of the word's type from its sources read at that type, reduced modulo 2^n, or saturated when `sat` (R102). -/
def runInt (x : Instr) (f : WordF) (sat : Bool) (g : Int → Int → Int → Int) (s : State) : Host.Outcome State Fault Refusal :=
  let t := tyInt f
  runCalc x f (t.bits == 64) (fun s i l =>
    let r := g (intArg s i t f.a l) (intArg s i t f.b l) (intArg s i t f.c l)
    t.enc (if sat then satT t r else r)) s

/-- Sub-op 1 is .SAT. -/
def isSat (f : WordF) : Bool := subOp f % 2 == 1

/-- IADD (R105). -/
def execIadd (f : WordF) (s : State) : Host.Outcome State Fault Refusal :=
  runInt (.iadd f) f (isSat f) (fun a b _ => a + b) s

/-- ISUB (R105). -/
def execIsub (f : WordF) (s : State) : Host.Outcome State Fault Refusal :=
  runInt (.isub f) f (isSat f) (fun a b _ => a - b) s

/-- IMUL (R105). -/
def execImul (f : WordF) (s : State) : Host.Outcome State Fault Refusal :=
  runInt (.imul f) f (isSat f) (fun a b _ => a * b) s

/-- IMAD (R105): one reduction. -/
def execImad (f : WordF) (s : State) : Host.Outcome State Fault Refusal :=
  runInt (.imad f) f (isSat f) (fun a b c => a * b + c) s

/-- IMULH (R107): the high half of the full product. -/
def execImulh (f : WordF) (s : State) : Host.Outcome State Fault Refusal :=
  runInt (.imulh f) f false (fun a b _ => a * b / (2 ^ (tyInt f).bits : Nat)) s

/-- The quotient of R108. -/
def quotient (t : IType) (a b : Int) : Int :=
  if b = 0 then (2 ^ t.bits : Nat) - 1 else if t.signed ∧ a = t.lo ∧ b = -1 then a else Int.tdiv a b

/-- The remainder of R108. -/
def remainder (t : IType) (a b : Int) : Int :=
  if b = 0 then a else if t.signed ∧ a = t.lo ∧ b = -1 then 0 else a - Int.tdiv a b * b

/-- IDIV (R108). -/
def execIdiv (f : WordF) (s : State) : Host.Outcome State Fault Refusal :=
  runInt (.idiv f) f false (fun a b _ => quotient (tyInt f) a b) s

/-- IREM (R108). -/
def execIrem (f : WordF) (s : State) : Host.Outcome State Fault Refusal :=
  runInt (.irem f) f false (fun a b _ => remainder (tyInt f) a b) s

/-- IABS (R105). -/
def execIabs (f : WordF) (s : State) : Host.Outcome State Fault Refusal :=
  runInt (.iabs f) f (isSat f) (fun a _ _ => (a.natAbs : Int)) s

/-- INEG (R105). -/
def execIneg (f : WordF) (s : State) : Host.Outcome State Fault Refusal :=
  runInt (.ineg f) f (isSat f) (fun a _ _ => -a) s

/-- IMIN (R105). -/
def execImin (f : WordF) (s : State) : Host.Outcome State Fault Refusal :=
  runInt (.imin f) f false (fun a b _ => min a b) s

/-- IMAX (R105). -/
def execImax (f : WordF) (s : State) : Host.Outcome State Fault Refusal :=
  runInt (.imax f) f false (fun a b _ => max a b) s

/-- ISAD (R105). -/
def execIsad (f : WordF) (s : State) : Host.Outcome State Fault Refusal :=
  runInt (.isad f) f false (fun a b c => ((a - b).natAbs : Int) + c) s

/-- The sum with a carry, or the difference with a borrow, of n + 1 bits (R106). -/
def carrySum (sub : Bool) (n a b k : Nat) : Nat :=
  if sub then (a + 2 ^ (n + 1) - b % 2 ^ n - k) % 2 ^ (n + 1) else (a + b + k) % 2 ^ (n + 1)

/-- IADDC and ISUBB (R106): the destination and the carry or borrow in pk. -/
def runCarry (x : Instr) (f : WordF) (sub : Bool) (s : State) : Host.Outcome State Fault Refusal :=
  let n := (tyInt f).bits
  let sum (s : State) (i : Iss) (l : Lane) : Nat :=
    carrySum sub n (srcVal s i (.int n) f.a l) (srcVal s i (.int n) f.b l) (if predVal i f.c l then 1 else 0)
  runWord x f.guard noWait noBad (consuming x (fun s i w =>
    writePred (writeDst w i.l f.dst (n == 64) (fun l => sum s i l % 2 ^ n)) i.l f.c (fun l => (sum s i l).testBit n))) s

/-- IADDC (R106). -/
def execIaddc (f : WordF) (s : State) : Host.Outcome State Fault Refusal := runCarry (.iaddc f) f false s

/-- ISUBB (R106). -/
def execIsubb (f : WordF) (s : State) : Host.Outcome State Fault Refusal := runCarry (.isubb f) f true s

/-- IMADW (R107): 32-bit factors, 64-bit addend and result. -/
def execImadw (f : WordF) (s : State) : Host.Outcome State Fault Refusal :=
  let t := tyInt f
  runCalc (.imadw f) f true (fun s i l =>
    ofInt 64 (intArg s i t f.a l * intArg s i t f.b l + (srcVal s i (.int 64) f.c l : Int))) s

/-- LEA (R110). -/
def execLea (f : WordF) (s : State) : Host.Outcome State Fault Refusal :=
  let t := tyInt f
  runCalc (.lea f) f true (fun s i l =>
    ofInt 64 ((srcVal s i (.int 64) f.a l : Int) + intArg s i t f.b l * (2 ^ subOp f : Nat))) s

/-- The dot product of R109: elements of `n` bits, `k` of them. -/
def dotValue (n k : Nat) (signedA mix sat : Bool) (a b c : Nat) : Nat :=
  let sb := if mix then !signedA else signedA
  let el (sg : Bool) (x j : Nat) : Int := if sg then toSigned n (bits x (n * j) n) else (bits x (n * j) n : Nat)
  let r : IType := if signedA || sb then .s32 else .z32
  let sum := r.val c + ((List.range k).map (fun j => el signedA a j * el sb b j)).sum
  r.enc (if sat then satT r sum else sum)

/-- IDP4 and IDP2 (R109). -/
def runDot (x : Instr) (f : WordF) (n k : Nat) (s : State) : Host.Outcome State Fault Refusal :=
  runCalc x f false (fun s i l =>
    dotValue n k (tyInt f).signed (subOp f % 2 == 1) (subOp f / 2 % 2 == 1) (u32Arg s i f.a l) (u32Arg s i f.b l)
      (u32Arg s i f.c l)) s

/-- IDP4 (R109). -/
def execIdp4 (f : WordF) (s : State) : Host.Outcome State Fault Refusal := runDot (.idp4 f) f 8 4 s

/-- IDP2 (R109). -/
def execIdp2 (f : WordF) (s : State) : Host.Outcome State Fault Refusal := runDot (.idp2 f) f 16 2 s

end Sys2Proof.Machine
end

