-- ==== Sys2Proof/Machine/Logic.lean ====
section
/-! DEFINITION. Logic and bit instructions (R111 to R117). -/

namespace Sys2Proof.Machine

open Sys2Proof

/-- Complement at n bits. -/
def notN (n x : Nat) : Nat := 2 ^ n - 1 - x % 2 ^ n

/-- A bitwise result of the word's width from two sources (R111). -/
def runBits (x : Instr) (f : WordF) (g : Nat → Nat → Nat → Nat) (s : State) : Host.Outcome State Fault Refusal :=
  let n := (tyInt f).bits
  runCalc x f (n == 64) (fun s i l => g n (srcVal s i (.int n) f.a l) (srcVal s i (.int n) f.b l)) s

/-- AND (R111). -/
def execAnd (f : WordF) (s : State) : Host.Outcome State Fault Refusal := runBits (.and f) f (fun _ a b => a &&& b) s
/-- OR (R111). -/
def execOr (f : WordF) (s : State) : Host.Outcome State Fault Refusal := runBits (.or f) f (fun _ a b => a ||| b) s
/-- XOR (R111). -/
def execXor (f : WordF) (s : State) : Host.Outcome State Fault Refusal := runBits (.xor f) f (fun _ a b => a ^^^ b) s
/-- ANDN (R111). -/
def execAndn (f : WordF) (s : State) : Host.Outcome State Fault Refusal :=
  runBits (.andn f) f (fun n a b => a &&& notN n b) s
/-- ORN (R111). -/
def execOrn (f : WordF) (s : State) : Host.Outcome State Fault Refusal :=
  runBits (.orn f) f (fun n a b => a ||| notN n b) s

/-- SHL (R113). -/
def shlN (n a k : Nat) : Nat := if k < n then a * 2 ^ k % 2 ^ n else 0
/-- SHR (R113). -/
def shrN (n a k : Nat) : Nat := if k < n then a / 2 ^ k else 0
/-- SAR (R113). -/
def sarN (n a k : Nat) : Nat := ofInt n (toSigned n a / (2 ^ min k n : Nat))
/-- ROT to the left (R113). -/
def rotN (n a k : Nat) : Nat := if k % n = 0 then a else (a * 2 ^ (k % n) ||| a / 2 ^ (n - k % n)) % 2 ^ n

/-- A shift by a u32 amount, taken modulo n under .WRAP (R113). -/
def runShift (x : Instr) (f : WordF) (g : Nat → Nat → Nat → Nat) (s : State) : Host.Outcome State Fault Refusal :=
  let n := (tyInt f).bits
  runCalc x f (n == 64) (fun s i l =>
    let k := u32Arg s i f.b l
    g n (srcVal s i (.int n) f.a l) (if subOp f % 2 = 1 then k % n else k)) s

/-- SHL (R113). -/
def execShl (f : WordF) (s : State) : Host.Outcome State Fault Refusal := runShift (.shl f) f shlN s
/-- SHR (R113). -/
def execShr (f : WordF) (s : State) : Host.Outcome State Fault Refusal := runShift (.shr f) f shrN s
/-- SAR (R113). -/
def execSar (f : WordF) (s : State) : Host.Outcome State Fault Refusal := runShift (.sar f) f sarN s

/-- ROT (R113). -/
def execRot (f : WordF) (s : State) : Host.Outcome State Fault Refusal :=
  let n := (tyInt f).bits
  runCalc (.rot f) f (n == 64) (fun s i l =>
    let k := u32Arg s i f.b l % n
    rotN n (srcVal s i (.int n) f.a l) (if subOp f % 2 = 1 then n - k else k)) s

/-- FSH (R114). -/
def fshN (left wrap : Bool) (n a b c : Nat) : Nat :=
  let x := a * 2 ^ n + b
  let k := if wrap then c % n else min c n
  if left then x * 2 ^ k / 2 ^ n % 2 ^ n else x / 2 ^ k % 2 ^ n

/-- FSH (R114). -/
def execFsh (f : WordF) (s : State) : Host.Outcome State Fault Refusal :=
  let n := (tyInt f).bits
  runCalc (.fsh f) f (n == 64) (fun s i l =>
    fshN (subOp f % 2 == 1) (subOp f / 2 % 2 == 1) n (srcVal s i (.int n) f.a l) (srcVal s i (.int n) f.b l)
      (u32Arg s i f.c l)) s

/-- BFE (R115). -/
def bfeN (signed : Bool) (n a ctl : Nat) : Nat :=
  let pos := bits ctl 0 8
  let len := bits ctl 8 8
  if len = 0 ∨ pos ≥ n then 0
  else
    let m := min len (n - pos)
    if signed then ofInt n (toSigned m (bits a pos m)) else bits a pos m

/-- BFI (R115). -/
def bfiN (n a b ctl : Nat) : Nat :=
  let pos := bits ctl 0 8
  let len := bits ctl 8 8
  if len = 0 ∨ pos ≥ n then b else setBits b pos (min len (n - pos)) a

/-- BFE (R115). -/
def execBfe (f : WordF) (s : State) : Host.Outcome State Fault Refusal :=
  let n := (tyInt f).bits
  runCalc (.bfe f) f (n == 64) (fun s i l =>
    bfeN (tyInt f).signed n (srcVal s i (.int n) f.a l) (u32Arg s i f.b l)) s

/-- BFI (R115). -/
def execBfi (f : WordF) (s : State) : Host.Outcome State Fault Refusal :=
  let n := (tyInt f).bits
  runCalc (.bfi f) f (n == 64) (fun s i l =>
    bfiN n (srcVal s i (.int n) f.a l) (srcVal s i (.int n) f.b l) (u32Arg s i f.c l)) s

/-- Ones among the low n bits (R116). -/
def popcN (n a : Nat) : Nat := ((List.range n).filter (fun j => a.testBit j)).length
/-- Zeros above the highest one (R116). -/
def clzN (n a : Nat) : Nat := if a % 2 ^ n = 0 then n else n - 1 - Nat.log2 (a % 2 ^ n)
/-- Zeros below the lowest one (R116). -/
def ctzN (n a : Nat) : Nat := ((List.range n).find? (fun j => a.testBit j)).getD n
/-- The low n bits in reverse order (R116). -/
def brevN (n a : Nat) : Nat := (List.range n).foldl (fun r j => 2 * r + (if a.testBit j then 1 else 0)) 0

/-- A count of the source's bits, written as u32 (R116). -/
def runCount (x : Instr) (f : WordF) (g : Nat → Nat → Nat) (s : State) : Host.Outcome State Fault Refusal :=
  let n := (tyInt f).bits
  runCalc x f false (fun s i l => g n (srcVal s i (.int n) f.a l)) s

/-- POPC (R116). -/
def execPopc (f : WordF) (s : State) : Host.Outcome State Fault Refusal := runCount (.popc f) f popcN s
/-- CLZ (R116). -/
def execClz (f : WordF) (s : State) : Host.Outcome State Fault Refusal := runCount (.clz f) f clzN s
/-- CTZ (R116). -/
def execCtz (f : WordF) (s : State) : Host.Outcome State Fault Refusal := runCount (.ctz f) f ctzN s
/-- BREV (R116). -/
def execBrev (f : WordF) (s : State) : Host.Outcome State Fault Refusal := runBits (.brev f) f (fun n a _ => brevN n a) s

/-- One byte of BSWZ from the eight bytes and its selector (R117). -/
def bswzByte (x sel : Nat) : Nat :=
  let k := bits x (8 * (sel % 8)) 8
  match bits sel 4 2 with
  | 0 => k
  | 1 => 0
  | 2 => if k ≥ 128 then 255 else 0
  | _ => brevN 8 k

/-- BSWZ (R117). -/
def bswzN (a b c : Nat) : Nat :=
  ((List.range 4).map (fun j => bswzByte (a + b * 2 ^ 32) (bits c (8 * j) 8) * 256 ^ j)).sum

/-- BSWZ (R117). -/
def execBswz (f : WordF) (s : State) : Host.Outcome State Fault Refusal :=
  runCalc (.bswz f) f false (fun s i l => bswzN (u32Arg s i f.a l) (u32Arg s i f.b l) (u32Arg s i f.c l)) s

/-- The table of BLUT and PLUT (R93, R112). -/
def lutTable (f : WordF) : Nat := f.sub.toNat * 32 + f.mod.toNat / 2

/-- The bits for which the table holds 1 (R112): the union of its minterms. -/
def lutN (n tt a b c : Nat) : Nat :=
  (List.range 8).foldl (fun r k =>
    if tt.testBit k then
      r ||| ((if k % 2 = 1 then a else notN n a) &&& (if k / 2 % 2 = 1 then b else notN n b) &&&
        (if k / 4 = 1 then c else notN n c))
    else r) 0

/-- BLUT (R112). -/
def execBlut (f : WordF) (s : State) : Host.Outcome State Fault Refusal :=
  let n := if f.mod.toNat % 2 = 1 then 64 else 32
  runCalc (.blut f) f (n == 64) (fun s i l =>
    lutN n (lutTable f) (srcVal s i (.int n) f.a l) (srcVal s i (.int n) f.b l) (srcVal s i (.int n) f.c l)) s

end Sys2Proof.Machine
end

