-- ==== Sys2Proof/Machine/Select.lean ====
section
/-! DEFINITION. Compare, select and move (R118 to R122). -/

namespace Sys2Proof.Machine

open Sys2Proof

/-- The conditions of ICMP (R118, R119). -/
def intCond (cc : Nat) (a b : Int) : Bool :=
  match cc with
  | 0 => a == b
  | 1 => a != b
  | 2 => decide (a < b)
  | 3 => decide (a ≤ b)
  | 4 => decide (a > b)
  | _ => decide (a ≥ b)

/-- ICMP (R119). -/
def execIcmp (f : WordF) (s : State) : Host.Outcome State Fault Refusal :=
  let t := tyInt f
  runWord (.icmp f) f.guard noWait noBad (consuming (.icmp f) (fun s i w =>
    writePred w i.l f.dst (fun l =>
      intCond (subOp f) (intArg s i t f.a l) (intArg s i t f.b l) && predVal i f.c l))) s

/-- The values of register k of a source, with their marks, as MOV carries them (R120, R365). -/
def carried (s : State) (i : Iss) (t : OpT) (o : Opd) (k : Nat) (l : Lane) : Val :=
  ⟨BitVec.ofNat 32 (srcVal s i t o l / 2 ^ (32 * k)), regMark i o (if t.wide then 2 else 1) k l⟩

/-- Writes one or two registers with carried values. -/
def writeCarried (w : Warp) (m : Mask) (dst : Opd) (wide : Bool) (f : Nat → Lane → Val) : Warp :=
  let w := writeVals w m dst 0 (f 0)
  if wide then writeVals w m dst 1 (f 1) else w

/-- MOV (R120). -/
def execMov (f : WordF) (s : State) : Host.Outcome State Fault Refusal :=
  let t := OpT.int (tyInt f).bits
  runWord (.mov f) f.guard noWait noBad (fun s i =>
    .retire (modWarp s i.place (fun w => writeCarried w i.l f.dst t.wide (carried s i t f.a)))) s

/-- MOVL (R120): a to the even register, b to the odd one. -/
def execMovl (f : WordF) (s : State) : Host.Outcome State Fault Refusal :=
  runWord (.movl f) f.guard noWait noBad (fun s i =>
    .retire (modWarp s i.place (fun w => writeCarried w i.l f.dst true
      (fun k l => carried s i (.int 32) (if k = 0 then f.a else f.b) 0 l)))) s

/-- SEL (R118, R120): the selected source is carried, the other neither consumed nor carried (R103). -/
def execSel (f : WordF) (s : State) : Host.Outcome State Fault Refusal :=
  let t := OpT.int (tyInt f).bits
  runWord (.sel f) f.guard noWait noBad (fun s i =>
    .retire (modWarp s i.place (fun w => writeCarried w i.l f.dst t.wide
      (fun k l => carried s i t (if predVal i f.c l then f.a else f.b) k l)))) s

/-- CVTI (R121). -/
def execCvti (f : WordF) (s : State) : Host.Outcome State Fault Refusal :=
  let t := tyInt f
  let src := ityOf (subOp f)
  runCalc (.cvti f) f (t.bits == 64) (fun s i l =>
    let x := intArg s i src f.a l
    t.enc (if extVal f.c = 1 then satT t x else x)) s

/-- P2V (R122): bit 7 reads p7. -/
def execP2v (f : WordF) (s : State) : Host.Outcome State Fault Refusal :=
  runCalc (.p2v f) f false (fun _ i l =>
    ((List.range 8).map (fun p => if pRead i.w p l then 2 ^ p else 0)).sum) s

/-- V2P (R122). -/
def execV2p (f : WordF) (s : State) : Host.Outcome State Fault Refusal :=
  runWord (.v2p f) f.guard noWait noBad (consuming (.v2p f) (fun s i w =>
    (List.range 7).foldl (fun w p =>
      pWrite w p (Mask.ofFn (fun l => i.l.has l && (u32Arg s i f.b l).testBit p))
        (Mask.ofFn (fun l => (u32Arg s i f.a l).testBit p))) w)) s

/-- ICLAMP (R118): if lo > hi, hi. -/
def execIclamp (f : WordF) (s : State) : Host.Outcome State Fault Refusal :=
  runInt (.iclamp f) f false (fun a lo hi => min (max a lo) hi) s

/-- PLUT (R112). -/
def execPlut (f : WordF) (s : State) : Host.Outcome State Fault Refusal :=
  runWord (.plut f) f.guard noWait noBad (consuming (.plut f) (fun _ i w =>
    writePred w i.l f.dst (fun l =>
      (lutTable f).testBit ((if predVal i f.a l then 1 else 0) + (if predVal i f.b l then 2 else 0) +
        (if predVal i f.c l then 4 else 0))))) s

end Sys2Proof.Machine
end

