-- ==== Sys2Proof/Machine/FloatArith.lean ====
section
/-! DEFINITION. Floating-point arithmetic (R124 to R137), and long instructions (R126). -/

namespace Sys2Proof.Machine

open Sys2Proof

/-- The format of a word (R79). -/
def tyFp (f : WordF) : FType := ftyOf (tyCode f)

/-- Mode(m) (R125): the mode that RMF names, or FPCSR.RM. -/
def modeOf (w : Warp) (rmf : Nat) : RMode := if rmf = 0 then w.rm else rmOf (rmf - 1)

/-- The rounding mode of a word. -/
def wordMode (i : Iss) (f : WordF) : RMode := modeOf i.w (subOp f)

/-- A source read in a format. -/
def fpArg (s : State) (i : Iss) (t : FType) (o : Opd) (l : Lane) : Nat := srcVal s i (.fp t) o l
/-- A packed source. -/
def packArg (s : State) (i : Iss) (t : FType) (o : Opd) (l : Lane) : Nat := srcVal s i (.packed t) o l

/-- The lanes whose results a word writes: L, and all of it for a uniform operation (R125). -/
def mergeFlags (i : Iss) (dest : Nat) (fl : Lane → Flags) (w : Warp) : Warp :=
  if i.l = 0#32 then w else pushRes w (resOf w 0 true i.l (fun l => (fl l).toNat) i.pc dest false)

/-- A short floating-point word: every source is consumed, the destination is written, its flags are merged (R30, R125,
R127). -/
def runFp (x : Instr) (f : WordF) (wide : Bool) (val : State → Iss → Lane → Nat × Flags) (s : State) :
    Host.Outcome State Fault Refusal :=
  runWord x f.guard noWait noBad (consuming x (fun s i w =>
    mergeFlags i (dstCode f.dst) (fun l => (val s i l).2)
      (writeDst w i.l f.dst wide (fun l => (val s i l).1)))) s

/-- A word of the type in TY with up to three sources of that type. -/
def runFp3 (x : Instr) (f : WordF) (op : RMode → Bool → Nat → Nat → Nat → Nat × Flags) (s : State) :
    Host.Outcome State Fault Refusal :=
  let t := tyFp f
  runFp x f (t == .f64) (fun s i l =>
    op (wordMode i f) i.w.ftz (fpArg s i t f.a l) (fpArg s i t f.b l) (fpArg s i t f.c l)) s

/-- FADD (R130). -/
def execFadd (f : WordF) (s : State) : Host.Outcome State Fault Refusal :=
  runFp3 (.fadd f) f (fun r z a b _ => fpAdd (tyFp f) r z false a b) s
/-- FSUB (R130). -/
def execFsub (f : WordF) (s : State) : Host.Outcome State Fault Refusal :=
  runFp3 (.fsub f) f (fun r z a b _ => fpAdd (tyFp f) r z true a b) s
/-- FMUL (R130). -/
def execFmul (f : WordF) (s : State) : Host.Outcome State Fault Refusal :=
  runFp3 (.fmul f) f (fun r z a b _ => fpMul (tyFp f) r z a b) s
/-- FFMA (R130). -/
def execFfma (f : WordF) (s : State) : Host.Outcome State Fault Refusal :=
  runFp3 (.ffma f) f (fun r z a b c => fpFma (tyFp f) r z a b c) s
/-- FMIN (R68). -/
def execFmin (f : WordF) (s : State) : Host.Outcome State Fault Refusal :=
  runFp3 (.fmin f) f (fun _ z a b _ => fpMinMax (tyFp f) .min z a b) s
/-- FMAX (R68). -/
def execFmax (f : WordF) (s : State) : Host.Outcome State Fault Refusal :=
  runFp3 (.fmax f) f (fun _ z a b _ => fpMinMax (tyFp f) .max z a b) s
/-- FMINM (R68). -/
def execFminm (f : WordF) (s : State) : Host.Outcome State Fault Refusal :=
  runFp3 (.fminm f) f (fun _ z a b _ => fpMinMax (tyFp f) .minm z a b) s
/-- FMAXM (R68). -/
def execFmaxm (f : WordF) (s : State) : Host.Outcome State Fault Refusal :=
  runFp3 (.fmaxm f) f (fun _ z a b _ => fpMinMax (tyFp f) .maxm z a b) s

/-- FCMP (R133). -/
def execFcmp (f : WordF) (s : State) : Host.Outcome State Fault Refusal :=
  let t := tyFp f
  let cmp (s : State) (i : Iss) (l : Lane) : Bool × Flags :=
    fpCmp t (extVal f.c) i.w.ftz (fpArg s i t f.a l) (fpArg s i t f.b l)
  runWord (.fcmp f) f.guard noWait noBad (consuming (.fcmp f) (fun s i w =>
    mergeFlags i (dstCode f.dst) (fun l => (cmp s i l).2) (writePred w i.l f.dst (fun l => (cmp s i l).1)))) s

/-- FCLASS (R134). -/
def execFclass (f : WordF) (s : State) : Host.Outcome State Fault Refusal :=
  runFp (.fclass f) f false (fun s i l => (fpClass (tyFp f) (fpArg s i (tyFp f) f.a l), 0)) s

/-- FSGN (R135). -/
def execFsgn (f : WordF) (s : State) : Host.Outcome State Fault Refusal :=
  runFp3 (.fsgn f) f (fun _ _ a b _ => (fpSgn (tyFp f) (extVal f.c) a b, 0)) s

/-- FSCALE (R136): b is an s32. -/
def execFscale (f : WordF) (s : State) : Host.Outcome State Fault Refusal :=
  let t := tyFp f
  runFp (.fscale f) f (t == .f64) (fun s i l =>
    fpScale t (wordMode i f) i.w.ftz (fpArg s i t f.a l) (intArg s i .s32 f.b l)) s

/-- FRND (R137). -/
def execFrnd (f : WordF) (s : State) : Host.Outcome State Fault Refusal :=
  runFp3 (.frnd f) f (fun r z a _ _ => fpRnd (tyFp f) r z a) s

/-- FDOT2 and FDOT4 (R132). -/
def runFdot (x : Instr) (f : WordF) (n : Nat) (s : State) : Host.Outcome State Fault Refusal :=
  let t := tyFp f
  runFp x f false (fun s i l =>
    fpDot t n (wordMode i f) i.w.ftz (packArg s i t f.a l) (packArg s i t f.b l) (fpArg s i .f32 f.c l)) s

/-- FDOT2 (R132). -/
def execFdot2 (f : WordF) (s : State) : Host.Outcome State Fault Refusal := runFdot (.fdot2 f) f 2 s
/-- FDOT4 (R132). -/
def execFdot4 (f : WordF) (s : State) : Host.Outcome State Fault Refusal := runFdot (.fdot4 f) f 4 s

/-- A packed word: the operation on elements 0 and 1 (R131). -/
def runPair (x : Instr) (f : WordF) (op : RMode → Bool → Nat → Nat → Nat → Nat × Flags) (s : State) :
    Host.Outcome State Fault Refusal :=
  let t := tyFp f
  runFp x f false (fun s i l =>
    fpPacked (fun j => op (wordMode i f) i.w.ftz (fpElem t (packArg s i t f.a l) j) (fpElem t (packArg s i t f.b l) j)
      (fpElem t (packArg s i t f.c l) j))) s

/-- FADD2 (R131). -/
def execFadd2 (f : WordF) (s : State) : Host.Outcome State Fault Refusal :=
  runPair (.fadd2 f) f (fun r z a b _ => fpAdd (tyFp f) r z false a b) s
/-- FMUL2 (R131). -/
def execFmul2 (f : WordF) (s : State) : Host.Outcome State Fault Refusal :=
  runPair (.fmul2 f) f (fun r z a b _ => fpMul (tyFp f) r z a b) s
/-- FFMA2 (R131). -/
def execFfma2 (f : WordF) (s : State) : Host.Outcome State Fault Refusal :=
  runPair (.ffma2 f) f (fun r z a b c => fpFma (tyFp f) r z a b c) s

/-! Requests in flight (R27, R126). -/

/-- The sequence number that a request carries (R2): a memory access's, of its warp's origin. -/
def requestSeq (s : State) (pl : Nat) (kind : PendKind) : State × Nat :=
  match kind with
  | .load | .atomic | .store => nextOseq s (originOfPlace pl)
  | .long | .matrix => (s, 0)

/-- Adds a request of a warp and marks the destinations of its fills empty; `reach` holds the
physical addresses that lanes reach. -/
def addPend (s : State) (pl : Nat) (kind : PendKind) (m : Mask) (fills : List Fill) (reach : List (Mask × Nat) := []) :
    State :=
  let id := s.nextId
  let (s, n) := requestSeq s pl kind
  let s := modWarp s pl (fun w => fills.foldl (fun w x =>
    if x.code < 256 then vAwait w x.code id else sAwait w (x.code - 256) id) w)
  { s with pend := FMap.ins s.pend id ⟨pl, kind, m, fills, n, reach⟩, nextId := id + 1 }

/-- The fills of a result of `n` registers at a destination: per lane for v, from the lowest lane for s. -/
def fillsOf (o : Opd) (n : Nat) (m : Mask) (val : Nat → Lane → Val) : List Fill :=
  (List.range n).map (fun k => ⟨dstCode o + k, m, Vector.ofFn (fun l => val k l)⟩)

/-- A request completes: its results land, its flags are merged, filled registers of a spilled warp move out (R27, R126,
R177). -/
def completePend (s : State) (id : Nat) (p : Pend) : State :=
  let s := { s with pend := FMap.del s.pend id }
  let s := modWarp s p.place (fun w =>
    let w := p.fills.foldl (fun w x =>
      if x.code < 256 then vFill w x.code id x.mask x.vals
      else sFill w (x.code - 256) id (x.vals[x.mask.low?.getD 0])) w
    completeRes w id)
  p.fills.foldl (fun s x => if x.code < 256 then settle s p.place x.code else s) s

/-- A long floating-point word: the destination is marked empty, result and flags come on completion (R126). -/
def runLong (x : Instr) (f : WordF) (wide : Bool) (val : State → Iss → Lane → Nat × Flags) (s : State) :
    Host.Outcome State Fault Refusal :=
  runWord x f.guard noWait noBad (fun s i =>
    match poisonTrap i (sourcesOf x) with
    | some t => .trap t
    | none =>
      if i.l = 0#32 then .retire s
      else
        let m := match f.dst with
          | .src (.s _) _ _ => Mask.one (i.l.low?.getD 0)
          | _ => i.l
        let res := resOf i.w s.nextId false i.l (fun l => (val s i l).2.toNat) i.pc (dstCode f.dst) false
        let fills := fillsOf f.dst (if wide then 2 else 1) m
          (fun k l => Val.clean (BitVec.ofNat 32 ((val s i l).1 / 2 ^ (32 * k))))
        .retire (addPend (modWarp s i.place (fun w => pushRes w res)) i.place .long i.l fills)) s

end Sys2Proof.Machine
end

