-- ==== Sys2Proof/Machine/Requests.lean ====
section
/-! DEFINITION. Translated accesses: the lookups they make in L2, the host lines they need, and reads past L1 (R212, R215, R220,
R222, R427, R441). -/

namespace Sys2Proof.Machine

open Sys2Proof

/-- One lane's access, translated: its lane, virtual and physical address and leaf. -/
structure Item where
  l : Lane
  va : Nat
  pa : Nat
  leaf : Nat
  deriving DecidableEq, Repr

/-- Whole lines and sectors that the accesses of one issue touch: for each line the sectors read and written, and the first
address in it. -/
def lineReqs (items : List Item) (n : Nat) (full : Nat → Bool) (wr : Bool) : List (Nat × BitVec 4 × BitVec 4 × Item) :=
  let pieces := items.flatMap (fun x => (List.range ((x.pa % 32 + n - 1) / 32 + 1)).map (fun j => ((x.pa / 32 + j) * 32, x)))
  let lines := (pieces.map (fun p => p.1 / 128)).dedup
  lines.filterMap (fun ln =>
    let ps := pieces.filter (fun p => p.1 / 128 == ln)
    let rd := ps.foldl (fun (b : BitVec 4) p => if wr && full (p.1 / 32) then b else b ||| ((1#4) <<< (p.1 / 32 % 4))) 0#4
    let w := ps.foldl (fun (b : BitVec 4) p => if wr then b ||| ((1#4) <<< (p.1 / 32 % 4)) else b) 0#4
    ps.head?.map (fun p => (ln, rd, w, p.2)))

/-- Makes the L2 lookups of one issue: each line it touches is one lookup (R220). -/
def l2Requests (s : State) (p ctx : Nat) (cls : CacheClass) (counted : Bool) (l : List (Nat × BitVec 4 × BitVec 4 × Item)) :
    State :=
  l.foldl (fun s e =>
    l2Access s ⟨p, ctx, some e.2.2.2.va, cls, e.2.1, e.2.2.1, counted, pteHome e.2.2.2.leaf && pteCoh e.2.2.2.leaf⟩ (e.1 * 128)) s

/-- The key slot under which L1 holds a leaf's bytes (R427). -/
def l1Slot (s : State) (ctx leaf : Nat) : Option Nat := if pteHome leaf then none else ctxSlot s ctx

/-- The 64-byte line of an access that a host must give up first (R441). -/
def snoopNeeds (s : State) (wr : Bool) (x : Item) : Option Nat := snoopLine s x.leaf wr (x.pa / 64)

/-- The mark that a read through a leaf delivers: a POM page delivers every value poisoned (R222). -/
def pomMark (leaf : Nat) (m : Option Mark) : Option Mark := if ptePom leaf then some (m.getD .anon) else m

/-- Reads bytes of one sector past L1. -/
def sectorRead (s : State) (ctx leaf pa n : Nat) : State × List Byte × Option Mark :=
  let (s, b, m) := physRead s none (ctxKey s ctx (pteHome leaf)) pa n
  (s, b, pomMark leaf m)

end Sys2Proof.Machine
end

