-- ==== Sys2Proof/Machine/Spad.lean ====
section
/-! DEFINITION. Scratchpad: its bytes and poison marks, tile descriptors, the presence of chunks, and the start of copies
and stagings (R209, R249, R288, R289, R295, R298, R299, R307, R308). -/

namespace Sys2Proof.Machine

open Sys2Proof

/-! Bytes and marks of an allocation (R209, R259, R364). -/

/-- One byte. -/
def spadByte (g : Wg) (o : Nat) : Byte := FMap.getD g.spad o 0#8

/-- n bytes. -/
def spadBytes (g : Wg) (o n : Nat) : List Byte := (List.range n).map (fun i => spadByte g (o + i))

/-- The mark of the 32-byte sector of an offset. -/
def spadMark (g : Wg) (o : Nat) : Option Mark := FMap.get? g.spadPoison (o / 32)

/-- Writes one byte; a zero is not listed. -/
def spadPut (m : FMap Byte) (o : Nat) (b : Byte) : FMap Byte := if b = 0#8 then FMap.del m o else FMap.ins m o b

/-- Performs the stores of one issue on an allocation; `pa` is the offset. Poisoned data mark a sector, clean data over the
whole of it clear it (R259). -/
def spadStores (g : Wg) (l : List Store) : Wg :=
  let spad := l.foldl (fun m w => (List.range w.bytes.length).foldl (fun m j => spadPut m (w.pa + j) (w.bytes.getD j 0#8)) m)
    g.spad
  let pois := (storeSectors l).foldl (fun m sec =>
    match (l.filter (fun w => w.pa / 32 == sec)).findSome? (fun w => w.mark) with
    | some x => FMap.ins m sec x
    | none => if coveredBy l sec = 32 then FMap.del m sec else m) g.spadPoison
  { g with spad := spad, spadPoison := pois }

/-! Presence (R298). -/

/-- The state of a chunk. -/
def chunkOf (g : Wg) (k : Nat) : ChunkState := FMap.getD g.chunks k .present

/-- Sets the state of chunks; a present chunk is not listed. -/
def setChunks (g : Wg) (ks : List Nat) (x : ChunkState) : Wg :=
  { g with chunks := ks.foldl (fun m k => if x = .present then FMap.del m k else FMap.ins m k x) g.chunks }

/-- The chunks of a window. -/
def chunkList (d : BitVec 256) : List Nat := (List.range (dChunks d).2).map (fun i => (dChunks d).1 + i)

/-- The chunks that bytes o to o + n − 1 touch. -/
def chunksAt (o n : Nat) : List Nat := (List.range (if n = 0 then 0 else (o + n - 1) / 512 - o / 512 + 1)).map (fun i => o / 512 + i)

/-- A transfer into an allocation still has bytes to write in a chunk (R298). -/
def chunkOwed (s : State) (g k : Nat) : Bool :=
  s.xfers.any (fun e => e.2.wg == g && !e.2.out && dHas e.2.desc k && !e.2.landed.contains k)

/-- Lanes parked on chunks that are present issue again (R299). -/
def wakeChunks (s : State) (g : Nat) : State :=
  match wg? s g with
  | none => s
  | some x =>
    { s with warps := s.warps.map (fun e =>
        if !isLodge e.1 && e.2.wg == g then
          (e.1, { e.2 with parks := e.2.parks.filter (fun p =>
            match p.cause with
            | .chunk k => chunkOf x k != .present
            | _ => true) })
        else e) }

/-- Chunks to which nothing is owed any more become present. -/
def landChunks (s : State) (g : Nat) (ks : List Nat) : State :=
  let done := ks.filter (fun k => !chunkOwed s g k)
  wakeChunks (modWg s g (fun x =>
    setChunks x (done.filter (fun k => decide (chunkOf x k = .absent))) .present)) g

/-! What a transfer moves in one chunk. -/

/-- The elements of a window that lie in chunk k. -/
def chunkElems (d : BitVec 256) (k : Nat) : List Nat :=
  let lo := if 512 * k ≤ dSoff d then 0 else (512 * k - dSoff d) / dElem d
  let hi := min (dCount d) ((512 * (k + 1) - dSoff d) / dElem d)
  (List.range (hi - lo)).map (fun j => lo + j)

/-- How an engine's access names itself in a fault record (R296, R308). -/
def xferFaulter (x : Xfer) : Faulter := ⟨x.part, x.ctx, x.core, x.track, x.sup⟩

/-- The lookups of the elements of one chunk: each line is one lookup of class CLS, counted (R296, R220). -/
def xferLookups (s : State) (x : Xfer) (items : List Item) (full : Nat → Bool) : State :=
  l2Requests s x.part x.ctx (dCls x.desc) true (lineReqs items (dElem x.desc) full x.out)

/-- Reads the elements of a chunk in global memory for a transfer; the reader's core keeps nothing older of them in L1 (R250). -/
def xferRead (s : State) (x : Xfer) (items : List Item) : State × List (List Byte × Option Mark) :=
  items.foldl (fun (r : State × List (List Byte × Option Mark)) it =>
    let (s, b, m) := sectorRead r.1 x.ctx it.leaf it.pa (dElem x.desc)
    (l1Sync s x.core it.pa, r.2 ++ [(b, m)])) (xferLookups s x items (fun _ => false), [])

/-- Elements of a transfer with their translated addresses: those whose page is not denied, translates, is no TIER 3 one, and whose
line no host holds exclusive. -/
def xferItems (s : State) (x : Xfer) (ns : List Nat) : State × List (Nat × Item) :=
  let at' := ns.map (fun n => (n, (dGlobal x.desc n).toNat))
  let (s, ps) := ((at'.map (fun a => a.2 / 4096)).dedup).foldl (fun (r : State × List (Nat × Nat × Nat)) pg =>
    if x.denied.any (fun e => e.1 == pg) then r
    else
      match translate r.1 x.part x.ctx x.core x.sup .engineRead (pg * 4096) with
      | (s, .ok pa e) => (s, if pteTier e = 3 then r.2 else r.2 ++ [(pg, pa, e)])
      | (s, _) => (s, r.2)) (s, [])
  (s, at'.filterMap (fun a => (ps.find? (fun e => e.1 == a.2 / 4096)).bind (fun e =>
    let y : Item := ⟨0, a.2, e.2.1 + a.2 % 4096, e.2.2⟩
    if (snoopNeeds s false y).isSome then none else some (a.1, y))))

/-- The elements of chunk k that a transfer has not read. -/
def unreadElems (x : Xfer) (k : Nat) : List Nat :=
  if x.out || x.landed.contains k then [] else (chunkElems x.desc k).filter (fun n => (FMap.get? x.got n).isNone)

/-- A transfer into scratchpad reads its source where it stands in program order, at its issue: every element whose page translates
and whose line no host holds exclusive; the others are read before the workgroup's next write, or as they move (R249). -/
def readAhead (s : State) (x : Xfer) : State × Xfer :=
  (chunkList x.desc).foldl (fun (r : State × Xfer) k =>
    let ns := unreadElems r.2 k
    if ns.isEmpty then r
    else
      let (s, its) := xferItems r.1 r.2 ns
      if its.isEmpty then (s, r.2)
      else
        let (s, l) := xferRead s r.2 (its.map Prod.snd)
        (s, { r.2 with got := (its.zip l).foldl (fun m e => FMap.ins m e.1.1 e.2) r.2.got })) (s, x)

/-- A transfer in flight reads what it can of what it has not read. -/
def readMore (s : State) (id : Nat) : State :=
  match FMap.get? s.xfers id with
  | none => s
  | some x =>
    if x.failed.isSome || !x.denied.isEmpty then s
    else
      let (s, x) := readAhead s x
      { s with xfers := FMap.ins s.xfers id x }

/-- Before a thread of a workgroup writes, the transfers into its scratchpad, whose reads stand at their issue, read what they have
still to read and can (R249). -/
def catchUp (s : State) (g : Nat) : State :=
  ((s.xfers.filter (fun e => e.2.wg == g && !e.2.out)).map Prod.fst).foldl readMore s

/-! The region table (R304 to R308). -/

/-- A transfer enters the engine (R249); its chunks become absent (R298). -/
def addXfer (s : State) (x : Xfer) : State :=
  let (s, x) := readAhead s x
  let s := { s with xfers := FMap.ins s.xfers s.nextId x, nextId := s.nextId + 1 }
  if x.out then s else modWg s x.wg (fun g => setChunks g (chunkList x.desc) .absent)

/-- Begins the staging of entry e of a workgroup, for a core and track (R307, R308). -/
def startStaging (s : State) (g e core track : Nat) (sup : Bool) : State :=
  match wg? s g with
  | none => s
  | some x =>
    match FMap.get? x.regions e with
    | none => s
    | some r =>
      if r.staged || !dV r.desc then s
      else if dCount r.desc = 0 then modWg s g (fun x => { x with regions := FMap.ins x.regions e { r with staged := true } })
      else
        let id := s.nextId
        let s := modWg s g (fun x => { x with regions := FMap.ins x.regions e { r with staged := true, flight := some id } })
        addXfer s ⟨core, track, x.part, x.ctx, g, none, false, sup, r.desc, false, none, some e, none, [], none, [], none, 0, [], [], []⟩

/-- The valid LAZY entry that arms a chunk. -/
def armedBy (x : Wg) (k : Nat) : Option Nat :=
  (x.regions.find? (fun e => dV e.2.desc && dLazy e.2.desc && !e.2.staged && dHas e.2.desc k)).map Prod.fst

/-- Starts the stagings that arm some chunks (R299, R307). -/
def rouse (s : State) (g : Nat) (ks : List Nat) (core track : Nat) (sup : Bool) : State :=
  ks.foldl (fun s k =>
    match (wg? s g).bind (fun x => armedBy x k) with
    | some e => startStaging s g e core track sup
    | none => s) s

/-- The chunks of a list that are not present, after armed ones have been started. -/
def missing (s : State) (g : Nat) (ks : List Nat) : List Nat :=
  match wg? s g with
  | none => []
  | some x => ks.filter (fun k => chunkOf x k != .present)

end Sys2Proof.Machine
end

