-- ==== Sys2Proof/Machine/Access.lean ====
section
/-! DEFINITION. What the memory instructions share: addresses, the checks of R258, reads, writes and read-modify-writes of
translated addresses, and the partition's control block as TIER-3 leaves reach it (R208, R212, R220, R224, R257 to R265, R423,
R441, R442). -/

namespace Sys2Proof.Machine

open Sys2Proof

/-- Bytes of an SZ code (R93, R260). -/
def szBytes (n : Nat) : Nat :=
  match n with
  | 0 | 1 => 1
  | 2 | 3 => 2
  | 4 => 4
  | 5 => 8
  | _ => 16

/-- The offset of a format M word. -/
def mOff (m : WordM) : Int := m.off.toInt

/-- A lane's global address (R80). -/
def globalAddr (s : State) (i : Iss) (m : WordM) (l : Lane) : Nat :=
  ofInt 64 ((srcVal s i (.int 64) m.base l : Int) + mOff m)

/-- A lane's scratchpad offset, exact (R209). -/
def spadAddr (s : State) (i : Iss) (m : WordM) (l : Lane) : Int := (srcVal s i (.int 32) m.base l : Int) + mOff m

/-- A uniform access (R257). -/
def uniformAcc (m : WordM) : Bool :=
  m.base.isS && (match m.data with
    | .src (.v _) _ _ => false
    | _ => true)

/-- The lanes that access: the lowest of L for a uniform access (R257). -/
def accLanes (i : Iss) (m : WordM) : List Lane := if uniformAcc m then (i.l.low?).toList else i.l.lanes

/-- The lanes that a lane's access stands for. -/
def accMask (i : Iss) (m : WordM) (l : Lane) : Mask := if uniformAcc m then i.l else Mask.one l

/-- The sources of a word that are its address operands, or with its data (R258, R259). -/
def addressRefs (x : Instr) (data : Bool) : List SrcRef := (sourcesOf x).filter (fun r => r.opnd == 5 || data)

/-- The union of masks. -/
def maskOr (l : List Mask) : Mask := l.foldl (fun a b => a ||| b) 0#32

/-- What the checks before an access give. -/
inductive Checked where
  | go (s : State) (items : List Item)
  | stop (r : Res)

/-- What one lane's translation gives. -/
inductive Lookup where
  | item (x : Item)
  | park (c : ParkCause) (m : Mask)
  | trap (code detail : Nat) (m : Mask)
  deriving DecidableEq, Repr

/-- The leaf that stands for a page of device control space where a Lodge thread of partition p reaches one by its device address: as
R423's leaves do, a page of the partition's control block, and with the address itself as its frame a page of the descriptors, of
Cairn or of the fuse map (R419, R422, R456, R463). -/
def spaceLeaf (p va : Nat) : Option Nat :=
  let leaf (frame : Nat) : Nat := 3 * 2 ^ 61 + frame * 4096
  if va / 65536 = 0x0300 + p then some (leaf (va / 4096 % 16))
  else if (0x02000000 ≤ va ∧ va < 0x02002000) ∨ (0x05000000 ≤ va ∧ va < 0x05021000) ∨ va / 4096 = 0x06000 then some (leaf (va / 4096))
  else none

/-- Translates one lane's access (R224, R225, R451). A Lodge thread has no warp that could park: a failed translation traps it at once
with its KIND as DETAIL (R384), and its tier miss, for which R224 gives no KIND, with 7, NOPOOL's (DESIGN CHOICE, log 117). -/
def lookup (i : Iss) (acc : Access) (t3 : Bool) (s : State) (l : Lane) (m : Mask) (va : Nat) : State × Lookup :=
  let f := faulterOf i.place i.w
  let (s, x) := match (if isLodge i.place then spaceLeaf i.w.part va else none) with
    | some e => (s, Xlate.ok 0 e)
    | none => translate s i.w.part i.w.ctx f.core f.sup acc va
  match x with
  | .ok pa e => if pteTier e = 3 ∧ !t3 then (s, .trap 6 0x15 m) else (s, .item ⟨l, va, pa, e⟩)
  | .lost k c => (s, .trap 0xA (c * 256 + k) m)
  | .fail k _ _ =>
    if isLodge i.place then (s, .trap 6 k m)
    else
      let (s, c) := parkCause s f acc (va / 4096) x
      (s, match c with
        | some c => .park c m
        | none => .trap 6 k m)
  | .miss =>
    if isLodge i.place then (s, .trap 6 7 m)
    else
      let (s, c) := parkCause s f acc (va / 4096) x
      (s, match c with
        | some c => .park c m
        | none => .trap 6 7 m)

/-- Translates every lane's access; nothing is parked on where some lane traps. -/
def lookups (i : Iss) (acc : Access) (t3 : Bool) : List (Lane × Mask × Nat) → State → State × List Lookup
  | [], s => (s, [])
  | (l, m, va) :: t, s =>
    let (s, x) := lookup i acc t3 s l m va
    let (s, xs) := lookups i acc t3 t s
    (s, x :: xs)

/-- Parks lanes on causes. -/
def parkAll (ps : List (ParkCause × Mask)) (w : Warp) : Warp := ps.foldl (fun w p => parkLanes w p.1 p.2 false) w

/-- A denial that the word at this PC meets (R226). -/
def dataDenied (i : Iss) : Option Denied :=
  i.w.denied.find? (fun d => !d.fetch && d.pc == i.pc && d.mask &&& i.l != 0#32)

/-- Translation of all lanes: check 6 of R258. -/
def translateAll (s : State) (i : Iss) (acc : Access) (t3 : Bool) (opnd : Nat) (as : List (Lane × Mask × Nat)) : Checked :=
  match dataDenied i with
  | some d => .stop (.trap ⟨6, d.kind, opnd, false, d.mask &&& i.l, []⟩)
  | none =>
    let (s', xs) := lookups i acc t3 as s
    match xs.find? (fun x => match x with
        | .trap _ _ _ => true
        | _ => false) with
    | some (.trap code detail _) =>
      .stop (.trap ⟨code, detail, opnd, false, maskOr (xs.map (fun x => match x with
        | .trap c d m => if c = code ∧ d = detail then m else 0#32
        | _ => 0#32)), []⟩)
    | _ =>
      let ps := xs.filterMap (fun x => match x with
        | .park c m => some (c, m)
        | _ => none)
      if ps.isEmpty then .go s' (xs.filterMap (fun x => match x with
        | .item y => some y
        | _ => none))
      else .stop (.hold s' (parkAll ps))

/-- The checks 2 to 6 of R258 on global addresses: `refs` the consumed sources, `all` every source of the word (R366), `align` the
alignment. -/
def checkGlobal (s : State) (i : Iss) (refs all : List SrcRef) (align : Nat) (acc : Access) (t3 : Bool) (opnd : Nat)
    (as : List (Lane × Mask × Nat)) : Checked :=
  match poisonWhere i refs all with
  | some t => .stop (.trap t)
  | none =>
    let high := maskOr (as.map (fun a => if a.2.2 / 2 ^ 57 ≠ 0 then a.2.1 else 0#32))
    let odd := maskOr (as.map (fun a => if a.2.2 % align ≠ 0 then a.2.1 else 0#32))
    if high != 0#32 then .stop (.trap ⟨6, 8, opnd, false, high, []⟩)
    else if odd != 0#32 then .stop (.trap ⟨5, 0, opnd, false, odd, []⟩)
    else translateAll s i acc t3 opnd as

/-- A 16-byte access without .A128 is two 8-byte accesses, at the address and 8 above it; every other is one (R258, R262). Gives
the bytes of each. -/
def accUnit (m : WordM) (n : Nat) : Nat := if n = 16 ∧ m.xm.toNat % 2 = 0 then 8 else n

/-- The accesses of a format M word of n bytes a lane: lane, the lanes it stands for, address. -/
def accList (s : State) (i : Iss) (m : WordM) (n : Nat) : List (Lane × Mask × Nat) :=
  (accLanes i m).flatMap (fun l => (List.range (n / accUnit m n)).map (fun j =>
    (l, accMask i m l, (globalAddr s i m l + accUnit m n * j) % 2 ^ 64)))

/-- The place of an access in its lane's data. -/
def itemOff (s : State) (i : Iss) (m : WordM) (x : Item) : Nat := (x.va + 2 ^ 64 - globalAddr s i m x.l) % 2 ^ 64

/-- The results of a lane's accesses put together. -/
def joinLanes (l : List (Lane × List Byte × List (Option Mark))) : List (Lane × List Byte × List (Option Mark)) :=
  ((l.map Prod.fst).dedup).map (fun x =>
    let r := l.filter (fun e => e.1 == x)
    (x, r.flatMap (fun e => e.2.1), r.flatMap (fun e => e.2.2)))

/-! The caches an access meets. -/

/-- Holds an issue until the host has answered for the lines it needs (R441). -/
def snoopHold (s : State) (i : Iss) (wr : Bool) (items : List Item) : Option Res :=
  let ls := (items.filterMap (snoopNeeds s wr)).dedup
  if ls.isEmpty then none
  else some (.hold (ls.foldl (fun s ln => sendSnoop s ln wr) s) (parkAll (ls.map (fun ln => (.snoop ln, i.a)))))

/-- A scope of the device or the system. -/
def wideScope (x : Scope) : Bool := x == .dev || x == .sys

/-- An acquire at a scope: it empties L1, and at .SYS the partition's clean scoped host sectors (R212, R442). -/
def acquire (s : State) (i : Iss) (x : Scope) : State :=
  let s := if wideScope x && !isLodge i.place then l1Clear s (placeCore i.place) else s
  if x == .sys then sysAcquire s i.w.part else s

/-- A release at a scope: at .SYS the partition's dirty scoped host sectors are written back (R442). -/
def releaseAt (s : State) (i : Iss) (x : Scope) : State := if x == .sys then sysRelease s i.w.part else s

/-- An ordering with an acquire side. -/
def ordAcq (o : Order) : Bool := o == .acq || o == .acqrel
/-- An ordering with a release side. -/
def ordRel (o : Order) : Bool := o == .rel || o == .acqrel

/-! Reads. -/

/-- Sectors of the accesses of an issue that L1 serves: each hit is one open choice (R212). -/
def l1Choices (s : State) (core ctx : Nat) : List (Nat × Nat) → State × List Nat
  | [] => (s, [])
  | (sec, leaf) :: t =>
    let (s, hit) : State × Bool :=
      match l1Look s core (l1Slot s ctx leaf) (sec * 32) 32 with
      | some _ => let (s, n) := takeFree s; (s, Config.l1Serves n)
      | none => (s, false)
    let (s, r) := l1Choices s core ctx t
    (s, if hit then sec :: r else r)

/-- Reads bytes of one sector for a load, from L1 where it serves; a miss fills L1 with the sector and its mark, and a read
past L1 leaves nothing older there (R212, R242). -/
def loadSector (s : State) (core ctx : Nat) (served : List Nat) (fill : Bool) (leaf pa n : Nat) :
    State × List Byte × Option Mark :=
  match (if served.contains (pa / 32) then l1Look s core (l1Slot s ctx leaf) pa n else none) with
  | some (b, m) => (s, b, pomMark leaf m)
  | none =>
    let (s, b, m) := physRead s none (ctxKey s ctx (pteHome leaf)) pa n
    if core ≥ 72 then (s, b, pomMark leaf m)
    else if fill then
      let whole := sectorBytes s (ctxKey s ctx (pteHome leaf)) (pa / 32)
      (l1Fill s core (l1Slot s ctx leaf) pa whole m, b, pomMark leaf m)
    else (l1Sync s core pa, b, pomMark leaf m)

/-- Reads the sectors that a request touches, each once (R220, R434), with the leaf it is reached by. -/
def readSectors (core ctx : Nat) (served : List Nat) (fill : Bool) :
    List (Nat × Nat) → State → State × List ((Nat × Nat) × List Byte × Option Mark)
  | [], s => (s, [])
  | (sec, leaf) :: t, s =>
    let (s, b, m) := loadSector s core ctx served fill leaf (sec * 32) 32
    let (s, r) := readSectors core ctx served fill t s
    (s, ((sec, leaf), b, m) :: r)

/-- One byte, with its mark, out of the sectors that a request has read. -/
def byteIn (got : List ((Nat × Nat) × List Byte × Option Mark)) (leaf a : Nat) : Byte × Option Mark :=
  match got.find? (fun e => e.1 == (a / 32, leaf)) with
  | some e => (e.2.1.getD (a % 32) 0#8, e.2.2)
  | none => (0#8, none)

/-- Reads the bytes of every item of a load, with its lookups. `past` keeps it out of L1; a load of class .EF may be served there
and does not fill it (R212). -/
def loadItems (s : State) (i : Iss) (cls : CacheClass) (past : Bool) (n : Nat) (items : List Item) :
    State × List (Item × List Byte × List (Option Mark)) :=
  let core := placeCore i.place
  let ctx := i.w.ctx
  let past := past || isLodge i.place
  let secs := (items.flatMap (fun x => (List.range ((x.pa % 32 + n - 1) / 32 + 1)).map (fun j => (x.pa / 32 + j, x.leaf)))).dedup
  let (s, served) := if past then (s, []) else l1Choices s core ctx secs
  let miss := items.filter (fun x => !(served.contains (x.pa / 32) && served.contains ((x.pa + n - 1) / 32)))
  let s := l2Requests s i.w.part ctx cls true (lineReqs miss n (fun _ => false) false)
  let (s, got) := readSectors core ctx served (!past && cls != .evictFirst) secs s
  (s, items.map (fun x =>
    let r := (List.range n).map (fun j => byteIn got x.leaf (x.pa + j))
    (x, r.map Prod.fst, r.map Prod.snd)))

/-! Writes. -/

/-- After the stores of an issue, an L1 sector that clean data cover wholly is clean (R259). -/
def l1Clean (s : State) (core : Nat) (slot : Option Nat) (l : List Store) : State :=
  (storeSectors l).foldl (fun s sec =>
    if coveredBy l sec = 32 ∧ (l.filter (fun w => w.pa / 32 == sec)).all (fun w => w.mark.isNone) then
      if (coreSt s core).l1.isEmpty then s
      else modCore s core (fun k => { k with l1 := k.l1.map (fun x =>
        if x.line = sec / 4 ∧ x.slot = slot then { x with poison := FMap.del x.poison (sec % 4) } else x) })
    else s) s

/-- Performs the stores of one issue at translated addresses, after the reads of earlier copies (R249): memory, the L1 sectors of its core, and L2 lookups (R212, R215,
R220, R259, R261). -/
def storeItems (s : State) (i : Iss) (cls : CacheClass) (n : Nat) (l : List (Item × List Byte × Option Mark)) : State :=
  let ctx := i.w.ctx
  let stores (h : Bool) : List Store :=
    (l.filter (fun e => pteHome e.1.leaf == h)).flatMap (fun e => splitStores 3 e.1.pa e.2.1 e.2.2)
  let full (sec : Nat) : Bool := coveredBy (stores false ++ stores true) sec == 32
  let s := l2Requests (catchUp s i.w.wg) i.w.part ctx cls true (lineReqs (l.map Prod.fst) n full true)
  [false, true].foldl (fun s h =>
    let st := stores h
    if st.isEmpty then s
    else
      let s := physStores s none (ctxKey s ctx h) st
      if isLodge i.place then s
      else
        let slot := if h then none else ctxSlot s ctx
        l1Clean (st.foldl (fun s w => l1Update s (placeCore i.place) slot w) s) (placeCore i.place) slot st) s

/-! Atomics (R263 to R265). -/

/-- F(old, b, c) of R263; none where nothing is written. -/
def atomicNew (aop n old b c : Nat) : Option Nat :=
  let t : FType := if n = 64 then .f64 else .f32
  match aop with
  | 0 => some ((old + b) % 2 ^ n)
  | 1 => some (if toSigned n b < toSigned n old then b else old)
  | 2 => some (if toSigned n b > toSigned n old then b else old)
  | 3 => some (min old b)
  | 4 => some (max old b)
  | 5 => some (old &&& b)
  | 6 => some (old ||| b)
  | 7 => some (old ^^^ b)
  | 8 => some b
  | 9 => if old = b then some c else none
  | 10 => some (if old ≥ b then 0 else old + 1)
  | 11 => some (if old = 0 ∨ old > b then b else old - 1)
  | 12 => some (fpAdd t .rne false false old b).1
  | 13 => some (fpMinMax t .min false old b).1
  | _ => some (fpMinMax t .max false old b).1

/-- The AtomicOp that a far atomic travels as (R265). -/
def atomicTravels (aop b c : Nat) : AtomicOp :=
  if aop = 0 then .fetchAdd (BitVec.ofNat 64 b) else if aop = 8 then .swap (BitVec.ofNat 64 b)
  else .cas (BitVec.ofNat 64 b) (BitVec.ofNat 64 c)

/-- The AtomicOp of a far atomic goes to the home (R265): its width, and the operation or the CAS that wrote. -/
def sendAtomic (s : State) (pa n : Nat) (op : AtomicOp) : State :=
  let k := pa % 2 ^ 48 / 2 ^ 45
  sendOut (farDone s pa (pa + n / 8)) (0x700 + k) (fun o => .fabricAtomic k o pa (n == 64) op)

/-- One read-modify-write at a translated address: the old value, its mark, and whether a write was kept from a poisoned
target (R264). A far one acts on what the home holds (R245, R265). `keep` is false for RED, which delivers nothing. -/
def rmw (s : State) (i : Iss) (x : Item) (aop n b c : Nat) (mark : Option Mark) (keep : Bool) :
    State × Nat × Option Mark × Bool :=
  let key := ctxKey s i.w.ctx (pteHome x.leaf)
  let s := if isLodge i.place then s else l1DropSector s (placeCore i.place) x.pa
  let s := if pteHome x.leaf then homeSector s x.pa else s
  let s := atomAccess (scrubAt s x.pa) x.pa false
  let (s, bytes, m) : State × List Byte × Option Mark :=
    if keep then sectorRead s i.w.ctx x.leaf x.pa (n / 8)
    else (if paReach s none x.pa then s else outRange s (partField none) x.pa,
      ((sectorBytes s key (x.pa / 32)).drop (x.pa % 32)).take (n / 8), none)
  let old := natOfBytes bytes
  if (FMap.get? s.poison (x.pa / 32)).isSome || !paReach s none x.pa || paLost s x.pa then (s, old, some (m.getD .anon), true)
  else
    match atomicNew aop n old b c with
    | none => (if pteHome x.leaf then sendAtomic s x.pa n (atomicTravels aop b c) else s, old, m, false)
    | some v =>
      let s := physStores s none key [⟨x.pa, bytesOfNat (n / 8) v, mark⟩]
      let s := if pteHome x.leaf then
          sendAtomic s x.pa n (if aop = 0 ∨ aop = 8 ∨ aop = 9 then atomicTravels aop b c
            else .cas (BitVec.ofNat 64 old) (BitVec.ofNat 64 v))
        else s
      (s, old, m, false)

/-! Register values of DATA. -/

/-- Register k of a data operand, with its mark; a 64-bit source is unmapped if either register of its pair is (R26). -/
def dataWord (s : State) (i : Iss) (wide : Bool) (o : Opd) (k : Nat) (l : Lane) : Val :=
  match o with
  | .src (.v n) _ _ => vSource i.w n.val (if wide then 2 else 1) k l
  | .src (.s n) _ _ => sRead i.w (n.val + k)
  | _ => Val.clean (BitVec.ofNat 32 (srcVal s i (.int (if wide then 64 else 32)) o l / 2 ^ (32 * k)))

/-- n registers of a data operand as one number. -/
def dataNat (s : State) (i : Iss) (wide : Bool) (o : Opd) (k n : Nat) (l : Lane) : Nat :=
  (List.range n).foldl (fun x j => x + (dataWord s i wide o (k + j) l).bits.toNat * 2 ^ (32 * j)) 0

/-- The first mark among n registers of a data operand. -/
def dataMark (s : State) (i : Iss) (wide : Bool) (o : Opd) (n : Nat) (l : Lane) : Option Mark :=
  (List.range n).findSome? (fun j => (dataWord s i wide o j l).mark)

/-- The trap of check 7 of R258, for the lanes whose poisoned data may not be stored. -/
def dataTrap (m : Mask) (ms : List Mark) : Trap := ⟨8, 0, 6, false, m, ms.dedup⟩

/-- Check 7 of R258: poisoned data bound for a page with HOME = 1 or TIER 2, or stored at .SYS; and, as any source that R365 does not
carry, for a register through a TIER-3 leaf (log 118). TLANES holds every lane whose data is poisoned (R366). -/
def offDevice (i : Iss) (m : WordM) (l : List (Item × List Byte × Option Mark)) : Option Trap :=
  let bad := l.filter (fun e => e.2.2.isSome && (pteHome e.1.leaf || decide (2 ≤ pteTier e.1.leaf) || m.scp == .sys))
  if bad.isEmpty then none
  else some (dataTrap (maskOr ((l.filter (fun e => e.2.2.isSome)).map (fun e => accMask i m e.1.l))) (bad.filterMap (fun e => e.2.2)))

/-- Where the accesses of an issue go, for the requests that carry them. -/
def reachOf (i : Iss) (m : WordM) (items : List Item) : List (Mask × Nat) := items.map (fun x => (accMask i m x.l, x.pa))

/-! The control block through a TIER-3 leaf (R423). -/

/-- The offset in the control block of an access; from 65,536 on, a Lodge thread's address in device control space. -/
def ctlOffset (x : Item) : Nat := bits x.leaf 12 36 * 4096 + x.va % 4096

/-- Earlier requests of the warp are still in flight. -/
def placePending (s : State) (pl : Nat) (k : PendKind → Bool) (m : Mask) : Bool :=
  s.pend.any (fun e => e.2.place == pl && k e.2.kind && e.2.lanes &&& m != 0#32)

end Sys2Proof.Machine
end

