-- ==== Sys2Proof/Machine/DeviceSpace.lean ====
section
/-! DEFINITION. Device control space as it is read (R419, R456, R458, R462, R463): partition descriptors, the fuse map, Cairn and
the registers. -/

namespace Sys2Proof.Machine

open Sys2Proof

/-- 64 bits of a bitmap. -/
def mapWord {n : Nat} (b : BitVec n) (k : Nat) : Nat := b.toNat / 2 ^ (64 * k) % 2 ^ 64

/-- Word k of a partition's descriptor (R419). -/
def descWord (d : Desc) (k : Nat) : Nat :=
  match k with
  | 0 => (if d.valid then 1 else 0) + (if d.prot then 2 else 0) + (if d.dbg then 4 else 0)
  | 1 => mapWord d.cores 0
  | 2 => mapWord d.cores 1
  | 3 => mapWord d.banks 0
  | 4 => mapWord d.banks 1
  | 13 => d.lpch.toNat + d.ports.toNat * 2 ^ 32 + d.gondolas.toNat * 2 ^ 38
  | 14 => d.lodge.toNat
  | 15 => d.keys.toNat
  | 16 => d.share.toNat
  | 17 => d.scrubPend % 2 ^ 64
  | 18 => d.ctxBase % 2 ^ 13 + d.ctxCnt % 2 ^ 13 * 2 ^ 16
  | k => if 5 ≤ k ∧ k < 13 then mapWord d.pch (k - 5) else 0

/-- Units that boot has disabled are cleared in the copy that stage 6 reads (R456). -/
def bootMask (s : State) (base n : Nat) : Nat :=
  ((List.range n).filter (fun i => s.bootOff.contains (base + i))).foldl (fun m i => m + 2 ^ i) 0

/-- Word k of the fuse map as it is read. -/
def fuseWord (s : State) (k : Nat) : Nat :=
  if k < 2 then mapWord s.fuse.cores k
  else if k < 4 then mapWord s.fuse.banks (k - 2)
  else if k < 12 then mapWord s.fuse.pch (k - 4) &&& not64 (bootMask s (64 * (k - 4)) 64)
  else if k < 76 then
    ((List.range 8).map (fun i => FMap.getD s.fuse.spare (8 * (k - 12) + i) 47 * 2 ^ (8 * i))).sum
  else if k = 76 then s.fuse.links.toNat &&& not64 (bootMask s 512 32)
  else if k = 77 then s.fuse.serial.toNat
  else if k < 82 then mapWord s.fuse.mgmtKey (k - 78)
  else 0

/-- A 64-bit word of device control space as a reader sees it. -/
def dctlView (s : State) (a : Nat) : Nat :=
  if 0x02000000 ≤ a ∧ a < 0x02002000 then
    descWord (part s ((a - 0x02000000) / 0x200)).desc ((a - 0x02000000) % 0x200 / 8)
  else if a = 0x05000000 then s.cairnwp.toNat
  else if 0x05001000 ≤ a ∧ a < 0x05021000 then
    mapWord (FMap.getD s.cairn ((a - 0x05001000) / 32) 0) ((a - 0x05001000) % 32 / 8)
  else if 0x06000000 ≤ a ∧ a < 0x06000290 then fuseWord s ((a - 0x06000000) / 8)
  else dctlWord s a

end Sys2Proof.Machine
end

