-- ==== Sys2Proof/Machine/Block.lean ====
section
/-! DEFINITION. Reading the registers of a partition's control block (R7, R219, R223, R226, R228, R345, R353, R375, R376, R404,
R414, R425, R430, R437, R440, R444, R452). -/

namespace Sys2Proof.Machine

open Sys2Proof

/-- PORTSTATk as the partition reads it: zero where it does not own the port (R437). -/
def portStat (s : State) (p k : Nat) : Nat :=
  if (part s p).desc.ports.getLsbD k then
    let x := port s k
    (if x.up then 2 ^ 31 else 0) + (if x.lost then 2 ^ 30 else 0) + x.cause % 8 * 2 ^ 26 + x.mode % 4 * 2 ^ 24 +
      x.width % 16 * 2 ^ 20 + x.rate % 16 * 2 ^ 16
  else 0

/-- The thread whose register lies at an offset of the Lodge's registers, if the offset is one of them (R425). -/
def lodgeReg (off : Nat) : Option Nat :=
  if 0x3000 ≤ off ∧ off < 0x3800 then some ((off - 0x3000) / 32)
  else if 0x3800 ≤ off ∧ off < 0x3C00 then some ((off - 0x3800) / 16)
  else none

/-- The 64-bit word at an offset (a multiple of 8) as a read returns it. -/
def blockWord (s : State) (p off : Nat) : Nat :=
  let q := part s p
  match lodgeReg off with
  | some j =>
    if !q.desc.lodge.getLsbD j then 0
    else if 0x3800 ≤ off ∧ off % 16 = 8 then setBits (ctlWord q off) 0 1 (if s.lodgeRun.getLsbD j then 1 else 0)
    else ctlWord q off
  | none =>
    if 0x0A00 ≤ off ∧ off < 0x0A60 then (if off % 16 = 0 then portStat s p ((off - 0x0A00) / 16) else 0)
    else if off = 0x0110 then setBits (ctlWord q off) 49 1 (if q.tlbinv.isEmpty then 0 else 1)
    else ctlWord q off

/-- A read of 4 or 8 bytes of the block, or, beyond its 64 KiB, of device control space as a Lodge thread reads it (R419, R422, R463). -/
def blockRead (s : State) (p off n : Nat) : Nat :=
  bits (if off < 65536 then blockWord s p (off / 8 * 8) else dctlView s (off / 8 * 8)) (8 * (off % 8)) (8 * n)

/-- What a host reads from BAR0 of the function of a partition that owns a HOST port (R422, R438). -/
def hostBlockRead (s : State) (p off n : Nat) : Option Nat :=
  if hostFunction s p && decide (off + n ≤ 65536) then some (blockRead s p off n) else none

end Sys2Proof.Machine
end

