-- ==== Sys2Proof/Machine/FloatConv.lean ====
section
/-! DEFINITION. Special functions, conversions and random numbers (R138 to R149), and the completion of long instructions
(R126). -/

namespace Sys2Proof.Machine

open Sys2Proof

/-- A special function of one source (R138). -/
def runFun (x : Instr) (f : WordF) (k : FFun) (s : State) : Host.Outcome State Fault Refusal :=
  let t := tyFp f
  runLong x f (t == .f64) (fun s i l => fpFun k t (wordMode i f) i.w.ftz (fpArg s i t f.a l)) s

/-- FRCP (R138). -/
def execFrcp (f : WordF) (s : State) : Host.Outcome State Fault Refusal := runFun (.frcp f) f .rcp s
/-- FRSQ (R138). -/
def execFrsq (f : WordF) (s : State) : Host.Outcome State Fault Refusal := runFun (.frsq f) f .rsq s
/-- FSQRT (R138). -/
def execFsqrt (f : WordF) (s : State) : Host.Outcome State Fault Refusal := runFun (.fsqrt f) f .sqrt s
/-- FEXP2 (R138). -/
def execFexp2 (f : WordF) (s : State) : Host.Outcome State Fault Refusal := runFun (.fexp2 f) f .exp2 s
/-- FLOG2 (R138). -/
def execFlog2 (f : WordF) (s : State) : Host.Outcome State Fault Refusal := runFun (.flog2 f) f .log2 s
/-- FSINPI (R138). -/
def execFsinpi (f : WordF) (s : State) : Host.Outcome State Fault Refusal := runFun (.fsinpi f) f .sinpi s
/-- FCOSPI (R138). -/
def execFcospi (f : WordF) (s : State) : Host.Outcome State Fault Refusal := runFun (.fcospi f) f .cospi s
/-- FTANH (R138). -/
def execFtanh (f : WordF) (s : State) : Host.Outcome State Fault Refusal := runFun (.ftanh f) f .tanh s

/-- FDIV (R138). -/
def execFdiv (f : WordF) (s : State) : Host.Outcome State Fault Refusal :=
  let t := tyFp f
  runLong (.fdiv f) f (t == .f64) (fun s i l =>
    fpDiv t (wordMode i f) i.w.ftz (fpArg s i t f.a l) (fpArg s i t f.b l)) s

/-- FCVT (R142): the ext field holds the source format and .NSAT. -/
def execFcvt (f : WordF) (s : State) : Host.Outcome State Fault Refusal :=
  let t := tyFp f
  let src := ftyOf (extVal f.c % 8)
  runFp (.fcvt f) f (t == .f64) (fun s i l =>
    fpCvt t src (extVal f.c / 8 % 2 == 1) (wordMode i f) i.w.ftz (fpArg s i src f.a l)) s

/-- FTOI (R143): TY is the source format, the ext field the integer type. -/
def execFtoi (f : WordF) (s : State) : Host.Outcome State Fault Refusal :=
  let t := tyFp f
  let d := ityOf (extVal f.c)
  runFp (.ftoi f) f (d.bits == 64) (fun s i l => fpToInt t d (wordMode i f) i.w.ftz (fpArg s i t f.a l)) s

/-- ITOF (R144): TY is the destination format. -/
def execItof (f : WordF) (s : State) : Host.Outcome State Fault Refusal :=
  let t := tyFp f
  let src := ityOf (extVal f.c)
  runFp (.itof f) f (t == .f64) (fun s i l =>
    intToFp t src (wordMode i f) i.w.ftz (srcVal s i (.int src.bits) f.a l)) s

/-- FCVTSR (R145): a stochastic rounding by the u32 in b. -/
def execFcvtsr (f : WordF) (s : State) : Host.Outcome State Fault Refusal :=
  let t := tyFp f
  runFp (.fcvtsr f) f false (fun s i l =>
    fpSRound t (extVal f.c == 1) i.w.ftz (fpArg s i .f32 f.a l) (u32Arg s i f.b l)) s

/-- FGETE (R146). -/
def execFgete (f : WordF) (s : State) : Host.Outcome State Fault Refusal :=
  runFp (.fgete f) f false (fun s i l => fpGetE (tyFp f) i.w.ftz (fpArg s i (tyFp f) f.a l)) s

/-- FGETM (R146). -/
def execFgetm (f : WordF) (s : State) : Host.Outcome State Fault Refusal :=
  let t := tyFp f
  runFp (.fgetm f) f (t == .f64) (fun s i l => fpGetM t i.w.ftz (fpArg s i t f.a l)) s

/-- RNGF (R149). -/
def execRngf (f : WordF) (s : State) : Host.Outcome State Fault Refusal :=
  let t := tyFp f
  runFp (.rngf f) f (t == .f64) (fun s i l => (rngToFp t (u32Arg s i f.a l), 0)) s

/-- Register k of a group source in a lane (R147). -/
def groupReg (i : Iss) (o : Opd) (span k : Nat) (l : Lane) : Nat :=
  match o with
  | .src (.v n) _ _ => (vSource i.w n.val span k l).bits.toNat
  | .src (.s n) _ _ => (sRead i.w (n.val + k)).bits.toNat
  | _ => 0

/-- RNGPX (R147, R148): long, four destination registers, no flags. -/
def execRngpx (f : WordF) (s : State) : Host.Outcome State Fault Refusal :=
  let x := Instr.rngpx f
  let out (i : Iss) (l : Lane) : List Nat :=
    philox (groupReg i f.a 4 0 l) (groupReg i f.a 4 1 l) (groupReg i f.a 4 2 l) (groupReg i f.a 4 3 l)
      (groupReg i f.b 2 0 l) (groupReg i f.b 2 1 l)
  runWord x f.guard noWait noBad (fun s i =>
    match poisonTrap i (sourcesOf x) with
    | some t => .trap t
    | none =>
      if i.l = 0#32 then .retire s
      else
        let m := match f.dst with
          | .src (.s _) _ _ => Mask.one (i.l.low?.getD 0)
          | _ => i.l
        .retire (addPend s i.place .long i.l
          (fillsOf f.dst 4 m (fun k l => Val.clean (BitVec.ofNat 32 ((out i l).getD k 0)))))) s

/-- A long instruction completes (R126); a number that names none does nothing. -/
def execLongComplete (id : Nat) (s : State) : Host.Outcome State Fault Refusal :=
  match FMap.get? s.pend id with
  | some p => .next (if p.kind = .long then completePend s id p else s)
  | none => .next s

/-! The paired word (R88 to R91). -/

/-- One half-op's value and flags: A is HD, B is HS (R91, R104, R128). -/
def halfVal (s : State) (i : Iss) (h : Half) (l : Lane) : Nat × Flags :=
  let a := (vRead i.w h.hd.val l).bits.toNat
  let ib := srcVal s i (.int 32) h.hs l
  let t := hmodFmt h.hmod.toNat
  let fb := srcVal s i (.fp t) h.hs l
  let pb := srcVal s i (.packed t) h.hs l
  let it : IType := if h.hmod.toNat / 16 = 1 then .z32 else .s32
  let r := modeOf i.w (h.hmod.toNat % 8)
  let z := i.w.ftz
  let int (x : Int) : Nat × Flags := (it.enc x, 0)
  match h.op with
  | .iadd => int (it.val a + it.val ib)
  | .isub => int (it.val a - it.val ib)
  | .imul => int (it.val a * it.val ib)
  | .imin => int (min (it.val a) (it.val ib))
  | .imax => int (max (it.val a) (it.val ib))
  | .and => (a &&& ib, 0)
  | .or => (a ||| ib, 0)
  | .xor => (a ^^^ ib, 0)
  | .andn => (a &&& notN 32 ib, 0)
  | .shl => (shlN 32 a ib, 0)
  | .shr => (shrN 32 a ib, 0)
  | .sar => (sarN 32 a ib, 0)
  | .fadd => fpAdd t r z false a fb
  | .fsub => fpAdd t r z true a fb
  | .fmul => fpMul t r z a fb
  | .fmin => fpMinMax t .min z a fb
  | .fmax => fpMinMax t .max z a fb
  | .fadd2 => fpPacked (fun j => fpAdd t r z false (fpElem t a j) (fpElem t pb j))
  | .fmul2 => fpPacked (fun j => fpMul t r z (fpElem t a j) (fpElem t pb j))

/-- A half-op is a floating-point one. -/
def halfIsFp : HalfOp → Bool
  | .fadd | .fsub | .fmul | .fmin | .fmax | .fadd2 | .fmul2 => true
  | _ => false

/-- Writes a half's result, and merges its flags (R90). -/
def halfWrite (s : State) (i : Iss) (h : Half) (low : Bool) (w : Warp) : Warp :=
  let w := vWrite w h.hd.val i.l (fun l => Val.clean (BitVec.ofNat 32 (halfVal s i h l).1))
  if halfIsFp h.op then pushRes w (resOf w 0 true i.l (fun l => (halfVal s i h l).2.toNat) i.pc h.hd.val low) else w

/-- The paired word (R90): both halves read before either writes, and the high half is merged first. -/
def execPairedWord (hi lo : Half) (s : State) : Host.Outcome State Fault Refusal :=
  let x := Instr.pairedWord hi lo
  runWord x Guard.always noWait noBad (consuming x (fun s i w => halfWrite s i lo true (halfWrite s i hi false w))) s

end Sys2Proof.Machine
end

