-- ==== Sys2Proof/Machine/Lane.lean ====
section
/-! DEFINITION. Group 0x6: cross-lane instructions, WSYNC, REFORM and BAR (R182 to R188, R192 to R207). -/

namespace Sys2Proof.Machine

open Sys2Proof

/-! Presence and MISS (R192, R193). -/

/-- The member mask M. -/
def memberMask (s : State) (i : Iss) (o : Opd) : Mask := BitVec.ofNat 32 (uniVal s i (.int 32) o)

/-- The present set P = M ∩ A ∩ G (R192). -/
def presentSet (s : State) (i : Iss) (o : Opd) : Mask := memberMask s i o &&& i.l

/-- The predicate that q names (R192). -/
def missPred (f : WordF) : Nat := f.mod.toNat % 8

/-- MISS of the instructions that take a member mask (R192). -/
def missOf (s : State) (i : Iss) (o : Opd) : Bool := memberMask s i o &&& ~~~i.l != 0#32

/-- Writes q in every lane of L (R192). -/
def writeMiss (f : WordF) (i : Iss) (w : Warp) (m : Lane → Bool) : Warp := pWrite w (missPred f) i.l (Mask.ofFn m)

/-- The sources of a word other than the value in A, which carries its marks (R194). -/
def sideSources (x : Instr) : List SrcRef := (sourcesOf x).filter (fun r => r.opnd != 1)

/-- .B64 of SHFL, BCAST and MATCH (R196). -/
def laneWide (f : WordF) : Bool := f.mod.getLsbD 3

/-! Moving values (R202, R203). -/

/-- src(l) of SHFL, none outside 0 to 31 (R202). -/
def shflSource (mode : Nat) (l : Lane) (b : Nat) : Option Lane :=
  let j : Int := match mode with
    | 0 => (b % 32 : Nat)
    | 1 => (l.val : Int) - b
    | 2 => (l.val : Int) + b
    | _ => (l.val ^^^ (b % 32) : Nat)
  if h : j.toNat < 32 then (if 0 ≤ j then some ⟨j.toNat, h⟩ else none) else none

/-- What lane l of a SHFL receives, and its MISS (R202). -/
def shflLane (s : State) (i : Iss) (f : WordF) (k : Nat) (l : Lane) : Val × Bool :=
  let t := OpT.int (if laneWide f then 64 else 32)
  match shflSource (f.mod.toNat / 16) l (srcVal s i (.int 32) f.b l) with
  | none => (carried s i t f.a k l, false)
  | some j => if (presentSet s i f.c).has j then (carried s i t f.a k j, false) else (Val.clean 0, true)

/-- SHFL (R202). -/
def execShfl (f : WordF) (s : State) : Host.Outcome State Fault Refusal :=
  runWord (.shfl f) f.guard noWait noBad (fun s i =>
    match poisonWhere i (sideSources (.shfl f)) (sourcesOf (.shfl f)) with
    | some t => .trap t
    | none => .retire (modWarp s i.place (fun w =>
        writeMiss f i (writeCarried w i.l f.dst (laneWide f) (fun k l => (shflLane s i f k l).1))
          (fun l => (shflLane s i f 0 l).2)))) s

/-- BCAST (R203). -/
def execBcast (f : WordF) (s : State) : Host.Outcome State Fault Refusal :=
  runWord (.bcast f) f.guard noWait noBad (fun s i =>
    match poisonWhere i (sideSources (.bcast f)) (sourcesOf (.bcast f)) with
    | some t => .trap t
    | none =>
      let j : Lane := if f.mod.getLsbD 4 then i.l.low?.getD 0
        else ⟨uniVal s i (.int 32) f.b % 32, Nat.mod_lt _ (by decide)⟩
      let t := OpT.int (if laneWide f then 64 else 32)
      let here := i.l.has j
      .retire (modWarp s i.place (fun w =>
        writeMiss f i (writeCarried w i.l f.dst (laneWide f)
          (fun k _ => if here then carried s i t f.a k j else Val.clean 0)) (fun _ => !here)))) s

/-! VOTE and MATCH (R200, R201). -/

/-- VOTE (R200). -/
def execVote (f : WordF) (s : State) : Host.Outcome State Fault Refusal :=
  runWord (.vote f) f.guard noWait noBad (fun s i =>
    match poisonTrap i (sourcesOf (.vote f)) with
    | some t => .trap t
    | none =>
      let p := presentSet s i f.c
      let yes := Mask.ofFn (fun l => p.has l && predVal i f.a l)
      .retire (modWarp s i.place (fun w =>
        writeMiss f i (match f.mod.toNat / 8 with
          | 0 => writePred w i.l f.dst (fun _ => yes == p)
          | 1 => writePred w i.l f.dst (fun _ => yes != 0#32)
          | _ => writeDst w i.l f.dst false (fun _ => yes.toNat)) (fun _ => missOf s i f.c)))) s

/-- The mask that MATCH writes to lane l (R201). -/
def matchLane (s : State) (i : Iss) (f : WordF) (l : Lane) : Mask :=
  let p := presentSet s i f.c
  let v (j : Lane) : Nat := srcVal s i (.int (if laneWide f then 64 else 32)) f.a j
  if f.mod.toNat / 16 = 0 then (if p.has l then Mask.ofFn (fun j => p.has j && v j == v l) else 0#32)
  else
    match p.low? with
    | none => 0#32
    | some j0 => if p.lanes.all (fun j => v j == v j0) then p else 0#32

/-- MATCH (R201). -/
def execMatchx (f : WordF) (s : State) : Host.Outcome State Fault Refusal :=
  runWord (.matchx f) f.guard noWait noBad (consuming (.matchx f) (fun s i w =>
    writeMiss f i (writeDst w i.l f.dst false (fun l => (matchLane s i f l).toNat)) (fun _ => missOf s i f.c))) s

/-! Combining lanes (R197 to R199). -/

/-- The operation of ROP 0 to 5 (R197). -/
def intCombine (t : IType) (rop a b : Nat) : Nat :=
  match rop with
  | 0 => (a + b) % 2 ^ t.bits
  | 1 => t.enc (min (t.val a) (t.val b))
  | 2 => t.enc (max (t.val a) (t.val b))
  | 3 => a &&& b
  | 4 => a ||| b
  | _ => a ^^^ b

/-- The identities of ROP 0 to 5 (R197). -/
def intIdentity (t : IType) (rop : Nat) : Nat :=
  match rop with
  | 1 => t.enc t.hi
  | 2 => t.enc t.lo
  | 3 => 2 ^ t.bits - 1
  | _ => 0

/-- The variant of ROP 7 (R197). -/
def minMaxOf (n : Nat) : MinMax := if n = 0 then .min else if n = 1 then .max else if n = 2 then .minm else .maxm

/-- One combination of REDX and SCANX, and the flags it raises (R197). -/
def combine (i : Iss) (f : WordF) (a b : Nat) : Nat × Flags :=
  let rop := f.sub.toNat
  let ext := extVal f.b
  if rop < 6 then (intCombine (tyInt f) rop a b, 0)
  else if rop = 6 then fpAdd (tyFp f) (modeOf i.w (ext % 8)) i.w.ftz false a b
  else fpMinMax (tyFp f) (minMaxOf (ext / 8 % 4)) i.w.ftz a b

/-- The identity of REDX and SCANX (R197). -/
def identityOf (f : WordF) : Nat :=
  let rop := f.sub.toNat
  if rop < 6 then intIdentity (tyInt f) rop
  else if rop = 6 then (tyFp f).fmt.packZero false
  else (tyFp f).fmt.packInf (extVal f.b / 8 % 2 = 1)

/-- A lane's value as the combination reads it (R198). -/
def combineArg (s : State) (i : Iss) (f : WordF) (l : Lane) : Nat :=
  if f.sub.toNat < 6 then srcVal s i (.int (tyInt f).bits) f.a l
  else fpKeep (tyFp f) i.w.ftz (fpArg s i (tyFp f) f.a l)

/-- One level of the tree of R72. -/
def treeLevel (op : Nat → Nat → Nat × Flags) : List (Option (Nat × Flags)) → List (Option (Nat × Flags))
  | some (a, fa) :: some (b, fb) :: t => let (r, fl) := op a b; some (r, fa ||| fb ||| fl) :: treeLevel op t
  | some x :: none :: t => some x :: treeLevel op t
  | none :: y :: t => y :: treeLevel op t
  | l => l

/-- TreeReduce over 32 nodes (R72). -/
def treeReduce (op : Nat → Nat → Nat × Flags) (l : List (Option (Nat × Flags))) : Option (Nat × Flags) :=
  ((treeLevel op (treeLevel op (treeLevel op (treeLevel op (treeLevel op l)))))[0]?).bind id

/-- What REDX computes: the result, and the flags of every node (R198). -/
def redxValue (s : State) (i : Iss) (f : WordF) : Nat × Flags :=
  let p := presentSet s i f.c
  (treeReduce (combine i f) (allLanes.map (fun l => if p.has l then some (combineArg s i f l, 0) else none))).getD
    (identityOf f, 0)

/-- Writes a result of the word's type, and its flags where it is a floating-point operation. -/
def writeCombined (s : State) (i : Iss) (f : WordF) (val : Lane → Nat × Flags) (w : Warp) : Warp :=
  let wide := if f.sub.toNat < 6 then (tyInt f).bits == 64 else tyFp f == .f64
  let w := writeDst w i.l f.dst wide (fun l => (val l).1)
  let w := if f.sub.toNat < 6 then w else mergeFlags i (dstCode f.dst) (fun l => (val l).2) w
  writeMiss f i w (fun _ => missOf s i f.c)

/-- REDX (R198). -/
def execRedx (f : WordF) (s : State) : Host.Outcome State Fault Refusal :=
  runWord (.redx f) f.guard noWait noBad (consuming (.redx f) (fun s i w =>
    let r := redxValue s i f
    writeCombined s i f (fun _ => r) w)) s

/-- What lane l of a SCANX receives (R199). -/
def scanLane (s : State) (i : Iss) (f : WordF) (l : Lane) : Nat × Flags :=
  let p := presentSet s i f.c
  let exc := (extVal f.b).testBit 5
  let js := allLanes.filter (fun j => p.has j && (if exc then decide (j < l) else decide (j ≤ l)))
  (js.foldl (fun (acc : Option (Nat × Flags)) j =>
    match acc with
    | none => some (combineArg s i f j, 0)
    | some (a, fl) => let (r, g) := combine i f a (combineArg s i f j); some (r, fl ||| g)) none).getD (identityOf f, 0)

/-- SCANX (R199). -/
def execScanx (f : WordF) (s : State) : Host.Outcome State Fault Refusal :=
  runWord (.scanx f) f.guard noWait noBad (consuming (.scanx f) (fun s i w =>
    writeCombined s i f (scanLane s i f) w)) s

/-! Waiting for lanes (R204, R206, R207). -/

/-- The guard of a word is "always". -/
def always (g : Guard) : Bool := g == Guard.always

/-- A lane of the warp is in supervisor mode, on a core (R379). -/
def inService (i : Iss) : Bool := !isLodge i.place && i.w.svclane.isSome

/-- WSYNC's ILLEGAL conditions (R207, R379). -/
def wsyncBad (f : WordF) (_ : State) (i : Iss) : Option Nat := firstBad [(!always f.guard, 0x17), (inService i, 0x32)]

/-- WSYNC waits until its group holds every lane of M ∩ C (R204). With wait bit 0 on an empty s register, M is the register's old
bits, so that the LEASE of a group that lacks a lane of them comes after the wait: no rule orders the two (DESIGN CHOICE, log 103). In
supervisor mode it waits for no lane, and is ILLEGAL (R379). -/
def wsyncWait (f : WordF) (s : State) (i : Iss) : Bool := !inService i && !Mask.sub (memberMask s i f.a &&& i.w.conv) i.a

/-- WSYNC (R204). -/
def execWsync (f : WordF) (s : State) : Host.Outcome State Fault Refusal :=
  runWord (.wsync f) f.guard (wsyncWait f) (wsyncBad f) (consuming (.wsync f) (fun _ _ w => w)) s

/-- The FPE trap that FENCE, BAR and BARW find (R31). -/
def fpeTrap (i : Iss) : Option Trap := if i.w.xrec.v then some ⟨9, 0, 0, false, i.w.xrec.elanes, []⟩ else none

/-- FENCE, BAR and BARW wait for outstanding floating-point instructions (R16, R31). -/
def fpWait (_ : State) (i : Iss) : Bool := fpOutstanding i.w

/-- BAR's ILLEGAL conditions (R207, R379). -/
def barBad (f : WordF) (_ : State) (i : Iss) : Option Nat :=
  firstBad [(!always f.guard, 0x17), (i.w.intrap, 0x19), (inService i, 0x32)]

/-- BAR (R206): the lanes arrive and wait. -/
def execBar (f : WordF) (s : State) : Host.Outcome State Fault Refusal :=
  runWord (.bar f) f.guard fpWait (barBad f) (fun s i =>
    match fpeTrap i with
    | some t => .trap t
    | none => .stay (barCheck (modWarp s i.place (fun w => { w with
        arrived := w.arrived ||| i.a
        barEdges := if edgeDue i then i.pc :: w.barEdges else w.barEdges })) i.w.wg)) s

/-! REFORM (R182 to R184, R205). -/

/-- The label of a REFORM. -/
def reformLabel (i : Iss) (b : WordB) : Dword := dispTarget i b
/-- The registers it carries. -/
def reformRegs (b : WordB) : Nat := b.bmod.toNat % 64

/-- The number of the line a REFORM files into: that of its key, else the lowest free one (R182). -/
def reformLine (s : State) (i : Iss) (b : WordB) : Option Nat :=
  let ls := (coreSt s (placeCore i.place)).lines
  match ls.find? (fun e => e.2.wg == i.w.wg && e.2.label == reformLabel i b) with
  | some e => some e.1
  | none => (List.range 16).find? (fun n => (FMap.get? ls n).isNone)

/-- The line as it stands. -/
def reformState (s : State) (i : Iss) (b : WordB) (n : Nat) : LiftLine :=
  FMap.getD (coreSt s (placeCore i.place)).lines n ⟨i.w.wg, reformLabel i b, [], none⟩

/-- REFORM's ILLEGAL conditions (R205, R379, R402). -/
def reformBad (_ : State) (i : Iss) : Option Nat :=
  firstBad [(atLend i, 0x14), (!i.w.loops.isEmpty, 0x18), (i.w.intrap, 0x19), (inService i, 0x32), (i.w.uiin, 0x37)]

/-- A REFORM that cannot file, or that carries an empty register, is not ready (R182 to R184); in supervisor mode it is ILLEGAL
(R379). -/
def reformWait (b : WordB) (s : State) (i : Iss) : Bool :=
  !inService i && ((match reformLine s i b with
    | none => true
    | some n => decide ((reformState s i b n).entries.length ≥ 32)) ||
  (List.range (reformRegs b)).any (vBusy i.w))

/-- The lanes that an issue files (R183). -/
def filedLanes (i : Iss) (e : Nat) : List Lane := i.l.lanes.take (32 - e)

/-- The entry of a lane (R184). -/
def lineEntry (s : State) (i : Iss) (b : WordB) (l : Lane) : LineEntry :=
  let clock := coreClock s (placeCore i.place)
  ⟨i.w.tid[l], BitVec.ofNat 7 ((List.range 7).foldl (fun x p => if pRead i.w p l then x + 2 ^ p else x) 0),
    (List.range (reformRegs b)).map (fun r => vRead i.w r l), clock + i.w.refage.toNat, s.now, i.w.widx⟩

/-- REFORM (R205). -/
def execReform (b : WordB) (s : State) : Host.Outcome State Fault Refusal :=
  runWord (.reform b) b.guard (reformWait b) reformBad (fun s i =>
    match reformLine s i b with
    | none => .hold s id
    | some n =>
      let line := reformState s i b n
      let ls := filedLanes i line.entries.length
      let m := Mask.ofFn (fun l => ls.contains l)
      match (if i.w.stale then (List.range (reformRegs b)).find? (fun r => !vMapped i.w r) else none) with
      | some r => .trap ⟨3, r, 6, false, m, []⟩
      | none =>
        if m = 0#32 then .stay s
        else
          let entries := line.entries ++ ls.map (lineEntry s i b)
          let new : LiftLine := { line with entries := entries, trig := if entries.length = 32 then some .full else line.trig }
          let s := modCore s (placeCore i.place) (fun c => { c with lines := FMap.ins c.lines n new })
          .stay (barCheck (modWarp s i.place (fun w => exitLanes w m)) i.w.wg)) s

end Sys2Proof.Machine
end

