-- ==== Sys2Proof/Machine/Tile.lean ====
section
/-! DEFINITION. Tile shapes (R318, R319) and the scratchpad bytes that queued matrix instructions touch (R252, R325, R329, R331,
R333). -/

namespace Sys2Proof.Machine

open Sys2Proof

/-! TCFG (R318). -/

/-- TYPE. -/
def tType (t : Nat) : Nat := bits t 28 4
/-- TR. -/
def tTr (t : Nat) : Bool := t.testBit 27
/-- MX. -/
def tMx (t : Nat) : Bool := t.testBit 26
/-- COLS. -/
def tCols (t : Nat) : Nat := bits t 12 12
/-- ROWS. -/
def tRows (t : Nat) : Nat := bits t 0 12

/-- Bits of an element of a TYPE; 0 for one that is not assigned. -/
def tBits (ty : Nat) : Nat :=
  match ty with
  | 0 | 1 => 16
  | 2 => 32
  | 3 => 64
  | 4 | 5 | 8 | 9 => 8
  | 6 => 4
  | _ => 0

/-- Products of a unit step (R316). -/
def tK (ty : Nat) : Nat :=
  match ty with
  | 0 | 1 => 2
  | 4 | 5 | 8 | 9 => 4
  | 6 => 8
  | _ => 1

/-- Stored rows. -/
def tS (t : Nat) : Nat := if tTr t then tCols t else tRows t
/-- Elements of a stored row. -/
def tLs (t : Nat) : Nat := if tTr t then tRows t else tCols t
/-- Bytes of a stored row. -/
def tRb (t : Nat) : Nat := tLs t * tBits (tType t) / 8
/-- Scale bytes in use. -/
def tScales (t : Nat) : Nat := if tMx t then tS t * tLs t / 32 else 0

/-- The scratchpad ranges of a tile transfer (R329): offset and length. -/
def moveRanges (t off pitch : Nat) : List (Nat × Nat) :=
  let p := if pitch = 0 then tRb t else pitch
  (List.range (tS t)).map (fun s => (off + s * p, tRb t)) ++
    (if tMx t then [(off + tS t * p, tScales t)] else [])

/-! Queued matrix instructions. `src` holds what the word read at issue: TLD and TST their offset and pitch, ACCLD and ACCST
their offset, MLOOP n, aA, aB, dA and dB, MVLOOP its address, STRIDE and ROWS, ACCRD its column. -/

/-- A value read at issue. -/
def MatOp.arg (m : MatOp) (i : Nat) : Nat := m.src.getD i 0
/-- A latched TCFG. -/
def MatOp.cfg (m : MatOp) (i : Nat) : Nat := ((m.tcfg[i]?).getD 0).toNat

/-- The extension field of a position (R78). -/
def extOf (o : Opd) : Nat :=
  match o with
  | .ext n _ => n.val
  | _ => 0

/-- The tile register in position A. -/
def tileA (f : WordF) : Nat := extOf f.a % 8
/-- The tile register in position B. -/
def tileB (f : WordF) : Nat := extOf f.b % 8
/-- The accumulator in position C. -/
def accC (f : WordF) : Nat := extOf f.c % 2
/-- Buffer p of the A pair of an MLOOP. -/
def loopP (f : WordF) : Nat := bits f.mod.toNat 4 2
/-- Buffer q of the B pair. -/
def loopQ (f : WordF) : Nat := bits f.mod.toNat 2 2

/-- The scratchpad bytes a matrix instruction writes. -/
def matWrites (m : MatOp) : List (Nat × Nat) :=
  match m.word with
  | .tst f => moveRanges (m.cfg (tileA f)) (m.arg 0) (m.arg 1)
  | .accst _ => [(m.arg 0, 24576)]
  | _ => []

/-- Two ranges meet. -/
def meets (a b : Nat × Nat) : Bool := decide (a.1 < b.1 + b.2) && decide (b.1 < a.1 + a.2)

/-- The scratchpad bytes that a matrix instruction reads once, as they stand at its issue (R252). -/
def matReads (m : MatOp) : List (Nat × Nat) :=
  match m.word with
  | .tld f => moveRanges (m.cfg (tileA f)) (m.arg 0) (m.arg 1)
  | .accld _ => [(m.arg 0, 24576)]
  | _ => []

/-- A matrix instruction of a workgroup that was issued before request `id` still has some of its bytes before it: those that
`of` gives meet a range. -/
def matQueued (of : MatOp → List (Nat × Nat)) (s : State) (g id : Nat) (r : Nat × Nat) : Bool :=
  s.tracks.any (fun e => e.2.bind == some g && e.2.queue.any (fun m => decide (m.id < id) && (of m).any (meets r)))

/-- A matrix transfer of a workgroup that was issued before request `id` has still to write or read some byte of a range: what
writes there later waits for it (R252, R295, R325). -/
def matOwes (s : State) (g id : Nat) (r : Nat × Nat) : Bool := matQueued (fun m => matWrites m ++ matReads m) s g id r

/-- One has still to write some byte of a range (R295, R325). -/
def matOwesWrite (s : State) (g id : Nat) (r : Nat × Nat) : Bool := matQueued matWrites s g id r

end Sys2Proof.Machine
end

