-- ==== Sys2Proof/Machine/MemoryInstr.lean ====
section
/-! DEFINITION. Groups 0x7 to 0x9: loads, stores, atomics, prefetch, WAITV, FENCE, cache control and retention (R256 to R272). -/

namespace Sys2Proof.Machine

open Sys2Proof

/-! Loads (R260). -/

/-- A loaded number as its registers hold it: .S8 and .S16 are sign-extended (R260). -/
def loadValue (sz x : Nat) : Nat := if sz = 1 then ofInt 32 (toSigned 8 x) else if sz = 3 then ofInt 32 (toSigned 16 x) else x

/-- Registers that an access of n bytes fills. -/
def loadRegs (n : Nat) : Nat := if n ≤ 4 then 1 else n / 4

/-- The value of register k that a lane receives: its number, and the first mark among its bytes. -/
def laneResult (sz n : Nat) (res : List (Lane × List Byte × List (Option Mark))) (k : Nat) (l : Lane) : Val :=
  match res.find? (fun r => r.1 == l) with
  | none => Val.clean 0
  | some (_, b, m) =>
    let part (j : Nat) : Nat := if n ≤ 4 then 0 else 4 * j
    ⟨BitVec.ofNat 32 (if n ≤ 4 then loadValue sz (natOfBytes b) else natOfBytes ((b.drop (part k)).take 4)),
      ((m.drop (part k)).take (min n 4)).findSome? id⟩

/-- Puts a load's results on their way to its destination, marked empty (R27, R260). -/
def deliver (s : State) (i : Iss) (m : WordM) (n : Nat) (res : List (Lane × List Byte × List (Option Mark)))
    (items : List Item := []) : State :=
  let mask := match m.data with
    | .src (.s _) _ _ => Mask.one (i.l.low?.getD 0)
    | _ => i.l
  addPend s i.place .load i.l (fillsOf m.data (loadRegs n) mask (laneResult m.sub.toNat n res)) (reachOf i m items)

/-- LD (R260). -/
def execLd (m : WordM) (s : State) : Host.Outcome State Fault Refusal :=
  runWord (.ld m) m.guard noWait noBad (fun s i =>
    let n := szBytes m.sub.toNat
    if i.l = 0#32 then .retire s
    else
      match checkGlobal s i (addressRefs (.ld m) false) (sourcesOf (.ld m)) (accUnit m n) .load (m.sub.toNat == 4 || m.sub.toNat == 5) 5
          (accList s i m n) with
      | .stop r => r
      | .go s items =>
        match items.find? (fun x => pteTier x.leaf == 3) with
        | some x =>
          if placePending s i.place (fun _ => true) i.l then .hold s id
          else .retire (deliver (if ordAcq m.ord then acquire s i m.scp else s) i m n [(x.l, bytesOfNat n (blockRead s i.w.part (ctlOffset x) n), [])])
        | none =>
          match snoopHold s i false items with
          | some r => r
          | none =>
            let acq := ordAcq m.ord
            let (s, res) := loadItems s i m.cls (acq && wideScope m.scp) (accUnit m n) items
            let s := if acq then acquire s i m.scp else s
            .retire (deliver s i m n (joinLanes (res.map (fun r => (r.1.l, r.2)))) items)) s

/-! Stores (R261). -/

/-- The bytes and mark that a lane stores. -/
def storeData (s : State) (i : Iss) (m : WordM) (n : Nat) (l : Lane) : List Byte × Option Mark :=
  let k := loadRegs n
  (bytesOfNat n (dataNat s i (n == 8) m.data 0 k l), dataMark s i (n == 8) m.data k l)

/-- The bytes and mark of one access of a lane's store: of its own registers. -/
def itemData (s : State) (i : Iss) (m : WordM) (n : Nat) (x : Item) : List Byte × Option Mark :=
  let u := accUnit m n
  let o := itemOff s i m x
  if u = n then storeData s i m n x.l
  else (((storeData s i m n x.l).1.drop o).take u, (List.range (u / 4)).findSome? (fun j => (dataWord s i false m.data (o / 4 + j) x.l).mark))

/-- ST (R261). -/
def execSt (m : WordM) (s : State) : Host.Outcome State Fault Refusal :=
  runWord (.st m) m.guard noWait noBad (fun s i =>
    let n := szBytes m.sub.toNat
    if i.l = 0#32 then .retire s
    else
      match checkGlobal s i (addressRefs (.st m) false) (sourcesOf (.st m)) (accUnit m n) .store (m.sub.toNat == 4 || m.sub.toNat == 5) 5
          (accList s i m n) with
      | .stop r => r
      | .go s items =>
        let data := items.map (fun x => (x, itemData s i m n x))
        match offDevice i m data with
        | some t => .trap t
        | none =>
          match items.find? (fun x => pteTier x.leaf == 3) with
          | some x =>
            if placePending s i.place (fun _ => true) i.l then .hold s id
            else
              let s := if ordRel m.ord then releaseAt s i m.scp else s
              .retire { s with agenda := .event (.registerWrite i.w.part (ctlOffset x) n
                (BitVec.ofNat 128 (dataNat s i (n == 8) m.data 0 (loadRegs n) x.l))) :: s.agenda }
          | none =>
            match snoopHold s i true items with
            | some r => r
            | none =>
              let s := storeItems s i m.cls (accUnit m n) data
              let s := if ordRel m.ord then releaseAt s i m.scp else s
              .retire (addPend s i.place .store i.l [] (reachOf i m items))) s

/-! Atomics (R263, R264). -/

/-- The width of an atomic or WAITV in bits. -/
def wideBits (m : WordM) : Nat := if m.xm.toNat % 2 = 1 then 64 else 32

/-- The mark that an atomic writes with its value: that of XCHG's data (R259). -/
def atomicMark (s : State) (i : Iss) (m : WordM) (l : Lane) : Option Mark :=
  if m.sub.toNat = 8 then dataMark s i (wideBits m == 64) m.data (wideBits m / 32) l else none

/-- The read-modify-writes of one issue in lane order; gives each lane's old value and mark, and how many lanes a poisoned
target dropped. -/
def rmwItems (s : State) (i : Iss) (m : WordM) (keep : Bool) (items : List Item) :
    State × List (Lane × List Byte × List (Option Mark)) × Nat :=
  let n := wideBits m
  let w := n / 32
  items.foldl (fun r x =>
    let b := dataNat r.1 i (n == 64) m.data 0 w x.l
    let c := if m.sub.toNat = 9 then dataNat r.1 i (n == 64) m.data w w x.l else 0
    let (s, old, mark, lost) := rmw r.1 i x m.sub.toNat n b c (atomicMark r.1 i m x.l) keep
    (s, r.2.1 ++ [(x.l, bytesOfNat (n / 8) old, List.replicate (n / 8) mark)], r.2.2 + if lost then 1 else 0)) (s, [], 0)

/-- The lookups of an atomic, after the reads of earlier copies (R249): near ones read and write the sectors they touch (R220, R265). -/
def atomicRequests (s : State) (i : Iss) (m : WordM) (items : List Item) : State :=
  let near := items.filter (fun x => !pteHome x.leaf)
  l2Requests (catchUp s i.w.wg) i.w.part i.w.ctx m.cls true (lineReqs near (wideBits m / 8) (fun _ => false) true)

/-- ATOM and RED (R264): `ret` says that the old values are delivered. -/
def runAtomic (x : Instr) (m : WordM) (ret : Bool) (s : State) : Host.Outcome State Fault Refusal :=
  runWord x m.guard noWait noBad (fun s i =>
    let n := wideBits m
    if i.l = 0#32 then .retire s
    else
      match checkGlobal s i (addressRefs x (m.sub.toNat != 8)) (sourcesOf x) (n / 8) (if ret then .atomic else .red) false 5
          (accList s i m (n / 8)) with
      | .stop r => r
      | .go s items =>
        let data := items.map (fun y => (y, ([] : List Byte), atomicMark s i m y.l))
        match offDevice i m data with
        | some t => .trap t
        | none =>
          match snoopHold s i true items with
          | some r => r
          | none =>
            let s := if ordRel m.ord then releaseAt s i m.scp else s
            let s := atomicRequests s i m items
            let (s, res, lost) := rmwItems s i m ret items
            let s := if ordAcq m.ord then acquire s i m.scp else s
            if ret then
              let mask := match m.data with
                | .src (.s _) _ _ => Mask.one (i.l.low?.getD 0)
                | _ => i.l
              .retire (addPend s i.place .atomic i.l (fillsOf m.data (n / 32) mask
                (laneResult (if n = 64 then 5 else 4) (n / 8) res)) (reachOf i m items))
            else
              let s := if lost = 0 then s else modExcsum s i.w.part i.w.ctx (satAdd 32 16 lost)
              .retire (addPend s i.place .atomic i.l [] (reachOf i m items))) s

/-- ATOM (R264). -/
def execAtom (m : WordM) (s : State) : Host.Outcome State Fault Refusal := runAtomic (.atom m) m true s

/-- RED (R264, R367). -/
def execRed (m : WordM) (s : State) : Host.Outcome State Fault Refusal := runAtomic (.red m) m false s

/-! Scratchpad (R209, R259, R295, R299). -/

/-- What the checks before a scratchpad access give: the workgroup, and each lane with its offset. -/
inductive SpadChecked where
  | go (g : Wg) (l : List (Lane × Nat))
  | stop (r : Res)

/-- The size of a warp's scratchpad allocation. -/
def spadSize (s : State) (i : Iss) : Nat := if isLodge i.place then 0 else ((wg? s i.w.wg).map (fun g => g.spadBytes)).getD 0

/-- Checks 2, 4 and 5 of R258, and the presence of the chunks (R299). -/
def checkSpad (s : State) (i : Iss) (m : WordM) (refs all : List SrcRef) (n align : Nat) : SpadChecked :=
  match poisonWhere i refs all with
  | some t => .stop (.trap t)
  | none =>
    let as : List (Lane × Mask × Int) := (accLanes i m).map (fun l => (l, accMask i m l, spadAddr s i m l))
    let odd := maskOr (as.map (fun a => if a.2.2 % (align : Int) ≠ 0 then a.2.1 else 0#32))
    let out := maskOr (as.map (fun a => if a.2.2 < 0 ∨ (spadSize s i : Int) < a.2.2 + n then a.2.1 else 0#32))
    if odd != 0#32 then .stop (.trap ⟨5, 0, 5, false, odd, []⟩)
    else if out != 0#32 then .stop (.trap ⟨4, 0, 5, false, out, []⟩)
    else
      let l := as.map (fun a => (a.1, a.2.2.toNat))
      let ks := (l.flatMap (fun a => chunksAt a.2 n)).dedup
      let s' := rouse s i.w.wg ks (placeCore i.place) (placeTrack i.place) (supMode i.place i.w)
      match missing s' i.w.wg ks with
      | [] =>
        (match wg? s' i.w.wg with
          | some g => .go g l
          | none => .stop (.retire s))
      | ms => .stop (.hold s' (parkAll (ms.map (fun k => (.chunk k, i.a)))))

/-- The mark of bytes of an allocation: that of each byte's sector. -/
def spadMarks (g : Wg) (o n : Nat) : List (Option Mark) := (List.range n).map (fun j => spadMark g (o + j))

/-- LDS (R260). -/
def execLds (m : WordM) (s : State) : Host.Outcome State Fault Refusal :=
  runWord (.lds m) m.guard noWait noBad (fun s i =>
    let n := szBytes m.sub.toNat
    if i.l = 0#32 then .retire s
    else
      match checkSpad s i m (addressRefs (.lds m) false) (sourcesOf (.lds m)) n (accUnit m n) with
      | .stop r => r
      | .go g l => .retire (deliver s i m n (l.map (fun a => (a.1, spadBytes g a.2 n, spadMarks g a.2 n))))) s

/-- STS (R261): at .DEV and .SYS it counts as .WG (R237), so poisoned data is carried (R365, log 119). -/
def execSts (m : WordM) (s : State) : Host.Outcome State Fault Refusal :=
  runWord (.sts m) m.guard noWait noBad (fun s i =>
    let n := szBytes m.sub.toNat
    if i.l = 0#32 then .retire s
    else
      match checkSpad s i m (addressRefs (.sts m) false) (sourcesOf (.sts m)) n (accUnit m n) with
      | .stop r => r
      | .go _ l =>
        if l.any (fun a => matOwes s i.w.wg s.nextId (a.2, n)) then .hold s id
        else .retire (modWg s i.w.wg (fun g => spadStores g (l.flatMap (fun a =>
          splitStores 3 a.2 (storeData s i m n a.1).1 (storeData s i m n a.1).2))))) s

/-- One read-modify-write of an allocation (R264). -/
def spadRmw (g : Wg) (aop n o b c : Nat) (mark : Option Mark) : Wg × Nat × Option Mark :=
  let old := natOfBytes (spadBytes g o (n / 8))
  match spadMark g o with
  | some x => (g, old, some x)
  | none =>
    match atomicNew aop n old b c with
    | none => (g, old, none)
    | some v => (spadStores g [⟨o, bytesOfNat (n / 8) v, mark⟩], old, none)

/-- ATOMS (R264); as STS, at every scope (R237, log 119). -/
def execAtoms (m : WordM) (s : State) : Host.Outcome State Fault Refusal :=
  runWord (.atoms m) m.guard noWait noBad (fun s i =>
    let n := wideBits m
    let w := n / 32
    if i.l = 0#32 then .retire s
    else
      match checkSpad s i m (addressRefs (.atoms m) (m.sub.toNat != 8)) (sourcesOf (.atoms m)) (n / 8) (n / 8) with
      | .stop r => r
      | .go g l =>
        if l.any (fun a => matOwes s i.w.wg s.nextId (a.2, n / 8)) then .hold s id
        else
        let (g, res) := l.foldl (fun (r : Wg × List (Lane × List Byte × List (Option Mark))) a =>
          let b := dataNat s i (n == 64) m.data 0 w a.1
          let c := if m.sub.toNat = 9 then dataNat s i (n == 64) m.data w w a.1 else 0
          let (g, old, mark) := spadRmw r.1 m.sub.toNat n a.2 b c (atomicMark s i m a.1)
          (g, r.2 ++ [(a.1, bytesOfNat (n / 8) old, List.replicate (n / 8) mark)])) (g, [])
        let s := modWg s i.w.wg (fun _ => g)
        let mask := match m.data with
          | .src (.s _) _ _ => Mask.one (i.l.low?.getD 0)
          | _ => i.l
        .retire (addPend s i.place .atomic i.l (fillsOf m.data w mask
          (laneResult (if n = 64 then 5 else 4) (n / 8) res)))) s

/-! Requests in flight: the steps at which they complete (R260, R261, R264). -/

/-- LOAD_COMPLETE (R260). -/
def execLoadComplete (id : Nat) (s : State) : Host.Outcome State Fault Refusal :=
  match FMap.get? s.pend id with
  | some p => .next (if p.kind = .load then completePend s id p else s)
  | none => .next s

/-- ATOMIC_COMPLETE (R264). -/
def execAtomicComplete (id : Nat) (s : State) : Host.Outcome State Fault Refusal :=
  match FMap.get? s.pend id with
  | some p => .next (if p.kind = .atomic then completePend s id p else s)
  | none => .next s

/-- WRITE_ACKNOWLEDGED (R261). -/
def execWriteAcknowledged (id : Nat) (s : State) : Host.Outcome State Fault Refusal :=
  match FMap.get? s.pend id with
  | some p => .next (if p.kind = .store then completePend s id p else s)
  | none => .next s

/-! Prefetch and cache control (R266, R271). -/

/-- Translates a lane's address and drops it where it would fail (R258): a poisoned or non-canonical address, a failed or
TIER-3 translation. -/
def quietItem (i : Iss) (x : Instr) (s : State) (l : Lane) (va : Nat) : State × Option Item :=
  let f := faulterOf i.place i.w
  if va / 2 ^ 57 ≠ 0 ∨ (addressRefs x false).any (fun r => !(r.marks i l).isEmpty) then (s, none)
  else
    match translate s i.w.part i.w.ctx f.core f.sup .load va with
    | (s, .ok pa e) => (s, if pteTier e = 3 then none else some ⟨l, va, pa, e⟩)
    | (s, _) => (s, none)

/-- The lanes that access, of PREF and CCTL, that are not dropped (R257). -/
def quietItems (i : Iss) (x : Instr) (m : WordM) (s : State) : State × List Item :=
  (accLanes i m).foldl (fun r l =>
    let (s, y) := quietItem i x r.1 l (globalAddr r.1 i m l)
    (s, r.2 ++ y.toList)) (s, [])

/-- A sector that PREF.L1 brings in: one that a read would deliver unpoisoned; on any other it has no effect (R259). -/
def prefAble (s : State) (pa : Nat) : Bool :=
  paReach s none pa && !paLost s pa && (FMap.get? (atomAccess s pa false).poison (pa / 32)).isNone

/-- The lookups of a prefetch fill L2 from the atoms of the sectors (R266, R275, R426). -/
def prefFill (s : State) (pa : Nat) : State := if paReach s none pa then atomAccess (scrubAt s pa) pa false else s

/-- PREF (R266). -/
def execPref (m : WordM) (s : State) : Host.Outcome State Fault Refusal :=
  runWord (.pref m) m.guard noWait noBad (fun s i =>
    let (s, items) := quietItems i (.pref m) m s
    let lines := items.map (fun x => { x with pa := x.pa / 128 * 128, va := x.va / 128 * 128 })
    let s := l2Requests s i.w.part i.w.ctx m.cls true (lineReqs lines 128 (fun _ => false) false)
    let s := lines.foldl (fun s x => (List.range 4).foldl (fun s j => prefFill s (x.pa + 32 * j)) s) s
    let s := if m.xm.toNat % 2 = 1 ∧ m.cls ≠ .evictFirst ∧ !isLodge i.place then
        lines.foldl (fun s x => (List.range 4).foldl (fun s j =>
          if prefAble s (x.pa + 32 * j) then (loadSector s (placeCore i.place) i.w.ctx [] true x.leaf (x.pa + 32 * j) 32).1
          else s) s) s
      else s
    .retire s) s

/-- CCTL.IINV (R213, R271). -/
def execCctlIinv (m : WordM) (s : State) : Host.Outcome State Fault Refusal :=
  runWord (.cctlIinv m) m.guard noWait noBad (fun s i =>
    if i.l = 0#32 ∨ isLodge i.place then .retire s
    else .retire (modCore s (placeCore i.place) (fun c => { c with icache := [] }))) s

/-- CCTL.L1INV (R271). -/
def execCctlL1inv (m : WordM) (s : State) : Host.Outcome State Fault Refusal :=
  runWord (.cctlL1inv m) m.guard noWait noBad (fun s i =>
    let (s, items) := quietItems i (.cctlL1inv m) m s
    .retire (if isLodge i.place then s else items.foldl (fun s x => l1DropLine s (placeCore i.place) x.pa) s)) s

/-- CCTL.CLEAN (R271). -/
def execCctlClean (m : WordM) (s : State) : Host.Outcome State Fault Refusal :=
  runWord (.cctlClean m) m.guard noWait noBad (fun s i =>
    let (s, items) := quietItems i (.cctlClean m) m s
    .retire (items.foldl (fun s x => cleanPa s x.pa) s)) s

/-- CCTL.DEMOTE (R271). -/
def execCctlDemote (m : WordM) (s : State) : Host.Outcome State Fault Refusal :=
  runWord (.cctlDemote m) m.guard noWait noBad (fun s i =>
    let (s, items) := quietItems i (.cctlDemote m) m s
    .retire (items.foldl (fun s x => demotePa s x.pa) s)) s

/-! WAITV (R267, R268). -/

/-- The condition of WAITV (R267). -/
def waitCond (c n v b : Nat) : Bool :=
  match c with
  | 0 => v == b
  | 1 => v != b
  | 2 => decide (toSigned n v < toSigned n b)
  | 3 => decide (toSigned n v ≥ toSigned n b)
  | 4 => decide (v < b)
  | 5 => decide (v ≥ b)
  | 6 => (v &&& b) != 0
  | _ => (v &&& b) == 0

/-- Reads a lane's location past L1, uncounted, and tells whether the read satisfies the condition (R259, R268). -/
def waitRead (s : State) (i : Iss) (m : WordM) (x : Item) : State × Bool :=
  let n := wideBits m
  let s := l2Requests s i.w.part i.w.ctx m.cls false (lineReqs [x] (n / 8) (fun _ => false) false)
  let (s, b, mark) := sectorRead s i.w.ctx x.leaf x.pa (n / 8)
  let s := if isLodge i.place then s else l1Sync s (placeCore i.place) x.pa
  (s, mark.isNone && waitCond m.sub.toNat n (natOfBytes b) (dataNat s i (n == 64) m.data 0 (n / 32) x.l))

/-- Reads the locations of lanes; gives the lanes whose read satisfies. -/
def waitReads (s : State) (i : Iss) (m : WordM) (items : List Item) : State × Mask :=
  items.foldl (fun r x =>
    let (s, ok) := waitRead r.1 i m x
    (s, if ok then r.2 ||| accMask i m x.l else r.2)) (s, 0#32)

/-- The lanes of a WAITV that have completed in an earlier read. -/
def waitDone (i : Iss) : Mask :=
  maskOr ((i.w.waits.filter (fun x => x.kind == .waitv && x.mask &&& i.a != 0#32)).map (fun x => x.done))

/-- The group stands in its WAITV and some lane of L has not completed (R268). -/
def waitvWait (_ : State) (i : Iss) : Bool :=
  i.w.waits.any (fun x => x.kind == .waitv && x.mask == i.a && !Mask.sub i.l x.done)

/-- WAITV completes: the satisfying reads carry its ordering (R268). -/
def waitvEnd (s : State) (i : Iss) (m : WordM) : State :=
  let s := if ordAcq m.ord && i.l != 0#32 then acquire s i m.scp else s
  modWarp s i.place (fun w => endWaits w i.a)

/-- WAITV (R268). -/
def execWaitv (m : WordM) (s : State) : Host.Outcome State Fault Refusal :=
  runWord (.waitv m) m.guard waitvWait noBad (fun s i =>
    let prior := waitDone i
    if Mask.sub i.l prior then .retire (waitvEnd s i m)
    else
      match checkGlobal s i (addressRefs (.waitv m) true) (sourcesOf (.waitv m)) (wideBits m / 8) .load false 5 (accList s i m (wideBits m / 8)) with
      | .stop r => r
      | .go s items =>
        match snoopHold s i false items with
        | some r => r
        | none =>
          let (s, got) := waitReads s i m (items.filter (fun x => !prior.has x.l))
          if Mask.sub i.l (prior ||| got) then .retire (waitvEnd s i m)
          else .hold s (fun w => enterWait w .waitv i.a (prior ||| got) (.waitv m))) s

/-- The issue of a group that waits, as its waiting word sees it. -/
def waitIssue (s : State) (pl : Nat) (w : Warp) (x : Wait) (g : Guard) : Option Iss :=
  (x.mask.low?).bind (fun l => issOf { s with cur := some ⟨pl, x.mask, w.pc[l], 1⟩ } g)

/-- WAITV_REREAD (R268): lane l reads its location again. -/
def execWaitvReread (pl : Nat) (l : Lane) (s : State) : Host.Outcome State Fault Refusal :=
  match warp? s pl with
  | none => .next s
  | some w =>
    match w.waits.find? (fun x => x.kind == .waitv && x.mask.has l && !x.done.has l) with
    | none => .next s
    | some x =>
      match x.word with
      | .waitv m =>
        (match waitIssue s pl w x m.guard with
          | none => .next s
          | some i =>
            if !i.l.has l then .next s
            else
              match lookup i .load false s l (accMask i m l) (globalAddr s i m l) with
              | (s, .item y) =>
                match snoopHold s i false [y] with
                | some (.hold s g) => .next (modWarp s pl (fun w => g (endWaits w x.mask)))
                | some _ => .next s
                | none =>
                let (s, got) := waitReads s i m [y]
                .next (modWarp s pl (fun w => { w with waits := w.waits.map (fun z =>
                  if z = x then { z with done := z.done ||| got } else z) }))
              | (s, .park c k) => .next (modWarp s pl (fun w => parkLanes (endWaits w x.mask) c k false))
              | (s, .trap _ _ _) => .next (modWarp s pl (fun w => endWaits w x.mask)))
      | _ => .next s

/-! FENCE (R270). -/

/-- ORD of a FENCE. -/
def fenceOrd (f : WordF) : Order := ordOf (f.mod.toNat / 16)
/-- SCP of a FENCE. -/
def fenceScope (f : WordF) : Scope := scpOf (f.mod.toNat / 4 % 4)

/-- FENCE waits for floating-point instructions, and on its release side for earlier writes of its lanes (R31, R270). -/
def fenceWait (f : WordF) (s : State) (i : Iss) : Bool :=
  fpOutstanding i.w || (!i.w.xrec.v && ordRel (fenceOrd f) &&
    placePending s i.place (fun k => k == .store || k == .atomic) i.l)

/-- FENCE (R270). -/
def execFence (f : WordF) (s : State) : Host.Outcome State Fault Refusal :=
  runWord (.fence f) f.guard (fenceWait f) noBad (fun s i =>
    match fpeTrap i with
    | some t => .trap t
    | none =>
      if i.l = 0#32 then .retire s
      else
        let s := if ordRel (fenceOrd f) then releaseAt s i (fenceScope f) else s
        .retire (if ordAcq (fenceOrd f) then acquire s i (fenceScope f) else s)) s

/-! Retention (R272). -/

/-- The status of RETAIN and UNPIN (R272); `range` is first and last for RETAIN. -/
def retainStatus (s : State) (i : Iss) (n : Nat) (range : Option (Nat × Nat)) : Nat :=
  let q := part s i.w.part
  if n > 7 then 4
  else
    let held := (retReg q n).en && (retReg q n).ctx != i.w.ctx
    match range with
    | some (a, b) =>
      if a / 2 ^ 57 ≠ 0 ∨ b / 2 ^ 57 ≠ 0 ∨ b < a then 3
      else if ctlField q 0x100 0 4 = 0 then 2
      else if held then 1 else 0
    | none => if held then 1 else 0

/-- RETAIN (R272). -/
def execRetain (f : WordF) (s : State) : Host.Outcome State Fault Refusal :=
  runWord (.retain f) f.guard noWait noBad (fun s i =>
    match poisonTrap i (sourcesOf (.retain f)) with
    | some t => .trap t
    | none =>
      if !i.acts then .retire s
      else
        let a := uniVal s i (.int 64) f.a
        let b := uniVal s i (.int 64) f.b
        let n := uniVal s i (.int 32) f.c
        let st := retainStatus s i n (some (a, b))
        let p := i.w.part
        let s := if st ≠ 0 then s
          else
            let s := if (retReg (part s p) n).en then dropIndex s p n else s
            modPart s p (fun q => retRegSet q n ⟨true, i.w.ctx, a / 4096, b / 4096⟩)
        .retire (modWarp s i.place (fun w => writeDst w i.l f.dst false (fun _ => st)))) s

/-- UNPIN (R272). -/
def execUnpin (f : WordF) (s : State) : Host.Outcome State Fault Refusal :=
  runWord (.unpin f) f.guard noWait noBad (fun s i =>
    match poisonTrap i (sourcesOf (.unpin f)) with
    | some t => .trap t
    | none =>
      if !i.acts then .retire s
      else
        let n := uniVal s i (.int 32) f.a
        let st := retainStatus s i n none
        let s := if st = 0 ∧ (retReg (part s i.w.part) n).en then unpinReg s i.w.part n else s
        .retire (modWarp s i.place (fun w => writeDst w i.l f.dst false (fun _ => st)))) s

end Sys2Proof.Machine
end

