-- ==== Sys2Proof/Machine/Copy.lean ====
section
/-! DEFINITION. Group 0xA: copies, regions, presence and barrier objects (R288 to R314). -/

namespace Sys2Proof.Machine

open Sys2Proof

/-! Operands and checks (R290 to R292). -/

/-- A descriptor group's 256 bits (R288). -/
def groupVal (i : Iss) (o : Opd) : BitVec 256 :=
  match o with
  | .src (.s n) _ _ =>
    BitVec.ofNat 256 ((List.range 8).foldl (fun x k => x + (sRead i.w (n.val + k)).bits.toNat * 2 ^ (32 * k)) 0)
  | _ => 0

/-- A uniform 32-bit operand. -/
def uArg (s : State) (i : Iss) (o : Opd) : Nat := uniVal s i (.int 32) o

/-- The lowest and highest global address of a window's elements. -/
def dCorners (d : BitVec 256) : Int × Int :=
  [((dElem d : Int), dD0 d), (dGs1 d, dD1 d), (dGs2 d, dD2 d)].foldl
    (fun r e => (r.1 + min 0 (e.1 * ((e.2 : Int) - 1)), r.2 + max 0 (e.1 * ((e.2 : Int) - 1))))
    ((dGaddr d : Int), (dGaddr d : Int))

/-- Checks 3 to 5 of R292 on a descriptor: CODE and DETAIL of the first that fails. -/
def descBad (d : BitVec 256) (size : Nat) (region : Bool) : Option (Nat × Nat) :=
  if dCount d = 0 then none
  else
    let c := dCorners d
    let e := dElem d
    if c.1 < 0 ∨ c.2 ≥ 2 ^ 57 then some (6, 8)
    else if dGaddr d % e ≠ 0 ∨ dGs1 d % (e : Int) ≠ 0 ∨ dGs2 d % (e : Int) ≠ 0 ∨ dSoff d % e ≠ 0 ∨
        (region ∧ dSoff d % 512 ≠ 0) then some (5, 0)
    else if dSoff d + dBytes d > size then some (4, 0) else none

/-- The first check of a list that fails. -/
def firstTrap (i : Iss) : List (Option (Nat × Nat) × Nat) → Option Trap
  | [] => none
  | (some (c, d), o) :: _ => some (issueTrap i c d o false)
  | (none, _) :: t => firstTrap i t

/-- Checks 3 to 5 over a descriptor and an object, each check on every operand before the next. -/
def copyChecks (i : Iss) (size : Nat) (d : BitVec 256) (obj : Option Nat) : Option Trap :=
  let bad := descBad d size false
  let only (c : Nat) : Option (Nat × Nat) := bad.filter (fun e => e.1 == c)
  firstTrap i [(only 6, 1), (only 5, 1),
    (obj.bind (fun o => if o % 8 ≠ 0 then some (5, 0) else none), 2), (only 4, 1),
    (obj.bind (fun o => if o + 8 > size then some (4, 0) else none), 2)]

/-- Runs a word of the group whose sources are consumed, when it acts. -/
def groupWord (x : Instr) (f : WordF) (wait : State → Iss → Bool) (eff : State → Iss → Res) (s : State) :
    Host.Outcome State Fault Refusal :=
  runWord x f.guard wait noBad (fun s i =>
    if !i.acts then .retire s
    else
      match poisonTrap i (sourcesOf x) with
      | some t => .trap t
      | none => eff s i) s

/-- Starts stagings for a warp's use of some chunks (R307). -/
def rouseFor (s : State) (i : Iss) (ks : List Nat) : State :=
  rouse s i.w.wg ks (placeCore i.place) (placeTrack i.place) (supMode i.place i.w)

/-- Parks the warp on the absent chunks of an object, after starting a staging that arms it (R299); else goes on. -/
def atObject (s : State) (i : Iss) (o : Nat) (k : State → Wg → Res) : Res :=
  let s := rouseFor s i (chunksAt o 8)
  match missing s i.w.wg (chunksAt o 8) with
  | [] =>
    (match wg? s i.w.wg with
      | some g => k s g
      | none => .retire s)
  | ms => .hold s (parkAll (ms.map (fun c => (.chunk c, i.a))))

/-! Copies (R294 to R297). -/

/-- The core's engine holds 64 copies (R294). -/
def engineFull (_ : Instr) (s : State) (i : Iss) : Bool :=
  i.acts && decide ((s.xfers.filter (fun e => e.2.core == placeCore i.place && e.2.batch.isSome)).length ≥ 64)

/-- The barrier-object word at an offset. -/
def objWord (g : Wg) (o : Nat) : Nat := natOfBytes (spadBytes g o 8)

/-- Hands one copy to the engine (R294, R301, R307). -/
def issueCopy (s : State) (i : Iss) (d : BitVec 256) (out : Bool) (bar : Option Nat) : State :=
  let s := rouseFor s i (chunkList d)
  if dCount d = 0 then s
  else
    addXfer s ⟨placeCore i.place, placeTrack i.place, i.w.part, i.w.ctx, i.w.wg, some i.place, false, supMode i.place i.w, d,
      out, some i.w.openb, none, bar, [], none, [], none, i.pc, [], [], []⟩

/-- A queued matrix transfer of the workgroup has still to touch the window: what would clear the presence of its chunks waits
(R252, R295, R327). -/
def windowHeld (s : State) (i : Iss) (d : BitVec 256) : Bool :=
  matOwes s i.w.wg s.nextId (512 * (dChunks d).1, 512 * (dChunks d).2)

/-- COPY (R294). -/
def execCopy (f : WordF) (s : State) : Host.Outcome State Fault Refusal :=
  groupWord (.copy f) f (engineFull (.copy f)) (fun s i =>
    let d := groupVal i f.a
    match copyChecks i (spadSize s i) d none with
    | some t => .trap t
    | none =>
      if !f.mod.getLsbD 0 && windowHeld s i d then .hold s id else .retire (issueCopy s i d (f.mod.getLsbD 0) none)) s

/-- COPYO (R294). -/
def execCopyo (f : WordF) (s : State) : Host.Outcome State Fault Refusal :=
  groupWord (.copyo f) f (engineFull (.copyo f)) (fun s i =>
    let d := groupVal i f.a
    let o := uArg s i f.b
    match copyChecks i (spadSize s i) d (some o) with
    | some t => .trap t
    | none => atObject s i o (fun s g =>
        if !(objWord g o).testBit 63 then .trap (illegalTrap i 0x20)
        else if !f.mod.getLsbD 0 && windowHeld s i d then .hold s id
        else .retire (issueCopy s i d (f.mod.getLsbD 0) (some o)))) s

/-! The region table (R304 to R308). -/

/-- Clears an entry (R306): armed chunks become what the transfers into them leave. -/
def clearRegion (s : State) (g e : Nat) : State :=
  match wg? s g with
  | none => s
  | some x =>
    match FMap.get? x.regions e with
    | none => s
    | some r =>
      if r.flight.isSome then modWg s g (fun x => { x with regions := FMap.ins x.regions e { r with cleared := true } })
      else
        let armed := (chunkList r.desc).filter (fun k => decide (chunkOf x k = .armed))
        let s := modWg s g (fun x => setChunks { x with regions := FMap.del x.regions e } armed .absent)
        landChunks s g armed

/-- Enters a valid entry: LAZY arms its chunks, EAGER stages it at once (R304, R305). -/
def installRegion (s : State) (g e : Nat) (d : BitVec 256) (core track : Nat) (sup : Bool) : State :=
  let s := modWg s g (fun x => { x with regions := FMap.ins x.regions e ⟨d, false, none, false⟩ })
  if dLazy d then modWg s g (fun x => setChunks x (chunkList d) .armed) else startStaging s g e core track sup

/-- A descriptor touches a chunk of a valid entry other than e. -/
def overlaps (x : Wg) (e : Nat) (d : BitVec 256) : Bool :=
  x.regions.any (fun r => r.1 != e && dV r.2.desc && (chunkList d).any (dHas r.2.desc))

/-- The status of REGION (R305). -/
def regionStatus (x : Wg) (n : Nat) (d : BitVec 256) : Nat :=
  if dReserved d then 4
  else if n > 31 then 3
  else if ((FMap.get? x.regions n).bind (fun r => r.flight)).isSome then 2
  else if dV d && overlaps x n d then 1 else 0

/-- REGION (R305). -/
def execRegion (f : WordF) (s : State) : Host.Outcome State Fault Refusal :=
  groupWord (.region f) f noWait (fun s i =>
    let n := uArg s i f.a
    let d := groupVal i f.b
    match (if dV d then descBad d (spadSize s i) true else none), wg? s i.w.wg with
    | some (c, e), _ => .trap (issueTrap i c e 2 false)
    | none, none => .retire s
    | none, some x =>
      let st := regionStatus x n d
      if st = 0 ∧ dV d ∧ windowHeld s i d then .hold s id
      else
      let s := if st ≠ 0 then s
        else
          let s := clearRegion s i.w.wg n
          if dV d then installRegion s i.w.wg n d (placeCore i.place) (placeTrack i.place) (supMode i.place i.w) else s
      .retire (modWarp s i.place (fun w => writeDst w i.l f.dst false (fun _ => st)))) s

/-- The entries a mask names. -/
def maskEntries (m : Nat) : List Nat := (List.range 32).filter (fun k => m.testBit k)

/-- RGNCLR (R306). -/
def execRgnclr (f : WordF) (s : State) : Host.Outcome State Fault Refusal :=
  groupWord (.rgnclr f) f noWait (fun s i =>
    .retire ((maskEntries (uArg s i f.a)).foldl (fun s e => clearRegion s i.w.wg e) s)) s

/-- TOUCH (R307). -/
def execTouch (f : WordF) (s : State) : Host.Outcome State Fault Refusal :=
  groupWord (.touch f) f noWait (fun s i =>
    .retire ((maskEntries (uArg s i f.a)).foldl (fun s e =>
      startStaging s i.w.wg e (placeCore i.place) (placeTrack i.place) (supMode i.place i.w)) s)) s

/-! Batches (R301 to R303). -/

/-- CSEAL (R301). -/
def execCseal (f : WordF) (s : State) : Host.Outcome State Fault Refusal :=
  groupWord (.cseal f) f noWait (fun s i =>
    .retire (modWarp s i.place (fun w =>
      { writeDst w i.l f.dst false (fun _ => i.w.openb.toNat) with openb := i.w.openb + 1 }))) s

/-- Batch n is sealed (R301). -/
def batchSealed (w : Warp) (n : Word) : Bool := decide (1 ≤ (w.openb - n).toNat) && decide ((w.openb - n).toNat ≤ 2 ^ 31)

/-- CWAIT n covers batch b (R302). -/
def batchCovered (w : Warp) (n b : Word) : Bool := batchSealed w b && decide ((n - b).toNat < 2 ^ 31)

/-- Every batch that CWAIT n covers is complete (R302). -/
def batchesDone (s : State) (pl : Nat) (w : Warp) (n : Word) : Bool :=
  !s.xfers.any (fun e => e.2.place == some pl && !e.2.gone && e.2.batch.any (batchCovered w n))

/-- The failed batch that CWAIT n reports: the oldest it covers (R297). -/
def failedBatch (w : Warp) (n : Word) : Option CopyFail :=
  (w.fails.filter (fun c => batchCovered w n c.batch)).foldl (fun b c =>
    match b with
    | none => some c
    | some d => if (w.openb - c.batch).toNat > (w.openb - d.batch).toNat then some c else some d) none

/-- A CWAIT that has been entered waits on. -/
def cwaitWait (f : WordF) (s : State) (i : Iss) : Bool :=
  inWait i.w .cwait i.a && !batchesDone s i.place i.w (BitVec.ofNat 32 (uArg s i f.a))

/-- CWAIT (R302). -/
def execCwait (f : WordF) (s : State) : Host.Outcome State Fault Refusal :=
  groupWord (.cwait f) f (cwaitWait f) (fun s i =>
    let n := BitVec.ofNat 32 (uArg s i f.a)
    if !batchSealed i.w n then .trap (illegalTrap i 0x21)
    else if !batchesDone s i.place i.w n then .hold s (fun w => enterWait w .cwait i.a 0#32 (.cwait f))
    else
      match failedBatch i.w n with
      | some c => .report (issueTrap i c.code c.detail 0 false)
          (fun w => { w with fails := w.fails.filter (fun x => x.batch != c.batch) })
      | none => .retire (modWarp s i.place (fun w => endWaits w i.a))) s

/-- CTEST (R303). -/
def execCtest (f : WordF) (s : State) : Host.Outcome State Fault Refusal :=
  groupWord (.ctest f) f noWait (fun s i =>
    let n := BitVec.ofNat 32 (uArg s i f.a)
    if !batchSealed i.w n then .trap (illegalTrap i 0x21)
    else .retire (modWarp s i.place (fun w => writePred w i.l f.dst (fun _ => batchesDone s i.place i.w n)))) s

/-! Presence (R298, R299). -/

/-- The chunks that WAITP names. -/
def waitpChunks (s : State) (i : Iss) (f : WordF) : List Nat := (maskEntries (uArg s i f.b)).map (fun k => uArg s i f.a + k)

/-- A WAITP that has been entered waits while a chunk it names is absent and none is armed. -/
def waitpWait (f : WordF) (s : State) (i : Iss) : Bool :=
  inWait i.w .waitp i.a &&
    (match wg? s i.w.wg with
      | none => false
      | some g =>
        let ks := waitpChunks s i f
        ks.any (fun k => decide (chunkOf g k = .absent)) && !ks.any (fun k => (armedBy g k).isSome))

/-- WAITP (R299). -/
def execWaitp (f : WordF) (s : State) : Host.Outcome State Fault Refusal :=
  groupWord (.waitp f) f (waitpWait f) (fun s i =>
    let ks := waitpChunks s i f
    if ks.any (fun k => decide (spadSize s i < 512 * k + 512)) then .trap (issueTrap i 4 0 1 false)
    else
      let s := rouseFor s i ks
      if (missing s i.w.wg ks).isEmpty then .retire (modWarp s i.place (fun w => endWaits w i.a))
      else .hold s (fun w => enterWait w .waitp i.a 0#32 (.waitp f))) s

/-! Barrier objects (R309 to R313). -/

/-- Checks 4 and 5 on an object operand. -/
def objChecks (s : State) (i : Iss) (o : Nat) : Option Trap :=
  if o % 8 ≠ 0 then some (issueTrap i 5 0 1 false)
  else if o + 8 > spadSize s i then some (issueTrap i 4 0 1 false) else none

/-- Writes an object's word. -/
def objSet (s : State) (g o x : Nat) : State := modWg s g (fun w => spadStores w [⟨o, bytesOfNat 8 x, none⟩])

/-- Runs an object word: its checks, `chk` the last of them, presence, and the wait for queued matrix transfers of its bytes
issued before it (R252, R325). -/
def objWord' (x : Instr) (f : WordF) (wait : State → Iss → Bool) (chk : State → Iss → Option Trap)
    (eff : State → Iss → Nat → Wg → Res) (s : State) : Host.Outcome State Fault Refusal :=
  groupWord x f wait (fun s i =>
    let o := uArg s i f.a
    match (objChecks s i o).orElse (fun _ => chk s i) with
    | some t => .trap t
    | none => atObject s i o (fun s g => if matOwes s i.w.wg s.nextId (o, 8) then .hold s id else eff s i o g)) s

/-- BARA, BARW and BART consume a poisoned object word (R365, R366). R292 places the check of V and does not place this one against it:
the model raises POISON first, as R360 has it before the checks that depend on state reached through an operand (DEDUCED, log 122). -/
def objPoison (i : Iss) (g : Wg) (o : Nat) : Option Trap :=
  (spadMark g o).map (fun m => ⟨8, 0, 1, false, i.l, [m]⟩)

/-- BARI (R310). -/
def execBari (f : WordF) (s : State) : Host.Outcome State Fault Refusal :=
  objWord' (.bari f) f noWait
    (fun s i => if uArg s i f.b = 0 ∨ uArg s i f.b > 65535 then some (illegalTrap i 0x22) else none)
    (fun s i o _ => .retire (objSet s i.w.wg o (2 ^ 63 + uArg s i f.b * 65536 + uArg s i f.b))) s

/-- The object's word after an arrival of count a (R311). -/
def arrive (x a : Nat) : Nat :=
  if a = 0 then x
  else
    let pend := bits x 0 16
    if a ≥ pend then
      let x := if a > pend then setBits x 62 1 1 else x
      setBits (setBits x 32 1 (1 - bits x 32 1)) 0 16 (bits x 16 16)
    else setBits x 0 16 (pend - a)

/-- An arrival writes the word it makes, with zero in the reserved bits (R309); none for a count of 0. -/
def arriveAt (s : State) (g o a : Nat) : State :=
  match wg? s g with
  | none => s
  | some x => if a = 0 then s else objSet s g o (setBits (arrive (objWord x o) a) 33 29 0)

/-- BARA (R311). -/
def execBara (f : WordF) (s : State) : Host.Outcome State Fault Refusal :=
  objWord' (.bara f) f noWait (fun _ _ => none) (fun s i o g =>
    let x := objWord g o
    match objPoison i g o with
    | some t => .trap t
    | none =>
    if !x.testBit 63 then .trap (illegalTrap i 0x20)
    else
      let k := uArg s i f.b % 65536
      let a := if f.mod.getLsbD 0 then k else i.l.count * k
      .retire (modWarp (arriveAt s i.w.wg o a) i.place (fun w => writeDst w i.l f.dst false (fun _ => bits x 32 1)))) s

/-- BARW waits for outstanding floating-point instructions, and, once entered, while its phase has not completed (R31,
R312). -/
def barwWait (f : WordF) (s : State) (i : Iss) : Bool :=
  fpOutstanding i.w ||
    (inWait i.w .barw i.a &&
      (match wg? s i.w.wg with
        | none => false
        | some g => bits (objWord g (uArg s i f.a)) 32 1 == uArg s i f.b % 2))

/-- BARW (R312). -/
def execBarw (f : WordF) (s : State) : Host.Outcome State Fault Refusal :=
  runWord (.barw f) f.guard (barwWait f) noBad (fun s i =>
    match fpeTrap i with
    | some t => .trap t
    | none =>
      if !i.acts then .retire s
      else
        match poisonTrap i (sourcesOf (.barw f)) with
        | some t => .trap t
        | none =>
          let o := uArg s i f.a
          match objChecks s i o with
          | some t => .trap t
          | none => atObject s i o (fun s g =>
              let x := objWord g o
              match objPoison i g o with
              | some t => .trap t
              | none =>
              if !inWait i.w .barw i.a && !x.testBit 63 then .trap (illegalTrap i 0x20)
              else if bits x 32 1 = uArg s i f.b % 2 then .hold s (fun w => enterWait w .barw i.a 0#32 (.barw f))
              else .retire (modWarp s i.place (fun w => endWaits w i.a)))) s

/-- BART (R312). -/
def execBart (f : WordF) (s : State) : Host.Outcome State Fault Refusal :=
  objWord' (.bart f) f noWait (fun _ _ => none) (fun s i o g =>
    let x := objWord g o
    match objPoison i g o with
    | some t => .trap t
    | none =>
    if !x.testBit 63 then .trap (illegalTrap i 0x20)
    else .retire (modWarp s i.place (fun w => writePred w i.l f.dst (fun _ => bits x 32 1 != uArg s i f.b % 2)))) s

/-- BARCNT (R313). -/
def execBarcnt (f : WordF) (s : State) : Host.Outcome State Fault Refusal :=
  objWord' (.barcnt f) f noWait (fun _ _ => none) (fun s i o g =>
    let half (k : Nat) (_ : Lane) : Val := ⟨BitVec.ofNat 32 (objWord g o / 2 ^ (32 * k)), spadMark g o⟩
    .retire (modWarp s i.place (fun w => writeVals (writeVals w i.l f.dst 0 (half 0)) i.l f.dst 1 (half 1)))) s

end Sys2Proof.Machine
end

