-- ==== Sys2Proof/Machine/CopyEngine.lean ====
section
/-! DEFINITION. The copy engine: how copies and stagings move their bytes, pause, fail and complete (R289, R294 to R298, R306 to
R308, R311, R423, R441, R451). -/

namespace Sys2Proof.Machine

open Sys2Proof

/-! Translation for an engine. -/

/-- How a translation for an engine ends. -/
inductive EngPage where
  | ok (pa leaf : Nat)
  | pause (c : ParkCause)
  /-- the transfer fails: CODE and DETAIL (R297, R338) -/
  | fail (code detail : Nat)
  deriving DecidableEq, Repr

/-- Translates one address for an engine: a page denied fails, a failed translation pauses, a TIER-3 leaf and a lost port
fail (R296, R423, R451). -/
def enginePage (s : State) (f : Faulter) (denied : List (Nat × Nat)) (acc : Access) (va : Nat) : State × EngPage :=
  match denied.find? (fun e => e.1 == va / 4096) with
  | some e => (s, .fail 6 e.2)
  | none =>
    let (s, x) := translate s f.part f.ctx f.core f.sup acc va
    match x with
    | .ok pa e => (s, if pteTier e = 3 then .fail 6 0x15 else .ok pa e)
    | .lost k c => (s, .fail 0xA (c * 256 + k))
    | .fail _ _ _ | .miss =>
      match parkCause s f acc (va / 4096) x with
      | (s, some c) => (s, .pause c)
      | (s, none) => (s, .fail 6 0)

/-- What the translations of a list of addresses give. -/
inductive EngPages where
  | ok (l : List Item)
  | pause (c : ParkCause)
  | fail (code detail : Nat)
  deriving DecidableEq, Repr

/-- Translates the pages of a list of addresses, each page once, and gives each address its item; the first page that does
not translate ends it. -/
def enginePages (s : State) (f : Faulter) (denied : List (Nat × Nat)) (acc : Access) (vas : List Nat) : State × EngPages :=
  let pages := (vas.map (fun a => a / 4096)).dedup
  let (s, r) := pages.foldl (fun (r : State × Except EngPages (List (Nat × Nat × Nat))) pg =>
    match r.2 with
    | .error e => (r.1, .error e)
    | .ok l =>
      match enginePage r.1 f denied acc (pg * 4096) with
      | (s, .ok pa e) => (s, .ok (l ++ [(pg, pa, e)]))
      | (s, .pause c) => (s, .error (.pause c))
      | (s, .fail c d) => (s, .error (.fail c d))) (s, .ok [])
  match r with
  | .error e => (s, e)
  | .ok l => (s, .ok (vas.filterMap (fun a =>
      (l.find? (fun e => e.1 == a / 4096)).map (fun e => ⟨0, a, e.2.1 + a % 4096, e.2.2⟩))))

/-! Completion. -/

/-- A failure that no lane is left to report goes to the containment walk at the warp level (R297, R338, R361). -/
def walkFailure (s : State) (h : Where) (code detail : Nat) (pc : Dword) : State :=
  contWalk s h (Trap.cause ⟨code, detail, 0, false, 0#32, []⟩) pc.toNat false

/-- Records the first failure of a batch; where the warp has ended, the walk takes it, which in a killed workgroup is absorbed
(R297, R373). R297 speaks of the failures held when a warp ends; of copies that fail after it, each goes to a walk of its own (DESIGN
CHOICE, log 120). -/
def recordFailure (s : State) (x : Xfer) (code detail : Nat) : State :=
  match x.place, x.batch with
  | some pl, some b =>
    if x.gone then walkFailure s ⟨9999, x.part, x.ctx, x.wg, x.core, x.track, placeSlot pl⟩ code detail x.pc
    else modWarp s pl (fun w =>
      if w.fails.any (fun c => c.batch == b) then w else { w with fails := w.fails ++ [⟨b, code, detail, x.pc.toNat⟩] })
  | _, _ => s

/-- Changes a transfer. -/
def modXfer (s : State) (id : Nat) (f : Xfer → Xfer) : State := { s with xfers := FMap.modify s.xfers id f }

/-- A region entry whose staging has completed; a clear that waited for it takes effect (R306). -/
def endFlight (s : State) (g e : Nat) : State :=
  match (wg? s g).bind (fun x => FMap.get? x.regions e) with
  | none => s
  | some r =>
    if r.cleared then modWg s g (fun x => { x with regions := FMap.del x.regions e })
    else modWg s g (fun x => { x with regions := FMap.ins x.regions e { r with flight := none } })

/-- Ends a transfer that has moved everything: a COPYO arrives at its object once the object's chunk is present (R311); until
then the transfer stays, complete for its batch. -/
def endXfer (s : State) (id : Nat) : State :=
  match FMap.get? s.xfers id with
  | none => s
  | some x =>
    let gone (s : State) : State := { s with xfers := FMap.del s.xfers id }
    match x.entry, x.bar with
    | some e, _ => endFlight (gone s) x.wg e
    | none, none => gone s
    | none, some o =>
      let s := rouse s x.wg (chunksAt o 8) x.core x.track x.sup
      if (missing s x.wg (chunksAt o 8)).isEmpty && !matOwes s x.wg id (o, 8) then
        let v := ((wg? s x.wg).map (fun g => (objWord g o).testBit 63)).getD false
        let s := if v then arriveAt s x.wg o (dChunks x.desc).2 else s
        gone s
      else modXfer s id (fun x => { x with batch := none })

/-- All chunks of a transfer have been moved. -/
def xferDone (x : Xfer) : Bool := (chunkList x.desc).all (fun k => x.landed.contains k)

/-- A byte of scratchpad already holds what a transfer issued later wrote there (R295). -/
def laterWrote (x : Xfer) (o : Nat) : Bool := x.later.any (fun r => decide (r.1 ≤ o) && decide (o < r.1 + r.2))

/-- What a transfer has marked poisoned in failing stays marked before the transfers issued before it (R295, R297). -/
def noteMarked (s : State) (id : Nat) (x : Xfer) (secs : List Nat) : State :=
  { s with xfers := s.xfers.map (fun e =>
      if e.1 < id ∧ e.2.wg = x.wg ∧ !e.2.out then (e.1, { e.2 with marked := e.2.marked ++ secs }) else e) }

/-- A transfer fails (R297): the bytes it has not written are marked poisoned where it writes scratchpad, its chunks become
present, and it ends. -/
def failXfer (s : State) (id : Nat) (x : Xfer) (code detail : Nat) : State :=
  let left := (chunkList x.desc).filter (fun k => !x.landed.contains k)
  let s := recordFailure s x code detail
  let s := modXfer s id (fun x => { x with landed := chunkList x.desc, failed := some (code, detail) })
  let s := if x.out then s
    else
      let secs := (left.flatMap (fun k => ((chunkElems x.desc k).filter (fun n => !laterWrote x (dLocal x.desc n))).map
        (fun n => dLocal x.desc n / 32))).dedup
      let s := modWg s x.wg (fun g => { g with spadPoison := secs.foldl (fun m sec => FMap.ins m sec .anon) g.spadPoison })
      landChunks (noteMarked s id x secs) x.wg left
  endXfer s id

/-! Moving bytes. -/

/-- The stores that put bytes at an offset, but for those that a later transfer has written. -/
def landStores (x : Xfer) (o : Nat) (b : List Byte) (m : Option Mark) : List Store :=
  if (List.range b.length).any (fun j => laterWrote x (o + j)) then
    (List.range b.length).filterMap (fun j => if laterWrote x (o + j) then none else some ⟨o + j, [b.getD j 0#8], m⟩)
  else [⟨o, b, m⟩]

/-- The bytes of a window that lie in chunk k. -/
def chunkSpan (d : BitVec 256) (k : Nat) : Nat × Nat :=
  let lo := max (512 * k) (dSoff d)
  (lo, min (512 * (k + 1)) (dSoff d + dBytes d) - lo)

/-- What a transfer has written in a chunk stays before the transfers issued before it (R295). -/
def noteOver (s : State) (id : Nat) (x : Xfer) (k : Nat) : State :=
  { s with xfers := s.xfers.map (fun e =>
      if e.1 < id ∧ e.2.wg = x.wg ∧ !e.2.out then (e.1, { e.2 with later := e.2.later ++ [chunkSpan x.desc k] }) else e) }

/-- The sectors that a later transfer has marked keep a mark. -/
def remark (x : Xfer) (st : List Store) (g : Wg) : Wg :=
  let kept := (storeSectors st).filter (fun sec => x.marked.contains sec)
  { g with spadPoison := kept.foldl (fun m sec => if (FMap.get? m sec).isSome then m else FMap.ins m sec .anon) g.spadPoison }

/-- Puts the elements of a chunk, as they were read, into scratchpad. -/
def moveIn' (s : State) (id : Nat) (x : Xfer) (k : Nat) (l : List (List Byte × Option Mark)) : State :=
  let st := ((chunkElems x.desc k).zip l).flatMap (fun e => landStores x (dLocal x.desc e.1) e.2.1 e.2.2)
  noteOver (modWg s x.wg (fun g => remark x st (spadStores g st))) id x k

/-- The elements of chunk k of a transfer into scratchpad: as they were read at its issue, and the others, at the addresses of
`items`, as they read now. -/
def chunkData (s : State) (x : Xfer) (k : Nat) (items : List Item) : State × List (List Byte × Option Mark) :=
  let (s, l) := if items.isEmpty then (s, []) else xferRead s x items
  let new := (unreadElems x k).zip l
  (s, (chunkElems x.desc k).map (fun n =>
    match FMap.get? x.got n with
    | some v => v
    | none => ((new.find? (fun e => e.1 == n)).map Prod.snd).getD ([], none)))

/-- Writes the elements of a chunk from scratchpad to memory; the core's L1 keeps nothing older of them (R249, R251). -/
def moveOut' (s : State) (x : Xfer) (data : List (Item × List Byte × Option Mark)) : State :=
  let stores (h : Bool) : List Store := (data.filter (fun e => pteHome e.1.leaf == h)).map (fun e => ⟨e.1.pa, e.2.1, e.2.2⟩)
  let full (sec : Nat) : Bool := coveredBy (stores false ++ stores true) sec == 32
  let s := xferLookups s x (data.map Prod.fst) full
  let s := [false, true].foldl (fun s h => if (stores h).isEmpty then s else physStores s none (ctxKey s x.ctx h) (stores h)) s
  data.foldl (fun s e => l1Sync s x.core e.1.pa) s

/-- Chunk k of a transfer may move now (R295, R298): a copy out reads present chunks, after the matrix writes issued before it;
a copy's writes come after those too (R325). -/
def moveReady (s : State) (id : Nat) (x : Xfer) (k : Nat) : Bool :=
  (!x.out || (missing s x.wg [k]).isEmpty) && (x.entry.isSome || !matOwes s x.wg id (512 * k, 512))

/-- Moves chunk k of a transfer (R294): it lands, or the transfer pauses or fails; a DENY ends it (R296). -/
def moveChunk (s : State) (id k : Nat) : State :=
  match FMap.get? s.xfers id with
  | none => s
  | some x =>
    if x.pause.isSome || x.landed.contains k || !dHas x.desc k then s
    else if !x.denied.isEmpty then failXfer s id x 6 ((x.denied.map Prod.snd).headD 0)
    else
      let s := if x.out then rouse s x.wg [k] x.core x.track x.sup else s
      if !moveReady s id x k then s
      else
        let land (s : State) : State := modXfer s id (fun x => { x with landed := x.landed ++ [k] })
        let acc : Access := if x.out then .engineWrite else .engineRead
        let es := if x.out then chunkElems x.desc k else unreadElems x k
        match enginePages s (xferFaulter x) x.denied acc (es.map (fun n => (dGlobal x.desc n).toNat)) with
        | (s, .fail c d) => failXfer s id x c d
        | (s, .pause c) => modXfer s id (fun x => { x with pause := some c })
        | (s, .ok items) =>
          match (items.filterMap (snoopNeeds s x.out)).head? with
          | some ln => modXfer (sendSnoop s ln x.out) id (fun x => { x with pause := some (.snoop ln) })
          | none =>
            if x.out then
              match wg? s x.wg with
              | none => s
              | some g =>
                let data := (items.zip es).map (fun it =>
                  (it.1, spadBytes g (dLocal x.desc it.2) (dElem x.desc), spadMark g (dLocal x.desc it.2)))
                if data.any (fun e => e.2.2.isSome && (pteHome e.1.leaf || pteTier e.1.leaf == 2)) then failXfer s id x 8 0
                else land (moveOut' s x data)
            else
              let (s, l) := chunkData s x k items
              landChunks (land (moveIn' s id x k l)) x.wg [k]

/-- Moves what is left of a transfer, in chunk order, and ends it when nothing is left. -/
def moveAll (s : State) (id : Nat) : State :=
  match FMap.get? s.xfers id with
  | none => s
  | some x =>
    let s := (chunkList x.desc).foldl (fun s k => moveChunk s id k) s
    match FMap.get? s.xfers id with
    | some y => if xferDone y then endXfer s id else s
    | none => s

/-- COPY_COMPLETE (R294, R297). -/
def execCopyComplete (id : Nat) (s : State) : Host.Outcome State Fault Refusal :=
  match FMap.get? s.xfers id with
  | some x => .next (if x.entry.isNone then moveAll s id else s)
  | none => .next s

/-- CHUNK_PRESENT (R298): the last bytes of a transfer land in one chunk. -/
def execChunkPresent (id k : Nat) (s : State) : Host.Outcome State Fault Refusal := .next (moveChunk s id k)

/-- STAGING_COMPLETE (R308). -/
def execStagingComplete (id : Nat) (s : State) : Host.Outcome State Fault Refusal :=
  match FMap.get? s.xfers id with
  | some x => .next (if x.entry.isSome then moveAll s id else s)
  | none => .next s

end Sys2Proof.Machine
end

