-- ==== Sys2Proof/Machine/Matrix.lean ====
section
/-! DEFINITION. Group 0xB as it issues: the checks of R319 to R324, the track's binding and queue (R317, R322, R325), and MWAIT
(R341). -/

namespace Sys2Proof.Machine

open Sys2Proof

/-! Tracks. -/

/-- A track's state. -/
def trackSt (s : State) (core track : Nat) : Track := FMap.getD s.tracks (core * 8 + track) Track.empty

/-- Changes a track. -/
def modTrack (s : State) (core track : Nat) (f : Track → Track) : State :=
  { s with tracks := FMap.ins s.tracks (core * 8 + track) (f (trackSt s core track)) }

/-- The track of an issue. -/
def issTrack (s : State) (i : Iss) : Track := trackSt s (placeCore i.place) (placeTrack i.place)

/-! TCFG checks (R319, R320), by the DETAIL of the first that fails. -/

/-- The conditions of every use, and of MX = 1. -/
def useOk (t : Nat) : Bool :=
  let b := tBits (tType t)
  b != 0 && tRows t != 0 && tCols t != 0 && tLs t * b % 8 == 0 && decide (tS t * tLs t * b ≤ 65536) && bits t 24 2 == 0 &&
    (!tMx t || (decide (tType t = 4 ∨ tType t = 5 ∨ tType t = 6) && tLs t % 32 == 0 && decide (tS t * tLs t / 32 ≤ 512)))

/-- The conditions on A. -/
def useA (t : Nat) : Bool := useOk t && tRows t == 32 && tCols t % tK (tType t) == 0 && !(tMx t && tTr t)

/-- The conditions on B. -/
def useB (t : Nat) : Bool := useOk t && tCols t == 48 && (!tMx t || tTr t)

/-- A TYPE that MVLOOP takes. -/
def vectorType (ty : Nat) : Bool := ty == 0 || ty == 1 || ty == 4 || ty == 5 || ty == 6

/-- The conditions on the vectors. -/
def useV (t : Nat) : Bool :=
  useOk t && !tTr t && decide (tRows t ≤ 8) && tCols t % tK (tType t) == 0 && vectorType (tType t)

/-- The conditions on the weight type. -/
def useW (t : Nat) : Bool := vectorType (tType t) && (!tMx t || decide (tType t = 4 ∨ tType t = 5 ∨ tType t = 6))

/-- Types that pair are in one class (R320). -/
def pairClass (ty : Nat) : Nat := if ty = 5 then 4 else if ty = 9 then 8 else ty

/-- An integer type. -/
def intType (ty : Nat) : Bool := ty == 8 || ty == 9

/-- The mode that an accumulator has for the instruction that issues now: what the last ACCZ or ACCLD queued will set, else its
own (R321). -/
def accMode (t : Track) (n : Nat) : Bool :=
  let own := (if n = 0 then t.acc0 else t.acc1).int
  t.queue.foldl (fun m o =>
    match o.word with
    | .accz f => if accC f = n then f.mod.getLsbD 0 else m
    | .accld f => if accC f = n then f.mod.getLsbD 0 else m
    | _ => m) own

/-- The accumulator a matrix instruction writes (R322). -/
def matAcc (m : MatOp) : Option Nat :=
  match m.word with
  | .mma f | .mloop f | .mvloop f | .accz f | .accld f => some (accC f)
  | _ => none

/-- An accumulator is leased (R322). -/
def accLeased (t : Track) (n : Nat) : Bool := t.queue.any (fun m => matAcc m == some n)

/-- The wait bit of the accumulator position. -/
def accWaits (f : WordF) : Bool :=
  match f.c with
  | .ext _ w => w
  | _ => true

/-! Issue. -/

/-- A matrix group is not ready while another workgroup holds the binding, or while the queue is full (R317, R325). -/
def matWait (s : State) (i : Iss) : Bool :=
  let t := issTrack s i
  t.bind.any (fun g => g != i.w.wg) || (i.acts && decide (t.queue.length ≥ 16))

/-- Takes a free binding (R317). -/
def takeBinding (s : State) (i : Iss) : State :=
  modTrack s (placeCore i.place) (placeTrack i.place) (fun t =>
    if t.bind.isNone then { t.unbound with bind := some i.w.wg } else t)

/-- Puts a matrix instruction into the track's queue, with what it read at issue. -/
def enqueue (s : State) (i : Iss) (x : Instr) (src : List Nat) : State :=
  let m : MatOp := ⟨s.nextId, i.place, x, src, i.w.tcfg.toList, 0, 0, i.l, i.pc, i.w.rm, i.w.ftz, none, [], false,
    supMode i.place i.w, i.w.fpEn⟩
  let s := modTrack { s with nextId := s.nextId + 1 } (placeCore i.place) (placeTrack i.place)
    (fun t => { t with queue := t.queue ++ [m] })
  s

/-- Runs a matrix word: the lease of its accumulator (R322), poison (check 2), then its own checks 3 to 7; `src` is what it
keeps. `acc` says that it names an accumulator. -/
def matWord (x : Instr) (f : WordF) (acc : Bool) (chk : State → Iss → Option Trap) (eff : State → Iss → State) (s : State) :
    Host.Outcome State Fault Refusal :=
  runWord x f.guard matWait noBad (fun s i =>
    let t := issTrack s i
    if acc && t.bind.isSome && !accWaits f && accLeased t (accC f) then .trap (issueTrap i 2 0 3 false)
    else if !i.acts then .retire s
    else
      match poisonTrap i (sourcesOf x) with
      | some t => .trap t
      | none =>
        match chk s i with
        | some t => .trap t
        | none => .retire (eff (takeBinding s i) i)) s

/-- The TCFG of a tile register. -/
def cfgOf (i : Iss) (n : Nat) : Nat := ((i.w.tcfg.toList[n]?).getD 0).toNat

/-- ILLEGAL unless a condition holds. -/
def need (i : Iss) (ok : Bool) (detail : Nat) : Option Trap := if ok then none else some (illegalTrap i detail)

/-- MISALIGN unless a value is a multiple of 16 (check 6). -/
def need16 (i : Iss) (x opnd : Nat) : Option Trap := if x % 16 = 0 then none else some (issueTrap i 5 0 opnd false)

/-- SPAD_BOUNDS unless every range lies in the allocation (check 7). -/
def needSpad (s : State) (i : Iss) (rs : List (Nat × Nat)) (opnd : Nat) : Option Trap :=
  if rs.all (fun r => r.2 == 0 || decide (r.1 + r.2 ≤ spadSize s i)) then none else some (issueTrap i 4 0 opnd false)

/-- The first trap of a list. -/
def firstOf (l : List (Option Trap)) : Option Trap := l.findSome? id

/-- The accumulator's mode suits a pair or a read-out. -/
def needMode (s : State) (i : Iss) (f : WordF) (int : Bool) : Option Trap :=
  let t := issTrack s i
  need i ((if t.bind.isSome then accMode t (accC f) else false) == int) 0x2A

/-- Checks of TLD and TST. -/
def moveChecks (f : WordF) (s : State) (i : Iss) : Option Trap :=
  let t := cfgOf i (tileA f)
  let off := uArg s i f.b
  let pitch := uArg s i f.c
  firstOf [need i (useOk t) 0x28, need16 i off 2, need16 i pitch 3, needSpad s i (moveRanges t off pitch) 2]

/-- TLD (R329). -/
def execTld (f : WordF) (s : State) : Host.Outcome State Fault Refusal :=
  matWord (.tld f) f false (moveChecks f) (fun s i => enqueue s i (.tld f) [uArg s i f.b, uArg s i f.c]) s

/-- TST (R329). -/
def execTst (f : WordF) (s : State) : Host.Outcome State Fault Refusal :=
  matWord (.tst f) f false (moveChecks f) (fun s i => enqueue s i (.tst f) [uArg s i f.b, uArg s i f.c]) s

/-- TZERO (R329). -/
def execTzero (f : WordF) (s : State) : Host.Outcome State Fault Refusal :=
  matWord (.tzero f) f false (fun _ i => need i (useOk (cfgOf i (tileA f))) 0x28) (fun s i => enqueue s i (.tzero f) []) s

/-- Checks of a pair of tiles and the accumulator (R319 to R321). -/
def pairChecks (s : State) (i : Iss) (f : WordF) (ta tb : Nat) : Option Trap :=
  firstOf [need i (useA ta && useB tb) 0x28,
    need i (pairClass (tType ta) == pairClass (tType tb) && tRows tb == tCols ta) 0x29,
    needMode s i f (intType (tType ta))]

/-- MMA (R332). -/
def execMma (f : WordF) (s : State) : Host.Outcome State Fault Refusal :=
  matWord (.mma f) f true (fun s i => pairChecks s i f (cfgOf i (tileA f)) (cfgOf i (tileB f)))
    (fun s i => enqueue s i (.mma f) []) s

/-- The four registers of a g4 operand. -/
def g4 (i : Iss) (o : Opd) : List Nat :=
  match o with
  | .src (.s n) _ _ => (List.range 4).map (fun k => (sRead i.w (n.val + k)).bits.toNat)
  | _ => [0, 0, 0, 0]

/-- Checks of MLOOP: its bytes rise with the K-step, so the first and last K-step bound them. -/
def loopChecks (f : WordF) (s : State) (i : Iss) : Option Trap :=
  let ta := cfgOf i (2 * loopP f)
  let tb := cfgOf i (2 * loopQ f)
  let n := uArg s i f.a
  let g := g4 i f.b
  let at' (j : Nat) : List (Nat × Nat) :=
    moveRanges ta (g.getD 0 0 + j * g.getD 2 0) 0 ++ moveRanges tb (g.getD 1 0 + j * g.getD 3 0) 0
  firstOf ([pairChecks s i f ta tb] ++ g.map (fun x => need16 i x 2) ++
    [if n = 0 then none else needSpad s i (at' 0 ++ at' (n - 1)) 2])

/-- MLOOP (R333). -/
def execMloop (f : WordF) (s : State) : Host.Outcome State Fault Refusal :=
  matWord (.mloop f) f true (loopChecks f)
    (fun s i => if uArg s i f.a = 0 then s else enqueue s i (.mloop f) (uArg s i f.a :: g4 i f.b)) s

/-- The vector tile of an MVLOOP. -/
def mvV (f : WordF) : Nat := bits f.mod.toNat 3 3
/-- The weight configuration of an MVLOOP. -/
def mvW (f : WordF) : Nat := bits f.mod.toNat 0 3

/-- Bytes of a weight row with its scales (R336). -/
def rowBytes (tv tw : Nat) : Nat := tCols tv * tBits (tType tw) / 8 + (if tMx tw then (tCols tv + 31) / 32 else 0)

/-- Checks of MVLOOP. -/
def mvChecks (f : WordF) (s : State) (i : Iss) : Option Trap :=
  let tv := cfgOf i (mvV f)
  let tw := cfgOf i (mvW f)
  let w := uniVal s i (.int 64) f.a
  let stride := uArg s i f.b / 256
  let rows := uArg s i f.b % 256
  firstOf [need i (useV tv && useW tw) 0x28, need i (pairClass (tType tv) == pairClass (tType tw)) 0x29,
    needMode s i f false, need i (decide (rows ≤ 192)) 0x2B,
    if rows ≠ 0 ∧ w + (rows - 1) * stride + rowBytes tv tw > 2 ^ 57 then some (issueTrap i 6 8 1 false) else none,
    need16 i w 1, need16 i stride 2]

/-- MVLOOP (R336). -/
def execMvloop (f : WordF) (s : State) : Host.Outcome State Fault Refusal :=
  matWord (.mvloop f) f true (mvChecks f)
    (fun s i =>
      let rows := uArg s i f.b % 256
      if rows = 0 then s else enqueue s i (.mvloop f) [uniVal s i (.int 64) f.a, uArg s i f.b / 256, rows]) s

/-- MGEN.IDENT (R330). -/
def execMgenIdent (f : WordF) (s : State) : Host.Outcome State Fault Refusal :=
  matWord (.mgenIdent f) f false (fun _ i => need i (useOk (cfgOf i (tileA f))) 0x28) (fun s i => enqueue s i (.mgenIdent f) []) s

/-- MGEN.ONES (R330). -/
def execMgenOnes (f : WordF) (s : State) : Host.Outcome State Fault Refusal :=
  matWord (.mgenOnes f) f false (fun _ i => need i (useOk (cfgOf i (tileA f))) 0x28) (fun s i => enqueue s i (.mgenOnes f) []) s

/-- MGEN.PERM (R330). -/
def execMgenPerm (f : WordF) (s : State) : Host.Outcome State Fault Refusal :=
  matWord (.mgenPerm f) f false
    (fun _ i => need i (useOk (cfgOf i (tileA f)) && useOk (cfgOf i (tileB f))) 0x28) (fun s i => enqueue s i (.mgenPerm f) []) s

/-- ACCZ (R331). -/
def execAccz (f : WordF) (s : State) : Host.Outcome State Fault Refusal :=
  matWord (.accz f) f true (fun _ _ => none) (fun s i => enqueue s i (.accz f) []) s

/-- Checks of ACCLD and ACCST. -/
def accChecks (f : WordF) (s : State) (i : Iss) : Option Trap :=
  firstOf [need16 i (uArg s i f.a) 1, needSpad s i [(uArg s i f.a, 24576)] 1]

/-- ACCLD (R331). -/
def execAccld (f : WordF) (s : State) : Host.Outcome State Fault Refusal :=
  matWord (.accld f) f true (accChecks f) (fun s i => enqueue s i (.accld f) [uArg s i f.a]) s

/-- ACCST (R331). -/
def execAccst (f : WordF) (s : State) : Host.Outcome State Fault Refusal :=
  matWord (.accst f) f true (accChecks f) (fun s i => enqueue s i (.accst f) [uArg s i f.a]) s

/-- Registers that an ACCRD fills. -/
def accrdRegs (f : WordF) : Nat := 2 ^ (extOf f.b % 4)

/-- ACCRD (R339, R340): its destinations are empty until the read-out completes. -/
def execAccrd (f : WordF) (s : State) : Host.Outcome State Fault Refusal :=
  matWord (.accrd f) f true (fun s i => needMode s i f (extOf f.b / 8 % 2 == 1)) (fun s i =>
    let c := uArg s i f.a
    let res : FpRes := ⟨s.nextId, false, 0, 0, 0, i.pc, BitVec.ofNat 9 (dstCode f.dst), false⟩
    let id := s.nextId
    let s := enqueue s i (.accrd f) [c]
    let s := { s with nextId := id }
    let s := if extOf f.b / 8 % 2 = 1 then s else modWarp s i.place (fun w => pushRes w res)
    addPend s i.place .matrix i.l (fillsOf f.dst (accrdRegs f) i.l (fun _ _ => Val.clean 0))) s

/-! MWAIT (R341). -/

/-- A mask covers a matrix instruction. -/
def matCovered (m : Nat) (o : MatOp) : Bool :=
  (matAcc o).any (fun n => m.testBit n) ||
    (m.testBit 2 &&
      (match o.word with
        | .tld _ | .tst _ | .tzero _ | .mgenIdent _ | .mgenOnes _ | .mgenPerm _ | .accld _ | .accst _ => true
        | _ => false))

/-- MWAIT waits for the instructions of its warp that its mask covers. -/
def mwaitWait (f : WordF) (s : State) (i : Iss) : Bool :=
  let t := issTrack s i
  t.bind.any (fun g => g != i.w.wg) ||
    (i.acts && (poisonTrap i (sourcesOf (.mwait f))).isNone &&
      t.queue.any (fun o => o.place == i.place && !o.gone && matCovered (uArg s i f.a) o))

/-- MWAIT (R341): the completion point, and the report of recorded failures (R338). -/
def execMwait (f : WordF) (s : State) : Host.Outcome State Fault Refusal :=
  runWord (.mwait f) f.guard (mwaitWait f) noBad (fun s i =>
    if !i.acts then .retire s
    else
      match poisonTrap i (sourcesOf (.mwait f)) with
      | some t => .trap t
      | none =>
        match i.w.mvfail.find? (fun c => (uArg s i f.a).testBit c.acc) with
        | some c => .report (issueTrap i c.code c.detail 0 false)
            (fun w => { w with mvfail := w.mvfail.filter (fun x => x.acc != c.acc) })
        | none => .retire (takeBinding s i)) s

end Sys2Proof.Machine
end

