-- ==== Sys2Proof/Machine/MatrixUnit.lean ====
section
/-! DEFINITION. The matrix units: tile transfers, generated constants, K-steps, accumulator transfers and read-out, and the steps at
which they complete (R70, R71, R315, R325, R327 to R340). -/

namespace Sys2Proof.Machine

open Sys2Proof

/-! Tile registers. -/

/-- A tile register of a track. -/
def tileOf (t : Track) (n : Nat) : Tile := FMap.getD t.tiles n Tile.zero
/-- Changes a tile register. -/
def modTile (t : Track) (n : Nat) (f : Tile → Tile) : Track := { t with tiles := FMap.ins t.tiles n (f (tileOf t n)) }
/-- A data byte. -/
def tileByte (t : Tile) (o : Nat) : Byte := FMap.getD t.data o 0#8
/-- A scale byte. -/
def tileScale (t : Tile) (o : Nat) : Byte := FMap.getD t.scale o 0x7F#8
/-- Writes a scale byte; 0x7F is not listed. -/
def scalePut (m : FMap Byte) (o : Nat) (b : Byte) : FMap Byte := if b = 0x7F#8 then FMap.del m o else FMap.ins m o b

/-- Poison granules after stores (R328): poisoned data mark a granule, clean data over the whole of it clear it. -/
def granules' (base : Nat) (p : FMap Mark) (l : List Store) : FMap Mark :=
  (storeSectors l).foldl (fun m g =>
    match (l.filter (fun w => w.pa / 32 == g)).findSome? (fun w => w.mark) with
    | some x => FMap.ins m (base + g) x
    | none => if coveredBy l g = 32 then FMap.del m (base + g) else m) p

/-- Stores into a tile's data bytes. -/
def tileStores (t : Tile) (l : List Store) : Tile :=
  { t with
    data := l.foldl (fun m w => (List.range w.bytes.length).foldl (fun m j => spadPut m (w.pa + j) (w.bytes.getD j 0#8)) m) t.data
    pois := granules' 0 t.pois l }

/-- Stores into a tile's scale bytes. -/
def scaleStores (t : Tile) (l : List Store) : Tile :=
  { t with
    scale := l.foldl (fun m w => (List.range w.bytes.length).foldl (fun m j => scalePut m (w.pa + j) (w.bytes.getD j 0#8)) m)
      t.scale
    pois := granules' 256 t.pois l }

/-- Cuts n bytes between a scratchpad offset and a tile offset into pieces within one sector and one granule. -/
def cutPieces : Nat → Nat → Nat → Nat → List (Nat × Nat × Nat)
  | 0, _, _, _ => []
  | fuel + 1, o, t, n =>
    if n = 0 then []
    else
      let k := min n (min (32 - o % 32) (32 - t % 32))
      (o, t, k) :: cutPieces fuel (o + k) (t + k) (n - k)

/-- The data pieces of a tile transfer (R329). -/
def dataPieces (cfg off pitch : Nat) : List (Nat × Nat × Nat) :=
  let p := if pitch = 0 then tRb cfg else pitch
  (List.range (tS cfg)).flatMap (fun s => cutPieces (tRb cfg) (off + s * p) (s * tRb cfg) (tRb cfg))

/-- The scale pieces of a tile transfer. -/
def scalePieces (cfg off pitch : Nat) : List (Nat × Nat × Nat) :=
  let p := if pitch = 0 then tRb cfg else pitch
  cutPieces (tScales cfg) (off + tS cfg * p) 0 (tScales cfg)

/-- Moves scratchpad bytes into a tile. -/
def tileLoad (g : Wg) (t : Tile) (cfg off pitch : Nat) : Tile :=
  let st (l : List (Nat × Nat × Nat)) : List Store := l.map (fun e => ⟨e.2.1, spadBytes g e.1 e.2.2, spadMark g e.1⟩)
  let t := tileStores t (st (dataPieces cfg off pitch))
  if tMx cfg then scaleStores t (st (scalePieces cfg off pitch)) else t

/-- Moves a tile's bytes to scratchpad. -/
def tileSave (g : Wg) (t : Tile) (cfg off pitch : Nat) : Wg :=
  let d := (dataPieces cfg off pitch).map (fun e =>
    (⟨e.1, (List.range e.2.2).map (fun j => tileByte t (e.2.1 + j)), FMap.get? t.pois (e.2.1 / 32)⟩ : Store))
  let c := if tMx cfg then (scalePieces cfg off pitch).map (fun e =>
      (⟨e.1, (List.range e.2.2).map (fun j => tileScale t (e.2.1 + j)), FMap.get? t.pois (256 + e.2.1 / 32)⟩ : Store))
    else []
  spadStores g (d ++ c)

/-! Elements (R318). -/

/-- The stored position of logical element (r, c). -/
def storedPos (cfg r c : Nat) : Nat × Nat := if tTr cfg then (c, r) else (r, c)

/-- The first bit of an element. -/
def elemBit (cfg r c : Nat) : Nat := let p := storedPos cfg r c; (p.1 * tLs cfg + p.2) * tBits (tType cfg)

/-- The bits of an element. -/
def elemRaw (t : Tile) (cfg r c : Nat) : Nat :=
  let b := tBits (tType cfg)
  let o := elemBit cfg r c
  bits (natOfBytes ((List.range ((b + 7) / 8)).map (fun j => tileByte t (o / 8 + j)))) (o % 8) b

/-- The scale byte of an element. -/
def elemScaleAt (cfg r c : Nat) : Nat := let p := storedPos cfg r c; p.1 * (tLs cfg / 32) + p.2 / 32

/-- The scale of an element: 1 without MX. -/
def elemScale (t : Tile) (cfg r c : Nat) : FVal :=
  if tMx cfg then scaleVal (tileScale t (elemScaleAt cfg r c)).toNat else .fin false 1 0

/-- The mark of an element or of its scale (R328). -/
def elemMark (t : Tile) (cfg r c : Nat) : Option Mark :=
  match FMap.get? t.pois (elemBit cfg r c / 256) with
  | some m => some m
  | none => if tMx cfg then FMap.get? t.pois (256 + elemScaleAt cfg r c / 32) else none

/-- The value of an encoding of a floating TYPE. -/
def fpOf (ty x : Nat) : FVal := (ftyOf ty).fmt.unpack x
/-- The value of an encoding of S8 or Z8. -/
def intOf (ty x : Nat) : Int := if ty = 8 then toSigned 8 x else ((x % 256 : Nat) : Int)

/-! Accumulators. -/

/-- An accumulator of a track. -/
def accOf (t : Track) (n : Nat) : Acc := if n = 0 then t.acc0 else t.acc1
/-- Replaces an accumulator. -/
def setAcc (t : Track) (n : Nat) (a : Acc) : Track := if n = 0 then { t with acc0 := a } else { t with acc1 := a }
/-- An element. -/
def accGet (a : Acc) (n : Nat) : Nat := (FMap.getD a.el n 0).toNat
/-- Writes an element; zero is not listed. -/
def accPut (a : Acc) (n x : Nat) : Acc :=
  { a with el := if x = 0 then FMap.del a.el n else FMap.ins a.el n (BitVec.ofNat 80 x) }
/-- Marks an element where there is a mark. -/
def accMark (a : Acc) (n : Nat) (m : Option Mark) : Acc :=
  match m with
  | some x => if (FMap.get? a.pois n).isSome then a else { a with pois := FMap.ins a.pois n x }
  | none => a

/-- One integer step (R71). -/
def intStep (acc : Nat) (ps : List (Int × Int)) : Nat :=
  ofInt 64 (toSigned 64 acc + (ps.map (fun p => p.1 * p.2)).sum)

/-- The run of unit steps of one element (R332): κ runs over n values from the first, in groups of k. -/
def runSteps (acc n k : Nat) (step : Nat → List Nat → Nat) : Nat :=
  (List.range (n / k)).foldl (fun a q => step a ((List.range k).map (fun j => q * k + j))) acc

/-- The K-step of an MMA (R332, R328). -/
def mmaStep (t : Track) (n : Nat) (ca cb : Nat) (a b : Tile) : Track :=
  let kt := tCols ca
  let k := tK (tType ca)
  let ks := List.range kt
  let rowMark := (List.range 32).map (fun i => ks.findSome? (fun q => elemMark a ca i q))
  let colMark := (List.range 48).map (fun j => ks.findSome? (fun q => elemMark b cb q j))
  let step (i j : Nat) (x : Nat) (qs : List Nat) : Nat :=
    if intType (tType ca) then
      intStep x (qs.map (fun q => (intOf (tType ca) (elemRaw a ca i q), intOf (tType cb) (elemRaw b cb q j))))
    else matrixStep x (qs.map (fun q => (fpOf (tType ca) (elemRaw a ca i q), fpOf (tType cb) (elemRaw b cb q j))))
      (qs.map (fun q => (elemScale a ca i q, elemScale b cb q j)))
  let acc := (List.range 1536).foldl (fun (c : Acc) e =>
    let i := e / 48
    let j := e % 48
    let c := accPut c e (runSteps (accGet c e) kt k (step i j))
    accMark c e ((rowMark.getD i none).orElse (fun _ => colMark.getD j none))) (accOf t n)
  setAcc t n acc

/-! MVLOOP (R336 to R338). -/

/-- The elements of K in block j. -/
def mvBlock (kv j : Nat) : List Nat := (List.range (min 32 (kv - 32 * j))).map (fun e => 32 * j + e)

/-- The bytes of weight row ρ that block j reads: elements, and the scale byte. -/
def mvRanges (m : MatOp) (tv tw j r : Nat) : List (Nat × Nat) :=
  let b := tBits (tType tw)
  let base := m.arg 0 + r * m.arg 1
  let n := (mvBlock (tCols tv) j).length
  [(base + 32 * j * b / 8, n * b / 8)] ++ (if tMx tw then [(base + tCols tv * b / 8 + j, 1)] else [])

/-- The pages of ranges of bytes. -/
def pagesOf (l : List (Nat × Nat)) : List Nat :=
  (l.flatMap (fun r => (List.range (if r.2 = 0 then 0 else (r.1 + r.2 - 1) / 4096 - r.1 / 4096 + 1)).map (fun i => r.1 / 4096 + i))).dedup

/-- A row takes no further product: one of its pages, up to block j, has been denied (R338). -/
def mvDead (m : MatOp) (tv tw j r : Nat) : Bool :=
  (List.range (j + 1)).any (fun i => (pagesOf (mvRanges m tv tw i r)).any (fun p => m.denied.any (fun e => e.1 == p)))

/-- The lookup of one sector of weights (R337): L2 serves what it holds, and else the home gives the sector and no line is
allocated; a leaf with PI = 1 is read from its old frame and fills L2 (R230). Nothing is counted. -/
def weightLookup (s : State) (p ctx va leaf sec : Nat) : State :=
  let held := s.l2.any (fun l => l.line == sec / 4 && (l.sectors.toList[sec % 4]?).any (fun x => x.valid))
  if held || ptePI leaf then
    l2Access s ⟨p, ctx, some va, .normal, (1#4) <<< (sec % 4), 0#4, false, pteHome leaf && pteCoh leaf⟩ (32 * sec)
  else chargeAtoms s (32 * sec) p 1

/-- Reads a range of weight bytes with their marks, sector by sector; `at'` gives the translated address and leaf of a page. The core's
L1 keeps nothing older of them, since the reads stand in the program order of the issuing thread (R242, R252). -/
def weightBytes (s : State) (core p ctx : Nat) (at' : List (Nat × Nat × Nat)) (r : Nat × Nat) : State × Nat × Option Mark :=
  let pieces := cutPieces r.2 r.1 r.1 r.2
  pieces.foldl (fun (acc : State × Nat × Option Mark) e =>
    match at'.find? (fun x => x.1 == e.1 / 4096) with
    | none => acc
    | some (_, pa, leaf) =>
      let a := pa + e.1 % 4096
      let (s, b, m) := sectorRead (weightLookup acc.1 p ctx e.1 leaf (a / 32)) ctx leaf a e.2.2
      (l1Sync s core a, acc.2.1 + natOfBytes b * 2 ^ (8 * (e.1 - r.1)), acc.2.2.orElse (fun _ => m))) (s, 0, none)

/-- The first line of weights that a host must give up before a K-step reads them (R441). -/
def weightSnoop (s : State) (at' : List (Nat × Nat × Nat)) (rs : List (Nat × Nat)) : Option Nat :=
  rs.findSome? (fun r => (cutPieces r.2 r.1 r.1 r.2).findSome? (fun e =>
    (at'.find? (fun x => x.1 == e.1 / 4096)).bind (fun x => snoopSpan s x.2.2 false (x.2.1 + e.1 % 4096) e.2.2)))

/-- What the pages of a K-step give. -/
inductive MvPages where
  | ok (l : List (Nat × Nat × Nat))
  | pause (c : ParkCause)
  | deny (page code detail : Nat)
  deriving DecidableEq, Repr

/-- Translates the pages of the rows that are not dead, in order. -/
def mvPages (f : Faulter) : List Nat → State → State × MvPages
  | [], s => (s, .ok [])
  | p :: t, s =>
    match enginePage s f [] .engineRead (p * 4096) with
    | (s, .fail c d) => (s, .deny p c d)
    | (s, .pause c) => (s, .pause c)
    | (s, .ok pa e) =>
      match mvPages f t s with
      | (s, .ok l) => (s, .ok ((p, pa, e) :: l))
      | r => r

/-- Marks the elements that dead rows feed (R338). -/
def markDead (a : Acc) (m : MatOp) (tv tw j : Nat) : Acc :=
  (List.range (m.arg 2)).foldl (fun a r =>
    if mvDead m tv tw j r then
      (List.range (tRows tv)).foldl (fun a v => accMark a (48 * (r % 32) + 8 * (r / 32) + v) (some .anon)) a
    else a) a

/-- The products of one row in one block (R336). -/
def mvRow (a : Acc) (x : Tile) (tv tw j r : Nat) (w sc : Nat) (mark : Option Mark) : Acc :=
  let qs := mvBlock (tCols tv) j
  let k := tK (tType tw)
  let b := tBits (tType tw)
  let ws : FVal := if tMx tw then scaleVal sc else .fin false 1 0
  (List.range (tRows tv)).foldl (fun a v =>
    let e := 48 * (r % 32) + 8 * (r / 32) + v
    let y := runSteps (accGet a e) qs.length k (fun acc ps =>
      matrixStep acc (ps.map (fun p => (fpOf (tType tw) (bits w (p * b) b), fpOf (tType tv) (elemRaw x tv v (32 * j + p)))))
        (ps.map (fun p => (ws, elemScale x tv v (32 * j + p)))))
    accMark (accPut a e y) e (mark.orElse (fun _ => qs.findSome? (fun q => elemMark x tv v q)))) a

/-- Changes the instruction at the head of a queue. -/
def modHead (t : Track) (f : MatOp → MatOp) : Track :=
  match t.queue with
  | [] => t
  | m :: r => { t with queue := f m :: r }

/-- One K-step of an MVLOOP: its pages are translated, then every row takes its products. -/
def mvStep (s : State) (core track : Nat) (m : MatOp) (f : WordF) : State :=
  let tv := m.cfg (mvV f)
  let tw := m.cfg (mvW f)
  let j := m.kdone
  let t := trackSt s core track
  let live := (List.range (m.arg 2)).filter (fun r => !mvDead m tv tw j r)
  let ctx := ((t.bind.bind (wg? s)).map (fun g => (g.part, g.ctx))).getD (0, 0)
  let fl : Faulter := ⟨ctx.1, ctx.2, core, track, m.sup⟩
  match mvPages fl (pagesOf (live.flatMap (mvRanges m tv tw j))) s with
  | (s, .pause c) => modTrack s core track (fun t => modHead t (fun m => { m with pause := some c }))
  | (s, .deny p c d) =>
    modTrack s core track (fun t => modHead t (fun m => { m with denied := m.denied ++ [(p, c * 65536 + d)] }))
  | (s, .ok pages) =>
    match weightSnoop s pages (live.flatMap (mvRanges m tv tw j)) with
    | some ln => modTrack (sendSnoop s ln false) core track (fun t => modHead t (fun m => { m with pause := some (.snoop ln) }))
    | none =>
    let x := tileOf t (mvV f)
    let (s, a) := live.foldl (fun (r : State × Acc) row =>
      let rs := mvRanges m tv tw j row
      let (s, w, mk) := weightBytes r.1 core ctx.1 ctx.2 pages (rs.getD 0 (0, 0))
      let (s, sc, mk') := if tMx tw then weightBytes s core ctx.1 ctx.2 pages (rs.getD 1 (0, 0)) else (s, 0, none)
      (s, mvRow r.2 x tv tw j row w sc (mk.orElse (fun _ => mk')))) (s, accOf t (accC f))
    modTrack s core track (fun t =>
      modHead (setAcc t (accC f) (markDead a m tv tw j)) (fun m => { m with kdone := m.kdone + 1 }))

/-! The queue's head. -/

/-- The K-steps of an instruction (R334). -/
def kSteps (m : MatOp) : Nat :=
  match m.word with
  | .mma _ => 1
  | .mloop _ => m.arg 0
  | .mvloop f => (tCols (m.cfg (mvV f)) + 31) / 32
  | _ => 0

/-- An MLOOP that has come back for its last K-step alone fetches the operands of the step before it again as well: they are what
the other buffers hold when the loop completes (R333, R335). -/
def loopBack (m : MatOp) : Bool := m.prior != 0 && m.kdone == 0 && m.arg 0 == 1

/-- The scratchpad offsets of an MLOOP's operands, for the K-step after `kdone`, or `back`, the one before it. -/
def loopAt (m : MatOp) (back : Bool) : Nat × Nat :=
  if back then (m.arg 1 - m.arg 3, m.arg 2 - m.arg 4) else (m.arg 1 + m.kdone * m.arg 3, m.arg 2 + m.kdone * m.arg 4)

/-- The scratchpad bytes that the head will read next. -/
def headReads (m : MatOp) : List (Nat × Nat) :=
  match m.word with
  | .mloop f => ((if loopBack m then [true, false] else [false]).map (loopAt m)).flatMap (fun o =>
      moveRanges (m.cfg (2 * loopP f)) o.1 0 ++ moveRanges (m.cfg (2 * loopQ f)) o.2 0)
  | _ => matReads m

/-- The chunks the head needs. -/
def headChunks (m : MatOp) : List Nat := ((headReads m ++ matWrites m).flatMap (fun r => chunksAt r.1 r.2)).dedup

/-- The head may act: it is not paused, the chunks it touches are present (R327), and every transfer that other tracks issued
before it has passed the bytes that it reads or writes (R252, R295, R325). -/
def headReady (s : State) (t : Track) (m : MatOp) : Bool :=
  m.pause.isNone && (match t.bind with
    | some g => (missing s g (headChunks m)).isEmpty && !(headReads m).any (matOwesWrite s g m.id) &&
        !(matWrites m).any (matOwes s g m.id)
    | none => false)

/-- Starts the stagings that arm chunks the head needs (R327). -/
def rouseHead (s : State) (core track : Nat) : State :=
  let t := trackSt s core track
  match t.bind, t.queue with
  | some g, m :: _ => rouse s g (headChunks m) core track m.sup
  | _, _ => s

/-- The head is a product with a K-step to do, and ready. -/
def kReady (s : State) (core track : Nat) : Bool :=
  let t := trackSt s core track
  match t.queue with
  | [] => false
  | m :: _ => decide (m.kdone < kSteps m) && headReady s t m

/-- One K-step of a track's head. -/
def kStep (s : State) (core track : Nat) : State :=
  let t := trackSt s core track
  match t.queue, t.bind.bind (wg? s) with
  | m :: _, some g =>
    (match m.word with
      | .mma f =>
        modTrack s core track (fun t => modHead
          (mmaStep t (accC f) (m.cfg (tileA f)) (m.cfg (tileB f)) (tileOf t (tileA f)) (tileOf t (tileB f)))
          (fun m => { m with kdone := 1 }))
      | .mloop f =>
        let x := (m.prior + m.kdone) % 2
        let ca := m.cfg (2 * loopP f)
        let cb := m.cfg (2 * loopQ f)
        let fill (t : Track) (x : Nat) (o : Nat × Nat) : Track :=
          modTile (modTile t (2 * loopP f + x) (fun y => tileLoad g y ca o.1 0)) (2 * loopQ f + x) (fun y => tileLoad g y cb o.2 0)
        modTrack s core track (fun t =>
          let t := if loopBack m then fill t (1 - x) (loopAt m true) else t
          let t := fill t x (loopAt m false)
          modHead (mmaStep t (accC f) ca cb (tileOf t (2 * loopP f + x)) (tileOf t (2 * loopQ f + x)))
            (fun m => { m with kdone := m.kdone + 1 }))
      | .mvloop f => mvStep s core track m f
      | _ => s)
  | _, _ => s

/-- The track that takes the multiplier next (R334). -/
def kTrack (s : State) (core unit : Nat) : Option Nat :=
  let a := 2 * unit
  let b := 2 * unit + 1
  match kReady s core a, kReady s core b with
  | true, true => some (if FMap.getD s.lastK (core * 4 + unit) b = a then b else a)
  | true, false => some a
  | false, true => some b
  | false, false => none

/-- K_STEP_COMPLETE (R334). -/
def execKStepComplete (core unit : Nat) (s : State) : Host.Outcome State Fault Refusal :=
  let s := rouseHead (rouseHead s core (2 * unit)) core (2 * unit + 1)
  match kTrack s core unit with
  | none => .next s
  | some t => .next { kStep s core t with lastK := FMap.ins s.lastK (core * 4 + unit) t }

/-! Completion (R325). -/

/-- Generated constants (R330): the value at logical element (r, c). -/
def genValue (kind : Nat) (idx : Nat → Nat) (r c : Nat) : Bool :=
  if kind = 0 then r == c else if kind = 2 then true else c == idx r

/-- The encoding of 1 (R330). -/
def oneOf (ty : Nat) : Nat :=
  match ty with
  | 0 => 0x3C00 | 1 => 0x3F80 | 2 => 0x3F800000 | 3 => 0x3FF0000000000000 | 4 => 0x3C | 5 => 0x38 | 6 => 0x2 | _ => 1

/-- Writes the generated constant into a tile; with MX every scale byte becomes 0x7F (R330). A granule of which it writes only part loses
its mark too, as under TZERO: the rule clears the poison of the bytes written, and marks stand for whole granules (DESIGN CHOICE,
log 116). -/
def tileGen (t src : Tile) (cfg kind : Nat) : Tile :=
  let idx (r : Nat) : Nat := (tileByte src (2 * r)).toNat + 256 * (tileByte src (2 * r + 1)).toNat
  let n := tS cfg * tRb cfg
  let image : Nat := (List.range (tRows cfg * tCols cfg)).foldl (fun x e =>
    let r := e / tCols cfg
    let c := e % tCols cfg
    if genValue kind idx r c then x + oneOf (tType cfg) * 2 ^ elemBit cfg r c else x) 0
  let pieces (n : Nat) : List (Nat × Nat × Nat) := cutPieces n 0 0 n
  let bytes := bytesOfNat n image
  let clear (p : FMap Mark) (base n : Nat) : FMap Mark := p.filter (fun e => !(decide (base ≤ e.1) && decide (e.1 < base + (n + 31) / 32)))
  let t := tileStores t ((pieces n).map (fun e => ⟨e.1, (bytes.drop e.1).take e.2.2, none⟩))
  { t with
    scale := if tMx cfg then [] else t.scale
    pois := let p := clear t.pois 0 n; if tMx cfg then clear p 256 512 else p }

/-- The whole tile of an accumulator as scratchpad bytes (R331). -/
def accStores (a : Acc) (off : Nat) : List Store :=
  (List.range 1536).map (fun e => ⟨off + 16 * e, bytesOfNat 16 (accGet a e % (if a.int then 2 ^ 64 else 2 ^ 80)), FMap.get? a.pois e⟩)

/-- An accumulator as ACCLD reads it (R56, R331). -/
def accLoad (g : Wg) (off : Nat) (int : Bool) : Acc :=
  (List.range 1536).foldl (fun a e =>
    let o := off + 16 * e
    let x := if int then natOfBytes (spadBytes g o 8) else normW80 (natOfBytes (spadBytes g o 10))
    accMark (accPut a e x) e (spadMark g o)) ⟨int, [], []⟩

/-- Elements of a register in ACCRD, doubled (R340). -/
def accrdPer2 (int : Bool) (ty : Nat) : Nat :=
  if int then (if ty = 3 then 1 else 2) else match ty with
    | 6 => 16 | 4 | 5 => 8 | 0 | 1 => 4 | 2 => 2 | _ => 1

/-- One element of a read-out: its encoding and flags (R340). -/
def accrdElem (a : Acc) (int : Bool) (ty : Nat) (opt : Bool) (mode : RMode) (ftz : Bool) (l col : Nat) : Nat × Flags :=
  let v := if col < 48 then accGet a (48 * l + col) else 0
  if int then
    if ty = 3 then (v % 2 ^ 64, 0)
    else if opt then (ofInt 32 (max (-2147483648) (min 2147483647 (toSigned 64 v))), 0) else (v % 2 ^ 32, 0)
  else (ftyOf ty).fmt.convert (fitOf (ftyOf ty) opt) mode ftz (unpackW80 v)

/-- Register r of a lane in ACCRD, with its mark and flags. -/
def accrdReg (a : Acc) (f : WordF) (m : MatOp) (r : Nat) (l : Lane) : Val × Flags :=
  let int := extOf f.b / 8 % 2 == 1
  let opt := extOf f.b / 4 % 2 == 1
  let ty := tyCode f
  let mode := if subOp f = 0 then m.rm else rmOf (subOp f - 1)
  let per2 := accrdPer2 int ty
  let col0 := m.arg 0 + r * per2 / 2
  let cols := (List.range (max 1 (per2 / 2))).map (fun x => col0 + x)
  let ys := cols.map (fun c => accrdElem a int ty opt mode m.ftz l.val c)
  let w := if per2 = 1 then 64 else 64 / per2
  let x := (ys.zipIdx).foldl (fun x y => x + y.1.1 * 2 ^ (w * y.2)) 0
  let word := if per2 = 1 then x / 2 ^ (32 * (r % 2)) else x
  let fl := if per2 = 1 ∧ r % 2 = 1 then 0 else ys.foldl (fun g y => g ||| y.2) 0#5
  (⟨BitVec.ofNat 32 word, cols.findSome? (fun c => if c < 48 then FMap.get? a.pois (48 * l.val + c) else none)⟩, fl)

/-- The flags of a read-out whose warp has been ended go to its context's summary, with the untaken bit where an enabled one is among
them (R32, R371). -/
def sumReadout (s : State) (g : Wg) (m : MatOp) (fl : BitVec 5) : State :=
  if fl = 0#5 then s
  else modExcsum s g.part g.ctx (fun x =>
    let x := setBits x 48 5 (bits x 48 5 ||| fl.toNat)
    if fl &&& m.en != 0#5 then setBits x 62 1 1 else x)

/-- An ACCRD completes: its registers fill, its flags are merged in issue order (R30, R340). -/
def accrdEnd (s : State) (g : Wg) (a : Acc) (f : WordF) (m : MatOp) : State :=
  let n := accrdRegs f
  let fl (l : Lane) : Nat := ((List.range n).foldl (fun (g : Flags) k => g ||| (accrdReg a f m k l).2) 0).toNat
  match FMap.get? s.pend m.id with
  | none => if m.gone then sumReadout s g m (m.lanes.lanes.foldl (fun x l => x ||| BitVec.ofNat 5 (fl l)) 0) else s
  | some p =>
    if p.kind ≠ .matrix then s
    else
      let fills := fillsOf f.dst n p.lanes (fun k l => (accrdReg a f m k l).1)
      let s := modWarp s p.place (fun w => { w with fpq := w.fpq.map (fun r =>
        if r.id = m.id then { resOf w m.id false p.lanes fl r.pc (dstCode f.dst) false with low := r.low } else r) })
      completePend s m.id { p with fills := fills }

/-- A completed MVLOOP with denied rows records its failure against its accumulator, or passes it to the walk where its warp has
ended (R338). -/
def mvEnd (s : State) (core track : Nat) (m : MatOp) (f : WordF) : State :=
  match m.denied with
  | [] => s
  | (_, d) :: _ =>
    let t := trackSt s core track
    if m.gone then
      match t.bind.bind (wg? s) with
      | some g =>
        walkFailure s ⟨9999, g.part, g.ctx, t.bind.getD 0, core, track, placeSlot m.place⟩ (d / 65536) (d % 65536) m.pc
      | none => s
    else modWarp s m.place (fun w =>
      if w.mvfail.any (fun c => c.acc == accC f) then w
      else { w with mvfail := w.mvfail ++ [⟨accC f, d / 65536, d % 65536, m.pc.toNat⟩] })

/-- The head's own effect when it completes: tile and accumulator transfers and generated constants. -/
def headEffect (s : State) (core track : Nat) (g : Nat) (m : MatOp) : State :=
  match wg? s g with
  | none => s
  | some x =>
    let t := trackSt s core track
    let tile (n : Nat) (h : Tile → Tile) : State := modTrack s core track (fun t => modTile t n h)
    match m.word with
    | .tld f => tile (tileA f) (fun y => tileLoad x y (m.cfg (tileA f)) (m.arg 0) (m.arg 1))
    | .tst f => modWg s g (fun w => tileSave w (tileOf t (tileA f)) (m.cfg (tileA f)) (m.arg 0) (m.arg 1))
    | .tzero f => tile (tileA f) (fun _ => Tile.zero)
    | .mgenIdent f => tile (tileA f) (fun y => tileGen y y (m.cfg (tileA f)) 0)
    | .mgenOnes f => tile (tileA f) (fun y => tileGen y y (m.cfg (tileA f)) 2)
    | .mgenPerm f => tile (tileA f) (fun y => tileGen y (tileOf t (tileB f)) (m.cfg (tileA f)) 1)
    | .accz f => modTrack s core track (fun t => setAcc t (accC f) ⟨f.mod.getLsbD 0, [], []⟩)
    | .accld f => modTrack s core track (fun t => setAcc t (accC f) (accLoad x (m.arg 0) (f.mod.getLsbD 0)))
    | .accst f => modWg s g (fun w => spadStores w (accStores (accOf t (accC f)) (m.arg 0)))
    | .accrd f => accrdEnd s x (accOf t (accC f)) f m
    | .mvloop f => mvEnd s core track m f
    | _ => s

/-- The head can complete: its K-steps are done and its chunks are free. -/
def headDone (s : State) (core track : Nat) : Bool :=
  let t := trackSt s core track
  match t.queue with
  | [] => false
  | m :: _ => m.kdone == kSteps m && (kSteps m != 0 || headReady s t m)

/-- MATRIX_COMPLETE (R325): the head of a track's queue completes and leaves it. -/
def execMatrixComplete (core track : Nat) (s : State) : Host.Outcome State Fault Refusal :=
  let s := rouseHead s core track
  let t := trackSt s core track
  match t.queue, t.bind with
  | m :: _, some g =>
    if !headDone s core track then .next s
    else
      let s := headEffect s core track g m
      .next (modTrack s core track (fun t => { t with queue := t.queue.filter (fun x => x.id != m.id) }))
  | _, _ => .next s

end Sys2Proof.Machine
end

