-- ==== Sys2Proof/Machine/Sched.lean ====
section
/-! DEFINITION. Warps as they start and end: a new warp's state (R12, R48, R187), warp slots and tracks (R170, R175), WARP_END
(R160, R297, R338), SPILL_RESTORE (R178) and LINE_AGE_TRIGGER (R185). -/

namespace Sys2Proof.Machine

open Sys2Proof

/-! New warps. -/

/-- The reset value of REFAGE (R21). -/
def refageReset : BitVec 16 := 1024

/-- Uniform registers s1 to s31 from frame words 1 to 31. -/
def frameRegs (ws : List Val) : FMap UReg := (List.range 31).map (fun i => (i + 1, ⟨ws.getD i (Val.clean 0), none⟩))

/-- A warp as it starts, before the start's reads (R12, R17 to R22, R48, R173, R187, R301, R317). -/
def newWarp (x : Wg) (g seq widx : Nat) (lift : Bool) (tid : Vector Word 32) (conv : Mask) (pc : Dword) : Warp where
  part := x.part
  ctx := x.ctx
  wg := g
  seq := seq
  floor := rFloor x.record
  lift := lift
  widx := widx
  tid := tid
  pc := Vector.replicate 32 pc
  v := []
  deferred := 0
  s := []
  p := Vector.replicate 7 0
  conv := conv
  fpEn := 0
  fpFlags := 0
  ftz := false
  rm := .rne
  stale := false
  intrap := false
  xrec := XRec.zero
  trapvec := 0
  trappc := 0
  trapcause := 0
  tmask := 0
  refage := refageReset
  loops := []
  tcfg := Vector.replicate 8 0
  uivec := 0
  uiepc := 0
  uiin := false
  uentry := 0
  claim := false
  svclane := none
  svcpend := 0
  arrived := 0
  barEdges := []
  openb := 1
  fails := []
  mvfail := []
  waits := []
  parks := []
  denied := []
  spilled := false
  alloc := []
  fpq := []
  run := 0
  lastLead := none
  lastIssue := Vector.replicate 32 0
  waitc := 0
  lastPrio := 0
  forced := none
  readyAt := 0
  stamp := 0

/-- Loads what the start read: TRAPVEC, UIVEC and s1 to s31 (R12, R48). -/
def loadKept (k : Dword × Dword × List Val) (w : Warp) : Warp :=
  { w with trapvec := k.1, uivec := k.2.1, s := frameRegs k.2.2 }

/-- %tid of the lanes of launch warp n (R169). -/
def launchTids (n : Nat) : Vector Word 32 := Vector.ofFn (fun l => BitVec.ofNat 32 (32 * n + l.val))

/-- The convergent mask of launch warp n of t threads (R169). -/
def launchMask (t n : Nat) : Mask := Mask.ofFn (fun l => decide (32 * n + l.val < t))

/-- The lowest free warp slot of a track: the model's choice (log 109). -/
def freeSlot (s : State) (core track : Nat) : Option Nat :=
  (List.range 16).find? (fun k => (FMap.get? s.warps ((core * 8 + track) * 16 + k)).isNone)

/-- Admits a warp to a track: it takes the lowest free slot and the next admission sequence (R170), and the next stamp (log 124). -/
def admitWarp (s : State) (core track : Nat) (f : Nat → Warp) : State :=
  match freeSlot s core track with
  | none => s
  | some k =>
    let n := (trackSt s core track).seq + 1
    let s := modTrack s core track (fun t => { t with seq := n })
    setWarp { s with nextId := s.nextId + 1 } ((core * 8 + track) * 16 + k) { f n with stamp := s.nextId }

/-- Track b of a placement on a core (R170): the track with the most free slots, the lowest among equals. -/
def baseTrack (s : State) (core : Nat) : Nat :=
  (List.range 8).foldl (fun b t => if (trackWarps s core t).length < (trackWarps s core b).length then t else b) 0

/-! Ends. -/

/-- The place's warp has no lane left, and every empty entry it held is full (R160). -/
def canEnd (w : Warp) : Bool :=
  w.conv == 0#32 && w.v.all (fun e => e.2.busy.isNone) && w.s.all (fun e => e.2.busy.isNone)

/-- Ends a warp; the oldest failure that no CWAIT or MWAIT has reported goes to the walk at the warp level, the others are
discarded (R297, R338, R361). -/
def finishWarp (s : State) (pl : Nat) (w : Warp) : State :=
  let h := whereOf pl w
  (endFailures w).foldl (fun s f => contWalk s h f.1 f.2.toNat false) (endWarp s pl)

/-- WARP_END (R160). -/
def execWarpEnd (pl : Nat) (s : State) : Host.Outcome State Fault Refusal :=
  match warp? s pl with
  | none => .next s
  | some w => .next (if canEnd w && !isLodge pl then finishWarp s pl w else s)

/-- SPILL_RESTORE (R178): the entries read back, and the warp is no longer parked by the spill. A warp that still waits for the registers
it starts with goes on with their allocation (R176, R187). -/
def execSpillRestore (pl : Nat) (s : State) : Host.Outcome State Fault Refusal :=
  match warp? s pl with
  | none => .next s
  | some w =>
    if restoreReady s pl w then
      let s := blockAccess s w.part (ctxAddr s w.part w.ctx + 40)
      let s := w.v.foldl (fun s e => if e.2.inSlot then moveIn s pl w e.1 else s) s
      .next (modWarp s pl (fun w => { w with spilled := false }))
    else .next (if starting w then spillStarts (placeCore pl) (placeTrack pl) 16 s else s)

/-! Triggers of lift lines (R185). -/

/-- Rank of a trigger: full before age before idle. -/
def trigRank : Trigger → Nat
  | .full => 0 | .age => 1 | .idle => 2

/-- A trigger holds for a line: the line keeps the highest-ranked. -/
def raiseTrig (t : Trigger) (l : LiftLine) : LiftLine :=
  { l with trig := match l.trig with
      | none => some t
      | some u => some (if trigRank t < trigRank u then t else u) }

/-- A line's earliest deadline has come. -/
def lineAged (s : State) (core : Nat) (l : LiftLine) : Bool :=
  l.entries.any (fun e => decide (e.deadline ≤ coreClock s core))

/-- LINE_AGE_TRIGGER (R185). -/
def execLineAgeTrigger (core line : Nat) (s : State) : Host.Outcome State Fault Refusal :=
  match FMap.get? (coreSt s core).lines line with
  | none => .next s
  | some l =>
    .next (if lineAged s core l then modCore s core (fun c => { c with lines := FMap.ins c.lines line (raiseTrig .age l) }) else s)

end Sys2Proof.Machine
end

