-- ==== Sys2Proof/Machine/SaveArea.lean ====
section
/-! DEFINITION. The layout of a save area as its readers see it (R410 to R413): sections, warp records, matrix sections and
replay entries. -/

namespace Sys2Proof.Machine

open Sys2Proof

/-! Bytes of a save area. The area is read as its context's accesses read it (R427): what reading it delivers poisoned is poisoned in
the registers, scratchpad and matrix state that it restores, and fields that carry no poison take their bits as they read (log 105). -/

/-- A save area: its frame, the key that its context's accesses take, the partition for which it is reached, and the marks that reading
it has delivered, by sector. -/
structure Area where
  frame : Nat
  key : Option Nat
  owner : Option Nat
  marks : FMap Mark
  deriving DecidableEq, Repr

/-- n bytes at an offset as an access of the context reads them; out of range they read zero (R276). -/
def areaBytes (s : State) (a : Area) (off n : Nat) : List Byte :=
  let pa := a.frame + off
  (((List.range ((pa % 32 + n + 31) / 32)).flatMap (fun i =>
    if paReach s a.owner (32 * (pa / 32 + i)) then sectorBytes s a.key (pa / 32 + i) else List.replicate 32 0#8)).drop (pa % 32)).take n

/-- The number that n bytes at an offset hold. -/
def Area.get (a : Area) (s : State) (off n : Nat) : Nat := natOfBytes (areaBytes s a off n)

/-- The mark that reading n bytes at an offset has delivered. -/
def Area.mark (a : Area) (off n : Nat) : Option Mark :=
  (a.marks.find? (fun e => decide (a.frame + off < 32 * e.1 + 32) && decide (32 * e.1 < a.frame + off + n))).map Prod.snd

/-- The save area of a record's SAVE field. -/
def areaOf (s : State) (save ctx : Nat) : Area := ⟨save % 2 ^ 50, ctxKey s ctx false, partOfCtx s ctx, []⟩

/-- Reads the first n bytes of an area: errors of its atoms count, poisoned sectors deliver their marks, and sectors out of range
are refused with their events (R275, R276, R434). -/
def areaRead (s : State) (a : Area) (n : Nat) : State × Area :=
  (List.range ((a.frame % 32 + n + 31) / 32)).foldl (fun r i =>
    match physRead r.1 a.owner a.key (32 * (a.frame / 32 + i)) 32 with
    | (s, _, some k) => (s, { r.2 with marks := FMap.ins r.2.marks (a.frame / 32 + i) k })
    | (s, _, none) => (s, r.2)) (s, a)

/-! Sizes (R410 to R413). -/

/-- Bytes of the header. -/
def headerBytes : Nat := 256
/-- Bytes of a warp record before its entries. -/
def warpRecBytes : Nat := 1280
/-- Bytes of a listed entry. -/
def entryBytes : Nat := 136
/-- Bytes of an accumulator with its poison bits. -/
def accBytes : Nat := 24576 + 192
/-- Bytes of a saved tile. -/
def tileBytes : Nat := 8192 + 512 + 64
/-- Bytes of a replay entry. -/
def replayBytes : Nat := 64
/-- Rounds up to a multiple of 8 (R410). -/
def align8 (n : Nat) : Nat := (n + 7) / 8 * 8
/-- Set bits of a byte. -/
def bitCount8 (n : Nat) : Nat := ((List.range 8).filter (fun i => n.testBit i)).length

/-! Reading. -/

/-- Offsets of n warp records from one offset. -/
def warpOffsets (s : State) (a : Area) : Nat → Nat → List Nat
  | 0, _ => []
  | n + 1, o => o :: warpOffsets s a n (o + warpRecBytes + entryBytes * a.get s (o + 0x118) 2)

/-- The warp records of a save area. -/
def areaWarps (s : State) (a : Area) : List Nat := warpOffsets s a (a.get s 0x98 2) headerBytes

/-- Offsets of n matrix sections from one offset. -/
def matOffsets (s : State) (a : Area) : Nat → Nat → List Nat
  | 0, _ => []
  | n + 1, o =>
    o :: matOffsets s a n (o + 8 + 2 * accBytes + tileBytes * bitCount8 (a.get s (o + 2) 1) + replayBytes * a.get s (o + 3) 1)

/-- The matrix sections of a save area. -/
def areaMats (s : State) (a : Area) : List Nat := matOffsets s a (a.get s 0x9D 1) (a.get s 0xB0 4)

/-- RTRACK of each warp record (R411). -/
def areaWarpTracks (s : State) (a : Area) : List Nat := (areaWarps s a).map (fun o => a.get s (o + 0x115) 1 % 8)

/-- RTRACK of each matrix section (R413). -/
def areaMatTracks (s : State) (a : Area) : List Nat := (areaMats s a).map (fun o => a.get s o 1 % 8)

/-- Offsets of the line entries of an area. -/
def lineOffsets (s : State) (a : Area) : Nat → Nat → List Nat
  | 0, _ => []
  | n + 1, o => o :: lineOffsets s a n (o + 24 + 4 * a.get s (o + 21) 1)

/-- The labels of the lines of an area, each once. -/
def areaLabels (s : State) (a : Area) : List Nat :=
  ((lineOffsets s a (a.get s 0x9A 2) (a.get s 0xAC 4)).map (fun o => a.get s o 8)).dedup

end Sys2Proof.Machine
end

