-- ==== Sys2Proof/Machine/Chairlift.lean ====
section
/-! DEFINITION. Chairlift: rings, candidates and placement (R345 to R350), workgroup starts and ends (R169, R170, R304, R351,
R478), joins and continuations (R352), SPAWN and SPAWNJ (R357). -/

namespace Sys2Proof.Machine

open Sys2Proof

/-! Rings (R345). -/

/-- Offset of QCTLq. -/
def qctl (q : Nat) : Nat := 0x400 + 16 * q
/-- The ring of priority q. -/
def prioRing (p : Part) (q : Nat) : Ring := ringAt p (qctl q) 7
/-- The address of entry count n of a ring. -/
def ringEntry (r : Ring) (n : Nat) : Nat := r.base + 128 * (n % 2 ^ r.size)

/-- Publishes one ring entry: a SEQ of 0 is replaced by the next one (R345, R347). -/
def publish (p : Nat) (r : Ring) (s : State) (n : Nat) : State :=
  let a := ringEntry r n
  let (s, seq, _) := physRead64 (blockLookup s p (a + 24) false) (some p) (a + 24)
  if seq ≠ 0 then s
  else
    let (s, k) := nextSeqOf s p
    physWrite64 (blockLookup s p (a + 24) true) (some p) (a + 24) k

/-- The lines that hosts must give up before some entries of a ring, from count n on, are published (R441). -/
def publishSnoops (s : State) (r : Ring) (n count : Nat) : List Nat :=
  (List.range count).filterMap (fun i => snoopPhys s true (ringEntry r (n + i) + 24) 8)

/-- A write of NOTIFYq (R345); it waits for lines of the entries that a host holds (R441). -/
def notifyQueue (s : State) (p q tail : Nat) : State :=
  let r := prioRing (part s p) q
  let count := (tail + 65536 - r.head) % 65536
  if count > 2 ^ r.size then s
  else
    let old := r.count
    match publishSnoops s r (r.head + old) (count - old) with
    | ln :: lns =>
      (ln :: lns).foldl (fun s ln => sendSnoop s ln true) (modPart s p (fun x => { x with notifies := x.notifies ++ [(q, tail)] }))
    | [] =>
    let s := modPart s p (fun x => ctlSet (ctlSetField x (qctl q + 8) 32 16 tail) (0x480 + 8 * q) tail)
    (List.range (count - old)).foldl (fun s i => publish p r s (r.head + old + i)) s

/-! Queues of Lodge threads (R425). -/

/-- A partition owns a Lodge thread. -/
def ownsThread (s : State) (p j : Nat) : Bool := decide (j < 64) && (part s p).desc.lodge.getLsbD j

/-- Offset of LQCTLj. -/
def lqctl (j : Nat) : Nat := 0x3000 + 32 * j

/-- The ring of a thread. -/
def lodgeRing (q : Part) (j : Nat) : Ring := ringAt q (lqctl j) 5

/-- TAIL changes: the register, and the header's first four bytes. -/
def setLodgeTail (s : State) (p j tail : Nat) : State :=
  let r := lodgeRing (part s p) j
  let s := modPart s p (fun q => ctlSetField q (lqctl j + 8) 32 16 tail)
  physWrite (engineLookups s p 0 none 0 r.base 4 true) (some p) none r.base (bytesOfNat 4 (tail % 65536))

/-- A write of LQNOTIFYj: ignored where it would overfill the ring or the ring is not set up; it waits for a host that holds the line of
the ring's header (R425, R441). -/
def lodgeNotify (s : State) (p j tail : Nat) : State :=
  let r := lodgeRing (part s p) j
  if !ownsThread s p j || r.base == 0 || decide ((tail + 65536 - r.head) % 65536 > 2 ^ r.size) then s
  else
    match snoopPhys s true r.base 4 with
    | some ln => sendSnoop (modPart s p (fun x => { x with notifies := x.notifies ++ [(8 + j, tail)] })) ln true
    | none => setLodgeTail (modPart s p (fun q => ctlSet q (lqctl j + 16) (tail % 65536))) p j (tail % 65536)

/-- The writes of NOTIFY and LQNOTIFY that waited for a host's answer act now, in their order, or wait again (R441). -/
def notifyAgain (s : State) (p : Nat) : State :=
  (part s p).notifies.foldl (fun s e => if e.1 < 8 then notifyQueue s p e.1 e.2 else lodgeNotify s p (e.1 - 8) e.2) (modPart s p (fun x => { x with notifies := [] }))

/-- NOTIFY (R345). -/
def execNotify (p q : Nat) (tail : BitVec 16) (s : State) : Host.Outcome State Fault Refusal :=
  .next (if q < 8 then notifyQueue s p q tail.toNat else s)

/-- The launch, by the address of its record, that a saved workgroup counts toward (R410). -/
def rootLaunch (s : State) (p addr : Nat) : Option Nat :=
  (s.launches.find? (fun e => e.2.part == p && e.2.addr == addr && e.2.orig.isNone && addr != 0)).map Prod.fst

/-- A line of a ring entry, or of the header of the save area that it names, that a host must give up before they are read (R441). -/
def entrySnoop (s : State) (a : Nat) : Option Nat :=
  let save := rSave (BitVec.ofNat 1024 (natOfBytes (memGets s.mem a 128)))
  (snoopPhys s false a 128).orElse (fun _ => if save = 0 then none else snoopPhys s false (save % 2 ^ 50) headerBytes)

/-- CANDIDATE_READ (R345): the entry at HEAD becomes the ring's candidate, or is dropped as malformed; a line of it that a host holds
exclusive is snooped first, and the entry is read once the host has answered (R441). -/
def execCandidateRead (p q : Nat) (s : State) : Host.Outcome State Fault Refusal :=
  let x := part s p
  let r := prioRing x q
  if s.boot < 4 ∨ q ≥ 8 ∨ r.count = 0 ∨ (FMap.get? x.heads q).isSome then .next s
  else
    let a := ringEntry r r.head
    match entrySnoop s a with
    | some ln => .next (sendSnoop s ln false)
    | none =>
    let (s, rec, poisoned) := readRecord s (some p) none a
    if poisoned || malformed s p rec then
      .next (modPart (badRec s p a) p (fun x => ringPop x (qctl q)))
    else
      let ar := areaOf s (rSave rec) (rCtx rec)
      let s := if rSave rec = 0 then s else (areaRead (engineLookups s p (rCtx rec) none 0 ar.frame headerBytes false) ar headerBytes).1
      let root := if rSave rec = 0 then none else rootLaunch s p (ar.get s 0x80 8)
      let id := s.nextId
      let s := addLaunch s ⟨p, rCtx rec, a, some q, rec, rSeq rec, rPrio rec, rIlo rec, rIlo rec + rIcnt rec, 0, root, rSave rec,
        false, 0, none, [], false, none⟩
      .next (modPart s p (fun x => { x with heads := FMap.ins x.heads q id }))

/-! Fit (R350, R417). -/

/-- The workgroups on a core. -/
def coreWgs (s : State) (c : Nat) : List (Nat × Wg) := s.wgs.filter (fun e => e.2.core == c)

/-- Warps of a fresh workgroup (R169). -/
def launchWarps (r : Rec) : Nat := (rThreads r + 31) / 32

/-- The tracks, counted from track b, that the warps of a placement take (R170, R417). -/
def relTracks (s : State) (l : Launch) : List Nat :=
  if l.save = 0 then (List.range (launchWarps l.record)).map (fun w => w % 8) else areaWarpTracks s (areaOf s l.save l.ctx)

/-- The tracks, counted from track b, whose binding a restore needs (R417). -/
def relMats (s : State) (l : Launch) : List Nat := if l.save = 0 then [] else areaMatTracks s (areaOf s l.save l.ctx)

/-- The lift lines that a restore needs: one for each label of its area. -/
def linesNeeded (s : State) (l : Launch) : Nat := if l.save = 0 then 0 else (areaLabels s (areaOf s l.save l.ctx)).length

/-- The next workgroup of launch i fits core c (R350); a restore also needs lift lines for its entries. -/
def fits (s : State) (i : Nat) (l : Launch) (c : Nat) : Bool :=
  let ws := coreWgs s c
  let k := coreSt s c
  let b := baseTrack s c
  let rel := (relTracks s l).map (fun t => (b + t) % 8)
  (part s l.part).desc.cores.getLsbD c && (k.fence.isNone || k.fence == some i) && decide (ws.length < 16) &&
    (ws.isEmpty || k.carve == rCarve l.record) &&
    decide (rSpad l.record + (ws.map (fun e => e.2.spadBytes)).sum ≤ carveSpad (rCarve l.record)) &&
    (List.range 8).all (fun t =>
      let n := (rel.filter (fun x => x == t)).length
      n == 0 || admits s c t (List.replicate n (rFloor l.record))) &&
    (relMats s l).all (fun t => (trackSt s c ((b + t) % 8)).bind.isNone) &&
    k.lines.all (fun e => e.2.trig.isNone) && decide (linesNeeded s l + k.lines.length ≤ 16)

/-- The order of candidates (R347, R348): higher PRIO, then lower SEQ, then the lower index. -/
def candBefore (a b : Nat × Launch) : Bool :=
  if a.2.prio ≠ b.2.prio then decide (a.2.prio > b.2.prio)
  else if a.2.seq ≠ b.2.seq then decide (a.2.seq < b.2.seq)
  else decide (a.2.next ≤ b.2.next)

/-- The candidates of a partition, in order (R348). A halted partition and one that a checkpoint has quiesced place none
(R370, R453), nor does one before Chairlift is enabled at boot stage 4 (R455). -/
def candidates (s : State) (p : Nat) : List (Nat × Launch) :=
  let x := part s p
  if ctlField x 0x500 31 1 = 1 ∨ x.quiesce ∨ s.boot < 4 then []
  else sortBy candBefore (s.launches.filter (fun e => e.2.part == p && decide (e.2.next < e.2.stop)))

/-- The cores of a partition. -/
def partCores (s : State) (p : Nat) : List Nat := bitList (part s p).desc.cores

/-- The core a placement takes: of those that fit, the one with the fewest workgroups, the lowest among equals (R350). -/
def chooseCore (s : State) (i : Nat) (l : Launch) : Option Nat :=
  ((partCores s l.part).filter (fits s i l)).foldl (fun b c =>
    match b with
    | none => some c
    | some d => if (coreWgs s c).length < (coreWgs s d).length then some c else some d) none

/-- The first candidate that fits, and its core (R348). -/
def bestFit (s : State) (p : Nat) : Option (Nat × Launch × Nat) :=
  (candidates s p).findSome? (fun e => (chooseCore s e.1 e.2).map (fun c => (e.1, e.2, c)))

/-! Placement (R170, R345, R350, R351). -/

/-- The fields by which an entry is ordered and fitted: its first reading gives them (R345). -/
def keptFields : List (Nat × Nat) :=
  [(688, 3), (192, 64), (704, 12), (576, 48), (664, 9), (660, 3), (640, 20), (693, 1), (384, 32), (416, 32)]

/-- A ring entry as a start reads it: its bytes, but for the fields of the first reading (R345). -/
def mergeRec (old new : Rec) : Rec := keptFields.foldl (fun r e => rset r e.1 e.2 (rf old e.1 e.2)) new

/-- The record of a launch as the start reads it: a ring entry is read again, a linked record is Chairlift's (R345, R346). -/
def startRecord (s : State) (l : Launch) : State × Rec × Bool :=
  match l.ring with
  | none => (s, l.record, false)
  | some _ => let (s, r, bad) := readRecord s (some l.part) none l.addr; (s, mergeRec l.record r, bad)

/-- A core takes a workgroup of a class: a core that holds none takes the class, and a change of class invalidates its L1
(R211). A gated core resumes (R458). -/
def takeClass (s : State) (c carve : Nat) : State :=
  let s := if (coreSt s c).gated then modCore s c (fun k => { k with gated := false }) else s
  if (coreWgs s c).isEmpty && (coreSt s c).carve != carve then modCore s c (fun k => { k with carve := carve, l1 := [] }) else s

/-- The candidate that fenced a core has been placed: its fence is lifted (R354). -/
def liftFence (s : State) (i : Nat) : State :=
  { s with cores := s.cores.map (fun e => if e.2.fence = some i then (e.1, { e.2 with fence := none }) else e) }

/-- One more index of a launch has been placed. The last one advances a ring's HEAD (R345), and ends an entry that stands for
one re-queued workgroup. -/
def countPlaced (s : State) (i : Nat) (l : Launch) : State :=
  if l.next + 1 < l.stop then
    { s with launches := FMap.modify s.launches i (fun l => { l with next := l.next + 1, passed := 0 }) }
  else
    let s := match l.ring with
      | some q => modPart s l.part (fun p => { ringPop p (qctl q) with heads := FMap.del p.heads q })
      | none => s
    if l.orig.isSome then { s with launches := FMap.del s.launches i }
    else { s with launches := FMap.modify s.launches i (fun l => { l with next := l.stop, ring := none, passed := 0 }) }

/-- A workgroup as it is placed. -/
def newWg (s : State) (i : Nat) (l : Launch) (r : Rec) (c b : Nat) : Wg where
  part := l.part
  ctx := rCtx r
  launch := l.orig.getD i
  index := l.next
  core := c
  btrack := b
  record := rset r 192 64 l.seq
  phase := .reading
  startParks := []
  startDenied := []
  spadBytes := rSpad r
  spad := []
  spadPoison := []
  chunks := []
  regions := []
  retired := 0
  slice := s.now
  stall := 0
  drain := none
  saving := none
  raised := 0
  kept := none
  killed := false
  killLevel := 0

/-- Places the next workgroup of a launch on a core, as a fresh start: its warps are admitted, and its start is to be read
(R170, R478). -/
def placeFresh (s : State) (i : Nat) (l : Launch) (r : Rec) (c : Nat) : State :=
  let b := baseTrack s c
  let s := liftFence (takeClass s c (rCarve r)) i
  let g := s.nextId
  let x := newWg s i l r c b
  let s := { s with wgs := FMap.ins s.wgs g x, nextId := g + 1 }
  let s := (List.range (launchWarps r)).foldl (fun s w =>
    admitWarp s c ((b + w) % 8) (fun seq =>
      newWarp x g seq w false (launchTids w) (launchMask (rThreads r) w) (BitVec.ofNat 64 (rCode r)))) s
  countPlaced s i l

/-! The start's reads (R478). -/

/-- How a start's reads name themselves in a fault record: ACC 4, the workgroup's core and track b. -/
def startFaulter (x : Wg) : Faulter := ⟨x.part, x.ctx, x.core, x.btrack, false⟩

/-- One of the reads of a start: bytes and marks, or why it has none: a page denied or lost (CODE and DETAIL), or a wait. -/
inductive StartRead where
  | bytes (b : List Byte) (m : List (Option Mark))
  | bad (code detail : Nat)
  | wait (c : ParkCause)
  deriving DecidableEq, Repr

/-- Reads n bytes of one page for a start. -/
def startRead (s : State) (x : Wg) (va n : Nat) : State × StartRead :=
  if va / 2 ^ 57 ≠ 0 then (s, .bad 6 8)
  else
    match x.startDenied.find? (fun e => e.1 == va / 4096) with
    | some e => (s, .bad 6 e.2)
    | none =>
      match engineRead s (startFaulter x) .engineRead va n with
      | (s, .bytes b m) => (s, .bytes b m)
      | (s, .park c) => (s, .wait c)
      | (s, .lost k c) => (s, .bad 0xA (c * 256 + k))
      | (s, .tier3) => (s, .bad 6 0x15)

/-- The 32 entries of a region-table image: each read by itself, none where it crosses to a page that gives no bytes. -/
def startEntry (s : State) (x : Wg) (va : Nat) : State × StartRead := startRead s x va 32

/-- Reads the region-table image entry by entry (R304). -/
def startImage (s : State) (x : Wg) : State × List StartRead :=
  if rRgn x.record = 0 then (s, [])
  else
    (List.range 32).foldl (fun r i =>
      let (s, y) := startEntry r.1 x (rRgn x.record + 32 * i)
      (s, r.2 ++ [y])) (s, [])

/-- The descriptor of an entry of the image, none where the entry is dropped for want of clean bytes (R304). -/
def imageEntry (y : StartRead) : Option (BitVec 256) :=
  match y with
  | .bytes b m => if m.all (fun k => k.isNone) then some (BitVec.ofNat 256 (natOfBytes b)) else none
  | _ => none

/-- Loads the region table from the image, in index order (R304). -/
def loadRegions (s : State) (g : Nat) (ys : List StartRead) : State :=
  (ys.zipIdx).foldl (fun s e =>
    match imageEntry e.1, wg? s g with
    | some d, some x =>
      if !dV d || dReserved d || (descBad d x.spadBytes true).isSome ||
          x.regions.any (fun r => dV r.2.desc && (chunkList d).any (dHas r.2.desc)) then s
      else installRegion s g e.2 d x.core x.btrack false
    | _, _ => s) s

/-- A start that cannot go on goes to the walk as for a precise trap of its warp 0 (R478). -/
def startFail (s : State) (g : Nat) (x : Wg) (code detail : Nat) (ms : List Mark) : State :=
  match (wgWarps s g).find? (fun e => e.2.widx == 0) with
  | none => s
  | some (pl, w) =>
    let h := whereOf pl w
    let t : Trap := ⟨code, detail, if code = 0xA then 5 else 0, false, w.conv, ms⟩
    let s := if code = 8 then poisonNotices (modExcsum s w.part w.ctx (satAdd 0 16 1)) h ms else s
    contWalk s h t.cause (rCode x.record) false

/-- The 32-bit words of some bytes, each with the first mark among its bytes. -/
def wordsOf (b : List Byte) (m : List (Option Mark)) (n : Nat) : List Val :=
  (List.range n).map (fun i => ⟨BitVec.ofNat 32 (natOfBytes ((b.drop (4 * i)).take 4)), ((m.drop (4 * i)).take 4).findSome? id⟩)

/-- The wait of a read. -/
def startWait (y : StartRead) : Option ParkCause :=
  match y with
  | .wait c => some c
  | _ => none

/-- Why a read of the header or the frame stops the start, as CODE, DETAIL and marks: its page is denied or lost, or the header is
poisoned (R478). -/
def startBad (header : Bool) (y : StartRead) : Option (Nat × Nat × List Mark) :=
  match y with
  | .bad c d => some (c, d, [])
  | .bytes _ m => if header && (m.findSome? id).isSome then some (8, 0, (m.filterMap id).dedup) else none
  | .wait _ => none

/-- What a start keeps of its header and frame: TVEC, UVEC, words 1 to 31. -/
def startKept (hd fr : StartRead) : Dword × Dword × List Val :=
  match hd, fr with
  | .bytes hb _, .bytes fb fm =>
    (clearLow (natOfBytes ((hb.drop 8).take 8)) 3, clearLow (natOfBytes ((hb.drop 16).take 8)) 3, (wordsOf fb fm 32).drop 1)
  | _, _ => (0, 0, [])

/-- A denied page of the header or the frame ends the start although other reads still wait. -/
def startDenial (x : Wg) : Bool :=
  x.startDenied.any (fun e => e.1 == ofInt 64 ((rCode x.record : Int) - 32) / 4096 || e.1 == rFrame x.record / 4096)

/-- A start acquires before its reads: the core's L1 and the partition's scoped host sectors hold nothing older than what
is hb-before it (R212, R254, R442, R449, log 37). -/
def startAcquire (s : State) (x : Wg) : State := sysAcquire (l1Clear s x.core) x.part

/-- The workgroup runs: its warps take what the start read, and its EAGER stagings begin (R254). -/
def startRun (s : State) (g : Nat) (k : Dword × Dword × List Val) (ys : List StartRead) : State :=
  let s := modWg (loadRegions s g ys) g (fun x => { x with phase := .running, kept := some k, slice := s.now })
  { s with warps := s.warps.map (fun e => if !isLodge e.1 && e.2.wg == g then (e.1, loadKept k e.2) else e) }

/-- RECORD_START (R304, R351, R478): the header, the frame and the region image are read; the start fails on a denied header or frame and
on a poisoned header, waits on failed translations, and else the workgroup runs. -/
def execRecordStart (g : Nat) (s : State) : Host.Outcome State Fault Refusal :=
  match wg? s g with
  | none => .next s
  | some x =>
    if x.phase ≠ .reading ∨ x.killed ∨ (x.startParks ≠ [] ∧ !startDenial x) then .next s
    else
      let (s, hd) := startRead (startAcquire s x) x (ofInt 64 ((rCode x.record : Int) - 32)) 32
      let (s, fr) := startRead s x (rFrame x.record) 128
      let (s, ys) := startImage s x
      match (startBad true hd).orElse (fun _ => startBad false fr) with
      | some (c, d, ms) => .next (startFail s g x c d ms)
      | none =>
        match (hd :: fr :: ys).filterMap startWait with
        | [] => .next (startRun s g (startKept hd fr) ys)
        | cs => .next (modWg s g (fun x => { x with startParks := cs.dedup }))

/-! Ends (R300, R349, R351, R478). -/

/-- Every workgroup of a launch has completed: its join is to be made, and it is gone (R349, R352). -/
def recordComplete (s : State) (i : Nat) : State :=
  match FMap.get? s.launches i with
  | none => s
  | some l =>
    if l.completed < rIcnt l.record then s
    else
      let s := if rJoin l.record = 0 then s
        else modPart s l.part (fun p => { p with joins := p.joins ++ [⟨i, l.ctx, rJoin l.record, none, none, false⟩] })
      dropLaunch s i

/-- A workgroup's warps, copies, stagings and lift-line entries are gone (R188, R300, R478). -/
def wgDone (s : State) (g : Nat) (x : Wg) : Bool :=
  (x.killed || x.phase == .running) && x.saving.isNone && (wgWarps s g).isEmpty && !s.xfers.any (fun e => e.2.wg == g) &&
    !filed s g && !(x.killed && matBusy s g)

/-- WORKGROUP_END (R478): the workgroup is released, and counts toward its record unless it was killed; a record of which nothing is
left to run is gone (R371, R448). -/
def execWorkgroupEnd (g : Nat) (s : State) : Host.Outcome State Fault Refusal :=
  match wg? s g with
  | none => .next s
  | some x =>
    if !wgDone s g x then .next s
    else
      let s := unbind (dropLines s g) g
      let s := { s with wgs := FMap.del s.wgs g }
      let s := { s with launches := FMap.modify s.launches x.launch (fun l =>
        if x.killed then { l with killed := true } else { l with completed := l.completed + 1 }) }
      .next (endLaunch (if x.killed then s else recordComplete s x.launch) x.launch)

/-! Joins (R352). -/

/-- How Chairlift's own accesses name themselves. -/
def joinFaulter (p ctx : Nat) : Faulter := ⟨p, ctx, 255, 0, false⟩

/-- Changes a join. -/
def modJoin (s : State) (p launch : Nat) (f : Join → Join) : State :=
  modPart s p (fun x => { x with joins := x.joins.map (fun j => if j.launch = launch then f j else j) })

/-- Removes a join. -/
def endJoin (s : State) (p launch : Nat) : State :=
  modPart s p (fun x => { x with joins := x.joins.filter (fun j => j.launch != launch) })

/-- A JOINFAULT event. -/
def joinFault (s : State) (p : Nat) (j : Join) (kind : Nat) : State :=
  endJoin (cairnWrite s originChairlift 0x0025 p j.block kind) p j.launch

/-- Reads the continuation and links it (R352). -/
def joinLink (s : State) (p : Nat) (j : Join) : State :=
  let a := j.block + 128
  let (s, x) := translate s p j.ctx 255 false .engineRead a
  match x with
  | .ok pa e =>
    (match snoopSpan s e true pa 128 with
      | some ln => modJoin (sendSnoop s ln true) p j.launch (fun j => { j with pause := some (.snoop ln) })
      | none =>
        let key := ctxKey s j.ctx (pteHome e)
        let (s, r, bad) := readRecord (engineLookups s p j.ctx (some a) e pa 128 false) none key pa
        let s := endJoin s p j.launch
        if bad || ptePom e || malformed s p r then badRec s p a
        else
          let (s, n) := nextSeqOf (engineLookups s p j.ctx (some a) e pa 128 true) p
          linkRecord (writeLink s none key pa n) p pa r n (rPrio r) none)
  | .lost _ _ => joinFault s p j 0
  | .fail _ _ _ | .miss =>
    match parkCause s (joinFaulter p j.ctx) .engineRead (a / 4096) x with
    | (s, some c) => modJoin s p j.launch (fun j => { j with pause := some c })
    | (s, none) => s

/-- Performs the decrement of COUNT (R352). -/
def joinCount (s : State) (p : Nat) (j : Join) : State :=
  let (s, x) := translate s p j.ctx 255 false .atomic j.block
  match x with
  | .ok pa e =>
    let y : Item := ⟨0, j.block, pa, e⟩
    (match snoopNeeds s true y with
      | some ln => modJoin (sendSnoop s ln true) p j.launch (fun j => { j with pause := some (.snoop ln) })
      | none =>
        let s := scrubAt s pa
        let s := atomAccess s pa false
        if !paReach s none pa then joinFault (outRange s p pa) p j 0
        else if (FMap.get? s.poison (pa / 32)).isSome || ptePom e then joinFault s p j 0
        else
          let key := ctxKey s j.ctx (pteHome e)
          let s := if pteHome e then homeSector s pa
            else engineLookups (engineLookups s p j.ctx (some j.block) e pa 8 false) p j.ctx (some j.block) e pa 8 true
          let old := natOfBytes (((sectorBytes s key (pa / 32)).drop (pa % 32)).take 8)
          let new := (old + 2 ^ 64 - 1) % 2 ^ 64
          let s := physStores s none key [⟨pa, bytesOfNat 8 new, none⟩]
          let s := if pteHome e then sendAtomic s pa 64 (.fetchAdd (BitVec.allOnes 64)) else s
          if new = 0 then joinLink (modJoin s p j.launch (fun j => { j with reading := true })) p { j with reading := true }
          else if toSigned 64 new < 0 then endJoin (cairnWrite s originChairlift 0x0021 p j.block 0) p j.launch
          else endJoin s p j.launch)
  | .lost _ _ => joinFault s p j 0
  | .fail _ _ _ | .miss =>
    match parkCause s (joinFaulter p j.ctx) .atomic (j.block / 4096) x with
    | (s, some c) => modJoin s p j.launch (fun j => { j with pause := some c })
    | (s, none) => s

/-- The join that a completed record still owes. -/
def joinOf (s : State) (launch : Nat) : Option (Nat × Join) :=
  s.parts.findSome? (fun e => (e.2.joins.find? (fun j => j.launch == launch)).map (fun j => (e.1, j)))

/-- JOIN_DECREMENT (R352). -/
def execJoinDecrement (launch : Nat) (s : State) : Host.Outcome State Fault Refusal :=
  match joinOf s launch with
  | none => .next s
  | some (p, j) =>
    match j.pause, j.denied with
    | some _, _ => .next s
    | none, some k => .next (joinFault s p j k)
    | none, none => .next (if j.reading then joinLink s p j else joinCount s p j)

/-! SPAWN and SPAWNJ (R356, R357). -/

/-- SPAWN waits until the earlier writes of its thread are performed. -/
def spawnWait (s : State) (i : Iss) : Bool := i.acts && placePending s i.place (fun k => k == .store || k == .atomic) i.l

/-- An address operand of a uniform operation: its address, TRAPCAUSE.OPND, alignment and bytes. -/
structure Span where
  addr : Nat
  opnd : Nat
  align : Nat
  len : Nat
  deriving DecidableEq, Repr

/-- The first address of a span in each page that it touches. -/
def Span.pages (a : Span) : List Nat :=
  (List.range ((a.addr % 4096 + a.len + 4095) / 4096)).map (fun k => if k = 0 then a.addr else (a.addr / 4096 + k) * 4096)

/-- The 64-byte lines of some spans, at the pages they translate to. -/
def spanLines (as : List Span) (items : List Item) : List Item :=
  as.flatMap (fun a => (List.range ((a.addr % 64 + a.len + 63) / 64)).filterMap (fun k =>
    let va := (a.addr / 64 + k) * 64
    (items.find? (fun y => y.va / 4096 == va / 4096)).map (fun y => { y with va := va, pa := y.pa / 4096 * 4096 + va % 4096 })))

/-- The checks 3 to 6 of R258 on the addresses of a uniform operation, each check on all of them before the next (R357, R448):
one translation for each page, named by the OPND of its span. -/
def uniChecks (s : State) (i : Iss) (acc : Access) (as : List Span) : State × (Res ⊕ List (Nat × Item)) :=
  let bad (f : Span → Bool) (c d : Nat) : Option Res := (as.find? f).map (fun a => .trap ⟨c, d, a.opnd, false, i.l, []⟩)
  match (bad (fun a => a.pages.any (fun x => decide (x / 2 ^ 57 ≠ 0))) 6 8).orElse
      (fun _ => bad (fun a => decide (a.addr % a.align ≠ 0)) 5 0) with
  | some r => (s, .inl r)
  | none =>
    let ps := as.flatMap (fun a => a.pages.map (fun x => (x, a.opnd)))
    match dataDenied i with
    | some d =>
      (s, .inl (.trap ⟨6, d.kind, ((ps.find? (fun a => a.1 / 4096 == d.vpage)).map Prod.snd).getD 1, false, d.mask &&& i.l, []⟩))
    | none =>
      let (s', xs) := ps.foldl (fun (r : State × List (Lookup × Nat)) a =>
        let (s, x) := lookup i acc false r.1 (i.l.low?.getD 0) i.l a.1
        (s, r.2 ++ [(x, a.2)])) (s, [])
      match xs.findSome? (fun x => match x.1 with
          | .trap c d m => some (c, d, m, x.2)
          | _ => none) with
      | some (c, d, m, o) => (s, .inl (.trap ⟨c, d, if c = 0xA then 5 else o, false, m, []⟩))
      | none =>
        let ps := xs.filterMap (fun x => match x.1 with
          | .park c m => some (c, m)
          | _ => none)
        let items := xs.filterMap (fun x => match x.1 with
          | .item y => some (x.2, y)
          | _ => none)
        if ps.isEmpty then
          (match snoopHold s' i acc.writes (spanLines as (items.map Prod.snd)) with
            | some r => (s', .inl r)
            | none => (s', .inr items))
        else (s', .inl (.hold s' (parkAll ps)))

/-- Adds 1 to the COUNT of a join block (R357): a COUNT in a poisoned sector takes no addition (R264). -/
def joinAdd (s : State) (i : Iss) (y : Item) : State :=
  let look (s : State) (wr : Bool) : State := if pteHome y.leaf then s else engineLookups s i.w.part i.w.ctx (some y.va) y.leaf y.pa 8 wr
  (rmw (look (look s false) true) i y 0 64 1 0 none false).1

/-- What a spawn does once its addresses are translated (R357): the status it gives. -/
def spawnLink (s : State) (i : Iss) (y : Item) (join : Option (Nat × Item)) : State × Nat :=
  let p := i.w.part
  let key := ctxKey s i.w.ctx (pteHome y.leaf)
  let (s, r, bad) := readRecord (engineLookups s p i.w.ctx (some y.va) y.leaf y.pa 128 false) none key y.pa
  let r := if supMode i.place i.w then r else rset r 704 12 i.w.ctx
  let r := match join with
    | some (j, _) => rset r 128 64 j
    | none => r
  if bad || ptePom y.leaf || malformed s p r then (s, 1)
  else
    let s := match join with
      | some (_, z) => joinAdd s i z
      | none => s
    let (s, n) := nextSeqOf (engineLookups s p i.w.ctx (some y.va) y.leaf y.pa 128 true) p
    let s := physStores s none key [⟨y.pa + 16, bytesOfNat 8 (rJoin r), none⟩]
    let s := physStores s none key [⟨y.pa + 88, bytesOfNat 2 (rf r 704 16), none⟩]
    let s := if isLodge i.place then s
      else [0, 64, 96].foldl (fun s o => l1DropSector s (placeCore i.place) (y.pa + o)) s
    (linkRecord (writeLink s none key y.pa n) p y.pa r n (rPrio r) none, 0)

/-- Runs a spawn: poison on its address operands, its checks, its effect, its status. -/
def runSpawn (x : Instr) (f : WordF) (join : Bool) (s : State) : Host.Outcome State Fault Refusal :=
  runWord x f.guard spawnWait noBad (fun s i =>
    if !i.acts then .retire s
    else
      match poisonTrap i (sourcesOf x) with
      | some t => .trap t
      | none =>
        let rec' := uniVal s i (.int 64) f.a
        let jb := uniVal s i (.int 64) f.b
        match uniChecks s i .atomic (⟨rec', 1, 128, 128⟩ :: if join then [⟨jb, 2, 128, 128⟩] else []) with
        | (_, .inl r) => r
        | (s, .inr items) =>
          match items with
          | [] => .retire s
          | y :: rest =>
            let (s, st) := spawnLink s i y.2 (rest.head?.map (fun z => (jb, z.2)))
            .retire (modWarp s i.place (fun w => writeDst w i.l f.dst false (fun _ => st)))) s

/-- SPAWN (R357). -/
def execSpawn (f : WordF) (s : State) : Host.Outcome State Fault Refusal := runSpawn (.spawn f) f false s

/-- SPAWNJ (R357). -/
def execSpawnj (f : WordF) (s : State) : Host.Outcome State Fault Refusal := runSpawn (.spawnj f) f true s

end Sys2Proof.Machine
end

