-- ==== Sys2Proof/Machine/Save.lean ====
section
/-! DEFINITION. Saving a workgroup (R410 to R415): what a save completes, the image it writes, and what it releases. -/

namespace Sys2Proof.Machine

open Sys2Proof

/-! Steps 2 to 4 of R415. -/

/-- Requests in flight complete, but for ACCRDs, which are replayed. -/
def saveProducers (s : State) (g : Nat) : State :=
  (s.pend.filter (fun e => decide (e.2.kind ≠ .matrix) && (wgWarps s g).any (fun w => w.1 == e.2.place))).foldl
    (fun s e => completePend s e.1 e.2) s

/-- Copies of a workgroup in flight; stagings are not among them. -/
def copiesOf (s : State) (g : Nat) : List Nat := (s.xfers.filter (fun e => e.2.wg == g && e.2.entry.isNone)).map Prod.fst

/-- Copies in flight move what they can. -/
def saveCopies (s : State) (g : Nat) : State := (copiesOf s g).foldl moveAll s

/-- Spilled warps read their entries back (R415). -/
def unspill (s : State) (g : Nat) : State :=
  (wgWarps s g).foldl (fun s e =>
    let s := e.2.v.foldl (fun s r => if r.2.inSlot then moveIn s e.1 e.2 r.1 else s) s
    modWarp s e.1 (fun w => { w with spilled := false })) s

/-- The head is a loop with K-steps to do. -/
def headLoops (t : Track) : Bool :=
  match t.queue with
  | [] => false
  | m :: _ =>
    match m.word with
    | .mloop _ | .mvloop _ => decide (m.kdone < kSteps m)
    | _ => false

/-- The tracks of a core whose binding a workgroup holds. -/
def boundTracks (s : State) (core g : Nat) : List Nat := (List.range 8).filter (fun t => (trackSt s core t).bind == some g)

/-- The staging in flight into a chunk: its entry, and whether it was cleared (R415, step 3). -/
def stagingInto (s : State) (g : Nat) (x : Wg) (k : Nat) : Option Bool :=
  (s.xfers.find? (fun e => e.2.wg == g && e.2.entry.isSome && dHas e.2.desc k)).map (fun e =>
    ((e.2.entry.bind (FMap.get? x.regions)).map (fun r => r.cleared)).getD true)

/-- The saved state of a chunk: 0 present, 1 armed, 2 restage. -/
def savedChunk (s : State) (g : Nat) (x : Wg) (k : Nat) : Nat :=
  match stagingInto s g x k with
  | some c => if c then 0 else 2
  | none => if chunkOf x k = .armed then 1 else 0

/-- A cleared entry's staging is cancelled: the clear takes effect, and its chunks are present with their current bytes (R306,
R415, step 3). -/
def cancelCleared (s : State) (g : Nat) : State :=
  match wg? s g with
  | none => s
  | some x =>
    (x.regions.filter (fun e => e.2.cleared)).foldl (fun s e =>
      let s := { s with xfers := s.xfers.filter (fun t => !(t.2.wg == g && t.2.entry == some e.1)) }
      landChunks (modWg s g (fun x => { x with regions := FMap.del x.regions e.1 })) g (chunkList e.2.desc)) s

/-- A track's head may run as the workgroup is saved: it is no loop with K-steps to do, and no chunk it touches is armed or has its
staging cancelled (R415, step 4). -/
def queueMay (s : State) (core g track : Nat) : Bool :=
  let t := trackSt s core track
  !headLoops t && (kReady s core track || headDone s core track) &&
    (match t.queue, wg? s g with
      | m :: _, some x => (headChunks m).all (fun k => savedChunk s g x k == 0)
      | _, _ => false)

/-- The queues complete up to their first loops (R415, step 4). -/
def runQueues (core g : Nat) : Nat → State → State
  | 0, s => s
  | n + 1, s =>
    match (boundTracks s core g).find? (queueMay s core g) with
    | none => s
    | some track =>
      let s := if kReady s core track then kStep s core track else s
      match headDone s core track, (trackSt s core track).queue with
      | true, m :: _ =>
        runQueues core g n
          (modTrack (headEffect s core track g m) core track (fun t => { t with queue := t.queue.filter (fun x => x.id != m.id) }))
      | _, _ => runQueues core g n s

/-- Flags of completed instructions are merged; an ACCRD still queued is replayed. The flags of instructions that were issued after it
are merged before its own: the save area has no place for them, and no rule orders them (R30, R411, R413; DESIGN CHOICE, log 126). -/
def saveFlags (s : State) (g : Nat) : State :=
  (wgWarps s g).foldl (fun s e =>
    modWarp s e.1 (fun w => finishRes { w with fpq := w.fpq.filter (fun r => r.done) })) s

/-- Warps that have ended leave. -/
def saveEnds (s : State) (g : Nat) : State :=
  (wgWarps s g).foldl (fun s e =>
    match warp? s e.1 with
    | some w => if canEnd w then finishWarp s e.1 w else s
    | none => s) s

/-- The workgroup as a save writes it: steps 2 to 4 of R415. -/
def prepareSave (s : State) (g : Nat) : State :=
  match wg? s g with
  | none => s
  | some x =>
    let s := cancelCleared (unspill (saveCopies (saveProducers s g) g) g) g
    let s := runQueues x.core g 256 s
    saveEnds (saveFlags s g) g

/-! The image (R410 to R413). -/

/-- A value as n bytes, little-endian. -/
def le (n x : Nat) : List Byte := bytesOfNat n x

/-- The bits of a mask of positions. -/
def bitMask (n : Nat) (f : Nat → Bool) : Nat := (List.range n).foldl (fun m i => if f i then m + 2 ^ i else m) 0

/-- The warps of a workgroup in record order: oldest admission first (R410). Admission sequences are kept by each track (R170), and
no rule compares those of two tracks: the order in which the machine admitted the warps decides (DESIGN CHOICE, log 124). -/
def recordOrder (s : State) (g : Nat) : List (Nat × Warp) := sortBy (fun a b => decide (a.2.stamp ≤ b.2.stamp)) (wgWarps s g)

/-- Control registers of a warp record: index and width (R411). -/
def savedControl : List (Nat × Nat) :=
  [(0, 4), (1, 4), (4, 8), (5, 4), (6, 4), (7, 4), (0x20, 4), (8, 8), (9, 8), (0xA, 8), (0x12, 8), (0x13, 8)]

/-- A failure in the layout of TRAPCAUSE bits 31:0 (R411). -/
def causeLow (code detail : Nat) : Nat := detail % 65536 * 65536 + code

/-- Unreported copy failures in order of increasing batch age (R411). -/
def failsByAge (w : Warp) : List CopyFail :=
  sortBy (fun a b => decide ((w.openb - a.batch).toNat ≤ (w.openb - b.batch).toNat)) w.fails

/-- Lane values as 128 bytes. -/
def laneData (v : Vector Val 32) : List Byte := v.toList.flatMap (fun x => le 4 x.bits.toNat)

/-- The lanes of a value vector that are poisoned. -/
def lanePoison (v : Vector Val 32) : Nat := bitMask 32 (fun l => ((v.toList[l]?).bind (fun x => x.mark)).isSome)

/-- The listed entries of a warp record (R411). -/
def savedEntries (w : Warp) : List (List Byte) :=
  w.v.map (fun e => le 8 (e.1 + (if e.2.busy.isSome then 256 else 0) + lanePoison e.2.lanes * 2 ^ 32) ++ laneData e.2.lanes) ++
    (if w.lift then [le 8 512 ++ w.tid.toList.flatMap (fun x => le 4 x.toNat)] else []) ++
    ((failsByAge w).filter (fun c => oldestFail w != some c)).map (fun c =>
      le 8 (1024 + c.batch.toNat * 2 ^ 32) ++ le 8 (causeLow c.code c.detail) ++ le 8 c.pc.toNat ++ le 112 0)

/-- The failure an MVLOOP has recorded against an accumulator. -/
def mvFailOf (w : Warp) (n : Nat) : Option MvFail := w.mvfail.find? (fun c => c.acc == n)

/-- A warp record (R411). -/
def warpImage (s : State) (b pl : Nat) (w : Warp) : List Byte :=
  let es := savedEntries w
  let f := oldestFail w
  let sv (n : Nat) : Val := sRead w n
  w.pc.toList.flatMap (fun x => le 8 x.toNat) ++ le 4 w.conv.toNat ++ le 4 w.arrived.toNat ++ le 4 w.tmask.toNat ++
    le 4 w.uentry.toNat ++ le 4 w.svcpend.toNat ++
    le 1 ((w.svclane.map (fun l => l.val)).getD 255) ++ le 1 ((placeTrack pl + 8 - b) % 8) ++ le 1 w.widx ++
    le 1 ((if w.claim then 1 else 0) + (if w.lift then 2 else 0)) ++ le 8 es.length ++
    (List.range 32).flatMap (fun l => le 1 (bitMask 7 (fun p => (pMask w p).getLsbD l))) ++ le 32 w.deferred.toNat ++
    le 32 (bitMask 160 (fun n => (sv n).mark.isSome)) ++ (List.range 160).flatMap (fun n => le 4 (sv n).bits.toNat) ++
    savedControl.flatMap (fun e => le e.2 (ctlRead s w e.1)) ++ w.tcfg.toList.flatMap (fun x => le 4 x.toNat) ++
    le 4 w.openb.toNat ++ le 4 ((f.map (fun c => c.batch.toNat)).getD 0) ++
    le 8 ((f.map (fun c => causeLow c.code c.detail)).getD 0) ++
    le 8 (((mvFailOf w 0).map (fun c => c.detail % 256)).getD 0 + 256 * ((mvFailOf w 1).map (fun c => c.detail % 256)).getD 0) ++
    (List.range 4).flatMap (fun n => le 8 (levelVal w n (fun v => v.start.toNat)) ++ le 8 (levelVal w n (fun v => v.last.toNat)) ++
      le 4 (levelVal w n (fun v => v.count.toNat)) ++ le 4 (levelVal w n (fun v => v.lanes.toNat))) ++
    le 8 ((f.map (fun c => c.pc.toNat)).getD 0) ++ le 8 (((mvFailOf w 0).map (fun c => c.pc.toNat)).getD 0) ++
    le 8 (((mvFailOf w 1).map (fun c => c.pc.toNat)).getD 0) ++ le 8 0 ++ es.flatten

/-- The chunk words (R410). -/
def chunkImage (s : State) (g : Nat) (x : Wg) : List Byte :=
  (List.range (x.spadBytes / 512)).flatMap (fun k =>
    le 4 (savedChunk s g x k + 65536 * bitMask 16 (fun i => (FMap.get? x.spadPoison (16 * k + i)).isSome)))

/-- The region table (R410). -/
def regionImage (x : Wg) : List Byte :=
  (List.range 32).flatMap (fun e =>
    match FMap.get? x.regions e with
    | some r => if r.cleared then le 40 0
        else le 32 r.desc.toNat ++ le 8 ((if r.staged then 1 else 0) + (if r.flight.isSome then 2 else 0))
    | none => le 40 0)

/-- The lift lines of a workgroup. -/
def linesOf (s : State) (g : Nat) (x : Wg) : List (Nat × LiftLine) := (coreSt s x.core).lines.filter (fun e => e.2.wg == g)

/-- A line entry (R412). -/
def entryImage (s : State) (core : Nat) (label : Dword) (e : LineEntry) : List Byte :=
  le 8 label.toNat ++ le 4 e.tid.toNat ++ le 4 (e.deadline - coreClock s core) ++
    le 4 (bitMask e.vals.length (fun i => ((e.vals[i]?).bind (fun v => v.mark)).isSome)) ++ le 1 e.p.toNat ++
    le 1 e.vals.length ++ le 2 0 ++ e.vals.flatMap (fun v => le 4 v.bits.toNat)

/-- The line entries, line by line (R412). -/
def lineImage (s : State) (g : Nat) (x : Wg) : List (List Byte) :=
  (linesOf s g x).flatMap (fun e => e.2.entries.map (entryImage s x.core e.2.label))

/-! Matrix sections (R413). -/

/-- The format F word of a matrix instruction. -/
def matWordF (x : Instr) : WordF :=
  match formOf x with
  | .f _ w => w
  | _ => ⟨Guard.always, .none, .none, .none, .none, 0, 0⟩

/-- The tile roles whose TCFG a replay entry keeps. -/
def tileRoles (x : Instr) : List Nat :=
  match x with
  | .mma f | .mgenPerm f => [tileA f, tileB f]
  | .mloop f => [2 * loopP f, 2 * loopQ f]
  | .mvloop f => [mvV f, mvW f]
  | .tld f | .tst f | .tzero f | .mgenIdent f | .mgenOnes f => [tileA f]
  | _ => []

/-- The source values of a replay entry, advanced to the next K-step (R413, R415). -/
def replaySources (m : MatOp) : List Byte :=
  let f := matWordF m.word
  match m.word with
  | .mvloop _ => le 8 (m.arg 0) ++ le 8 (m.arg 1 * 256 + m.arg 2) ++ le 8 (extOf f.c)
  | .accrd _ => le 8 (m.arg 0) ++ le 4 m.lanes.toNat ++ le 4 0 ++ le 8 m.pc.toNat
  | .mloop _ =>
    let j := m.kdone
    le 8 (m.arg 0 - j) ++ le 4 (m.arg 1 + j * m.arg 3) ++ le 4 (m.arg 2 + j * m.arg 4) ++ le 4 (m.arg 3) ++ le 4 (m.arg 4) ++
      le 8 (extOf f.c)
  | _ =>
    ([f.a, f.b, f.c].foldl (fun (r : List Byte × List Nat) o =>
      match o with
      | .ext n _ => (r.1 ++ le 8 n.val, r.2)
      | .none => r
      | _ => (r.1 ++ le 8 (r.2.headD 0), r.2.drop 1)) ([], m.src)).1

/-- Bytes with zeros after them up to n. -/
def padTo (n : Nat) (l : List Byte) : List Byte := l ++ List.replicate (n - l.length) 0#8

/-- A replay entry (R413). -/
def replayImage (ws : List (Nat × Warp)) (m : MatOp) : List Byte :=
  let accrd := match m.word with
    | .accrd _ => true
    | _ => false
  let done := match m.word with
    | .mvloop _ => 32 * m.kdone
    | _ => 0
  let i := if m.gone then 255 else (ws.findIdx? (fun e => e.1 == m.place)).getD 255
  padTo 16 ((encode m.word).flatMap bytesOfDword) ++ padTo 32 (replaySources m) ++
    (if accrd then le 8 0 else padTo 8 ((tileRoles m.word).flatMap (fun t => le 4 (m.cfg t)))) ++ le 4 done ++ le 1 i ++
    le 1 (rmCode m.rm + (if m.ftz then 4 else 0)) ++ le 2 0

/-- The buffers of a loop that has begun are not saved: it loads them again (R335). -/
def loopBuffers (t : Track) : List Nat :=
  match t.queue with
  | [] => []
  | m :: _ =>
    match m.word with
    | .mloop f => if m.kdone = 0 ∧ m.prior = 0 then [] else [2 * loopP f, 2 * loopP f + 1, 2 * loopQ f, 2 * loopQ f + 1]
    | _ => []

/-- The tiles that a section saves. -/
def savedTiles (t : Track) : List Nat := (List.range 8).filter (fun n => !(loopBuffers t).contains n)

/-- An accumulator with its poison bits (R413). -/
def accImage (a : Acc) : List Byte :=
  (List.range 1536).flatMap (fun e => le 16 (accGet a e % (if a.int then 2 ^ 64 else 2 ^ 80))) ++
    le 192 (bitMask 1536 (fun e => (FMap.get? a.pois e).isSome))

/-- A tile with its scales and poison bits (R413). -/
def tileImage (t : Tile) : List Byte :=
  (List.range 8192).map (tileByte t) ++ (List.range 512).map (tileScale t) ++
    le 64 (bitMask 272 (fun e => (FMap.get? t.pois e).isSome))

/-- A matrix section (R413). -/
def matImage (s : State) (ws : List (Nat × Warp)) (core b track : Nat) : List Byte :=
  let t := trackSt s core track
  le 1 ((track + 8 - b) % 8) ++ le 1 ((if t.acc0.int then 1 else 0) + (if t.acc1.int then 2 else 0)) ++
    le 1 (bitMask 8 (fun n => (savedTiles t).contains n)) ++ le 1 t.queue.length ++ le 4 0 ++ accImage t.acc0 ++
    accImage t.acc1 ++ (savedTiles t).flatMap (fun n => tileImage (tileOf t n)) ++ t.queue.flatMap (replayImage ws)

/-! The whole area (R410). -/

/-- Offsets of the sections and the bytes used. -/
structure Layout where
  spad : Nat
  chunk : Nat
  rgn : Nat
  line : Nat
  mat : Nat
  total : Nat
  deriving DecidableEq, Repr

/-- Bytes of a matrix section. -/
def matSize (t : Track) : Nat := 8 + 2 * accBytes + tileBytes * (savedTiles t).length + replayBytes * t.queue.length

/-- The save area map of a workgroup (R410). -/
def layoutOf (s : State) (g : Nat) (x : Wg) : Layout :=
  let spad := headerBytes + ((wgWarps s g).map (fun e => warpRecBytes + entryBytes * (savedEntries e.2).length)).sum
  let chunk := spad + x.spadBytes
  let rgn := align8 (chunk + 4 * (x.spadBytes / 512))
  let line := rgn + 1280
  let mat := align8 (line + ((linesOf s g x).map (fun e => (e.2.entries.map (fun y => 24 + 4 * y.vals.length)).sum)).sum)
  ⟨spad, chunk, rgn, line, mat, mat + ((boundTracks s x.core g).map (fun t => matSize (trackSt s x.core t))).sum⟩

/-- SaveBytes (R406): the TOTAL of the map. -/
def saveBytes (s : State) (g : Nat) : Nat :=
  let s := prepareSave s g
  match wg? s g with
  | some x => (layoutOf s g x).total
  | none => 0

/-- The record copy (R410). -/
def savedRecord (x : Wg) (frame seq : Nat) : Rec :=
  [(320, 64, frame), (693, 1, 0), (416, 32, 1), (384, 32, x.index), (128, 64, 0), (192, 64, seq)].foldl
    (fun r e => rset r e.1 e.2.1 e.2.2) x.record

/-- The header (R410). -/
def headerImage (s : State) (g : Nat) (x : Wg) (r : Rec) : List Byte :=
  let l := layoutOf s g x
  let addr := ((FMap.get? s.launches x.launch).map (fun e => e.addr)).getD 0
  padTo headerBytes (le 128 r.toNat ++ le 8 addr ++ le 8 x.retired ++ le 8 l.total ++ le 2 (wgWarps s g).length ++
    le 2 (lineImage s g x).length ++ le 1 x.btrack ++ le 1 (boundTracks s x.core g).length ++ le 2 0 ++ le 4 l.spad ++
    le 4 l.chunk ++ le 4 l.rgn ++ le 4 l.line ++ le 4 l.mat ++ le 4 0)

/-- What a save writes: offsets and bytes. The bytes of chunks in state 1 or 2 are not written. -/
def savePieces (s : State) (g : Nat) (x : Wg) (r : Rec) : List (Nat × List Byte) :=
  let l := layoutOf s g x
  let ws := recordOrder s g
  let head := headerImage s g x r ++ ws.flatMap (fun e => warpImage s x.btrack e.1 e.2)
  let chunks := ((List.range (x.spadBytes / 512)).filter (fun k => savedChunk s g x k == 0)).map (fun k =>
    (l.spad + 512 * k, spadBytes x (512 * k) 512))
  let tail := padTo (l.mat - l.chunk) (padTo (l.rgn - l.chunk) (chunkImage s g x) ++ regionImage x ++ (lineImage s g x).flatten) ++
    (boundTracks s x.core g).flatMap (matImage s ws x.core x.btrack)
  [(0, head)] ++ chunks ++ [(l.chunk, tail)]

/-- What stays with Chairlift beside the area. -/
def asideOf (s : State) (g : Nat) (x : Wg) : Aside :=
  ⟨(recordOrder s g).map (fun e => (e.2.parks.filter (fun p =>
      match p.cause with
      | .record _ _ | .debug _ _ _ _ => true
      | _ => false), e.2.denied, e.2.mvfail, e.2.barEdges)),
    (boundTracks s x.core g).flatMap (fun t => (trackSt s x.core t).queue.map (fun m =>
      ⟨m.pc, m.sup, m.denied, m.id, m.prior + m.kdone⟩)), x.kept⟩

/-! Step 5 of R415. -/

/-- The workgroup leaves its core. -/
def releaseWg (s : State) (g : Nat) : State :=
  let pls := (wgWarps s g).map Prod.fst
  let s := unbind (dropLines s g) g
  { s with
    warps := s.warps.filter (fun e => !pls.contains e.1)
    pend := s.pend.filter (fun e => !pls.contains e.2.place)
    xfers := s.xfers.filter (fun e => e.2.wg != g)
    wgs := FMap.del s.wgs g }

/-- A handler claim's HRES becomes 0 (R393). -/
def unresident (s : State) (p c : Nat) : State := uibSet s p c 0 (setBits (uibWord s p c 0) 62 1 0)

/-- Writes the area, releases the workgroup and links its record copy (R346, R415). -/
def finishSave (s : State) (g frame : Nat) (yield : Bool) : State :=
  match wg? s g with
  | none => s
  | some x =>
    let (s, seq) := if yield then nextSeqOf s x.part else (s, rSeq x.record)
    let r := savedRecord x frame seq
    let key := ctxKey s x.ctx false
    let aside := asideOf s g x
    let claim := (wgWarps s g).any (fun e => e.2.claim)
    let pieces := savePieces s g x r
    let s := pieces.foldl (fun s e => physWrite (engineLookups s x.part x.ctx none 0 (frame + e.1) e.2.length true) (some x.part) key
      (frame + e.1) e.2) s
    let s := releaseWg s g
    addLaunch (writeLink s (some x.part) key frame seq)
      ⟨x.part, x.ctx, frame, none, r, seq, max (rPrio r) x.raised, x.index, x.index + 1, 0, some x.launch, frame, claim, 0, none, [], false,
        some aside⟩

/-- A save goes on (R415): when its copies have completed, and hosts have given up the lines of its frame (R441), it is written. A
failure that ends the workgroup meanwhile supersedes it (R416). -/
def goSave (s : State) (g : Nat) : State :=
  let s := saveCopies (saveProducers s g) g
  if !(copiesOf s g).isEmpty then s
  else
    let s := prepareSave s g
    match (wg? s g).bind (fun x => x.saving) with
    | some (frame, yield) =>
      (match snoopPhys s true frame (min (saveBytes s g) 8388608) with
        | some ln => sendSnoop s ln true
        | none => finishSave s g frame yield)
    | none => s

/-- A save stops its workgroup: no warp of it issues any more, and a handler claim's HRES becomes 0 (R393, R415). -/
def stopForSave (s : State) (g frame : Nat) (yield : Bool) : State :=
  let s := (wgWarps s g).foldl (fun s e =>
    if claimNames s e.1 e.2 then modWarp (unresident s e.2.part e.2.ctx) e.1 (fun w => { w with claim := true }) else s) s
  modWg s g (fun x => { x with saving := some (frame, yield), drain := none })

/-- A save begins, and goes as far as it can (R415). -/
def beginSave (s : State) (g frame : Nat) (yield : Bool) : State := goSave (stopForSave s g frame yield) g

/-! Frames (R406, R414). -/

/-- The ring of free frames. -/
def savePool (p : Part) : Ring := ringAt p 0x518 3

/-- An entry names a frame. -/
def frameOk (s : State) (p e : Nat) : Bool :=
  bits e 50 14 == 0 && decide (bits e 48 2 < 2) && e % 8388608 == 0 && slotBacked s p e && slotBacked s p (e + 8388607)

/-- Discards entries that name no frame, from HEAD; gives the frame of the first that does. While a host holds the entry's line
exclusive, the answer to the snoop is awaited and no frame is found (R441, log 125). -/
def poolHead (p : Nat) : Nat → State → State × Option Nat
  | 0, s => (s, none)
  | n + 1, s =>
    let r := savePool (part s p)
    let a := r.base + 8 * (r.head % 2 ^ r.size)
    if r.count = 0 then (s, none)
    else
      match snoopPhys s false a 8 with
      | some ln => (sendSnoop s ln false, none)
      | none =>
        let (s, e, _) := physRead64 (blockLookup s p a false) (some p) a
        if frameOk s p e then (s, some e) else poolHead p n (modPart s p (fun q => ringPop q 0x518))

/-- The free frame, if there is one. -/
def freeFrame (s : State) (p : Nat) : State × Option Nat := poolHead p (savePool (part s p)).count s

/-- Takes the frame at HEAD (R414). -/
def takeFrame (s : State) (p : Nat) : State := modPart s p (fun q => ringPop q 0x518)

/-- Saves a workgroup if a frame is free; else it runs on. -/
def saveNow (s : State) (g : Nat) (yield : Bool) : State :=
  match wg? s g with
  | none => s
  | some x =>
    match freeFrame s x.part with
    | (s, some f) => beginSave (takeFrame s x.part) g f yield
    | (s, none) => s

end Sys2Proof.Machine
end

