-- ==== Sys2Proof/Machine/Restore.lean ====
section
/-! DEFINITION. Restoring a saved workgroup (R417, R418) and dispatching a lift line (R185 to R187). -/

namespace Sys2Proof.Machine

open Sys2Proof

/-! Warps of a save area (R411). -/

/-- A field of a warp record. -/
def wrec (s : State) (a : Area) (o off n : Nat) : Nat := a.get s (o + off) n

/-- A 32-bit value at an offset: poisoned where the area says so, and where its sector was read poisoned. -/
def areaVal (s : State) (a : Area) (o : Nat) (pois : Bool) : Val :=
  ⟨BitVec.ofNat 32 (a.get s o 4), (a.mark o 4).orElse (fun _ => if pois then some .anon else none)⟩

/-- A vector of 32 lane words at an offset, with a poison mask. -/
def areaLanes (s : State) (a : Area) (o pois : Nat) : Vector Val 32 :=
  Vector.ofFn (fun l => areaVal s a (o + 4 * l.val) (pois.testBit l.val))

/-- The listed entries of a warp record: index word and offset of the data. -/
def recEntries (s : State) (a : Area) (o : Nat) : List (Nat × Nat) :=
  (List.range (wrec s a o 0x118 2)).map (fun k => (a.get s (o + warpRecBytes + entryBytes * k) 8, o + warpRecBytes + entryBytes * k + 8))

/-- The entries of one KIND. -/
def entriesOf (s : State) (a : Area) (o kind : Nat) : List (Nat × Nat) := (recEntries s a o).filter (fun e => bits e.1 9 2 == kind)

/-- The registers that a record lists. -/
def recRegs (s : State) (a : Area) (o : Nat) : FMap VReg :=
  (entriesOf s a o 0).foldl (fun m e => FMap.ins m (bits e.1 0 8) ⟨areaLanes s a e.2 (bits e.1 32 32), none, false⟩) []

/-- %tid of the lanes (R417). -/
def recTids (s : State) (a : Area) (o : Nat) : Vector Word 32 :=
  match entriesOf s a o 1 with
  | e :: _ => Vector.ofFn (fun l => BitVec.ofNat 32 (a.get s (e.2 + 4 * l.val) 4))
  | [] => launchTids (wrec s a o 0x116 1)

/-- A copy failure in the layout of FAIL. -/
def failOf (batch cause pc : Nat) : CopyFail := ⟨BitVec.ofNat 32 batch, cause % 256, cause / 65536 % 65536, BitVec.ofNat 64 pc⟩

/-- The unreported copy failures of a record, oldest first. -/
def recFails (s : State) (a : Area) (o : Nat) : List CopyFail :=
  (if wrec s a o 0x470 8 = 0 then [] else [failOf (wrec s a o 0x46C 4) (wrec s a o 0x470 8) (wrec s a o 0x4E0 8)]) ++
    ((entriesOf s a o 2).map (fun e => failOf (bits e.1 32 32) (a.get s e.2 8) (a.get s (e.2 + 8) 8))).reverse

/-- The MVLOOP failures of a record, by KIND (R411). -/
def recMvFails (s : State) (a : Area) (o : Nat) : List MvFail :=
  [0, 1].filterMap (fun n =>
    let k := wrec s a o (0x478 + n) 1
    if k = 0 then none else some ⟨n, 6, k, BitVec.ofNat 64 (wrec s a o (0x4E8 + 8 * n) 8)⟩)

/-- The loop levels of a record. -/
def recLoops (s : State) (a : Area) (o : Nat) : List LoopLevel :=
  (List.range (min 4 (bits (wrec s a o 0x404 4) 16 3))).map (fun n =>
    let b := 0x480 + 24 * n
    ⟨BitVec.ofNat 64 (wrec s a o b 8), BitVec.ofNat 64 (wrec s a o (b + 8) 8), BitVec.ofNat 32 (wrec s a o (b + 16) 4),
      BitVec.ofNat 32 (wrec s a o (b + 20) 4)⟩)

/-- XREC0 to XREC3 of a record. -/
def recXrec (s : State) (a : Area) (o : Nat) : XRec :=
  let x2 := wrec s a o 0x414 4
  let x3 := wrec s a o 0x418 4
  ⟨BitVec.ofNat 64 (wrec s a o 0x408 8), BitVec.ofNat 32 (wrec s a o 0x410 4), x2.testBit 31, x2.testBit 9,
    BitVec.ofNat 9 x2, BitVec.ofNat 16 (x3 / 256), BitVec.ofNat 5 x3⟩

/-- A warp as its record holds it (R411, R417). -/
def warpOf (s : State) (a : Area) (o : Nat) (x : Wg) (g seq : Nat) : Warp :=
  let m (off : Nat) : Mask := BitVec.ofNat 32 (wrec s a o off 4)
  let flags := wrec s a o 0x117 1
  let pois := wrec s a o 0x160 32
  let w := newWarp x g seq (wrec s a o 0x116 1) (flags.testBit 1) (recTids s a o) (m 0x100) 0
  let svc := wrec s a o 0x114 1
  let wctl := wrec s a o 0x404 4
  let uiepc := wrec s a o 0x440 8
  setFpcsr { w with
    pc := Vector.ofFn (fun l => BitVec.ofNat 64 (wrec s a o (8 * l.val) 8))
    arrived := m 0x104
    tmask := m 0x108
    uentry := m 0x10C
    svcpend := m 0x110
    svclane := if h : svc < 32 then some ⟨svc, h⟩ else none
    v := recRegs s a o
    p := Vector.ofFn (fun p => BitVec.ofNat 32 (bitMask 32 (fun l => (wrec s a o (0x120 + l) 1).testBit p.val)))
    deferred := BitVec.ofNat 256 (wrec s a o 0x140 32)
    s := (List.range 159).map (fun i => (i + 1, ⟨areaVal s a (o + 0x184 + 4 * i) (pois.testBit (i + 1)), none⟩))
    alloc := startAlloc (recRegs s a o)
    stale := wctl.testBit 0
    intrap := wctl.testBit 8
    xrec := recXrec s a o
    refage := BitVec.ofNat 16 (wrec s a o 0x41C 4)
    trapvec := BitVec.ofNat 64 (wrec s a o 0x420 8)
    trappc := BitVec.ofNat 64 (wrec s a o 0x428 8)
    trapcause := BitVec.ofNat 64 (wrec s a o 0x430 8)
    uivec := BitVec.ofNat 64 (wrec s a o 0x438 8)
    uiepc := clearLow uiepc 3
    uiin := uiepc.testBit 0
    tcfg := Vector.ofFn (fun n => BitVec.ofNat 32 (wrec s a o (0x448 + 4 * n.val) 4))
    openb := BitVec.ofNat 32 (wrec s a o 0x468 4)
    fails := recFails s a o
    mvfail := recMvFails s a o
    loops := recLoops s a o } (wrec s a o 0x400 4)

/-- What stays beside the area returns to its warp (R156, R226, R338). -/
def joinAside (k : Option (List Park × List Denied × List MvFail × List Dword)) (w : Warp) : Warp :=
  match k with
  | none => w
  | some (ps, ds, ms, es) => { w with parks := ps, denied := ds, mvfail := ms, barEdges := es }

/-- Restores the warps in record order; gives their places (R417). What their registers lack in a bank is an allocation that failed
(R176). -/
def restoreWarps (s : State) (a : Area) (x : Wg) (g : Nat) (aside : Option Aside) : State × List Nat :=
  ((areaWarps s a).zipIdx).foldl (fun (r : State × List Nat) e =>
    let t := (x.btrack + wrec s a e.1 0x115 1) % 8
    let pl := (x.core * 8 + t) * 16 + (freeSlot r.1 x.core t).getD 0
    let s := admitWarp r.1 x.core t (fun seq => joinAside (aside.bind (fun k => k.warps[e.2]?)) (warpOf r.1 a e.1 x g seq))
    let s := if (wrec s a e.1 0x117 1).testBit 0 then (warp? s pl).elim s (fun w => uiClaim s pl w) else s
    (fitPool x.core t 16 s, r.2 ++ [pl])) (s, [])

/-! Scratchpad, chunks and regions (R410, R417). -/

/-- The scratchpad bytes, chunk states and poison marks of an area. -/
def restoreSpad (s : State) (a : Area) (x : Wg) : Wg :=
  let spad := a.get s 0xA0 4
  let chunk := a.get s 0xA4 4
  (List.range (x.spadBytes / 512)).foldl (fun x k =>
    let c := a.get s (chunk + 4 * k) 4
    let x := if c % 4 = 0 then spadStores x [⟨512 * k, areaBytes s a (spad + 512 * k) 512, none⟩] else x
    let pois := (List.range 16).foldl (fun m i =>
      match if c % 4 = 0 then a.mark (spad + 512 * k + 32 * i) 32 else none, (c / 65536).testBit i with
      | some y, _ => FMap.ins m (16 * k + i) y
      | none, true => FMap.ins m (16 * k + i) .anon
      | none, false => m) x.spadPoison
    let x := { x with spadPoison := pois }
    setChunks x [k] (if c % 4 = 1 then .armed else if c % 4 = 2 then .absent else .present)) x

/-- The region table of an area; an entry with CANCEL is staged again (R308, R417). -/
def restoreRegions (s : State) (a : Area) (g : Nat) : State :=
  let o := a.get s 0xA8 4
  (List.range 32).foldl (fun s e =>
    let d : BitVec 256 := BitVec.ofNat 256 (a.get s (o + 40 * e) 32)
    let k := a.get s (o + 40 * e + 32) 8
    if !dV d then s
    else
      let s := modWg s g (fun x => { x with regions := FMap.ins x.regions e ⟨d, k.testBit 0 && !k.testBit 1, none, false⟩ })
      match wg? s g with
      | some x => if k.testBit 1 then startStaging s g e x.core x.btrack false else s
      | none => s) s

/-! Matrix sections (R413, R417). -/

/-- An accumulator of an area. -/
def areaAcc (s : State) (a : Area) (o : Nat) (int : Bool) : Acc :=
  let b := areaBytes s a o accBytes
  (List.range 1536).foldl (fun c e =>
    accMark (accPut c e (natOfBytes ((b.drop (16 * e)).take 10)))
      e ((a.mark (o + 16 * e) 10).orElse (fun _ => if ((b.getD (24576 + e / 8) 0#8).getLsbD (e % 8)) then some .anon else none)))
      ⟨int, [], []⟩

/-- A tile of an area. -/
def areaTile (s : State) (a : Area) (o : Nat) : Tile :=
  let b := areaBytes s a o tileBytes
  ⟨(List.range 8192).foldl (fun m i => spadPut m i (b.getD i 0#8)) [],
    (List.range 512).foldl (fun m i => scalePut m i (b.getD (8192 + i) 0x7F#8)) [],
    (List.range 272).filterMap (fun i =>
      ((a.mark (o + 32 * i) 32).orElse (fun _ => if (b.getD (8704 + i / 8) 0#8).getLsbD (i % 8) then some .anon else none)).map
        (fun m => (i, m)))⟩

/-- The source values that a replay entry holds. -/
def replayArgs (s : State) (a : Area) (o : Nat) (x : Instr) : List Nat :=
  let f := matWordF x
  match x with
  | .accrd _ => [a.get s (o + 16) 8]
  | .mloop _ => a.get s (o + 16) 8 :: (List.range 4).map (fun i => a.get s (o + 24 + 4 * i) 4)
  | .mvloop _ => [a.get s (o + 16) 8, a.get s (o + 24) 8 / 256, a.get s (o + 24) 8 % 256]
  | _ =>
    ([f.a, f.b, f.c].foldl (fun (r : List Nat × Nat) y =>
      match y with
      | .none => r
      | .ext _ _ => (r.1, r.2 + 8)
      | _ => (r.1 ++ [a.get s (o + r.2) 8], r.2 + 8)) ([], 16)).1

/-- The configurations that a replay entry holds, at their registers. -/
def replayCfg (s : State) (a : Area) (o : Nat) (x : Instr) : List Word :=
  (((tileRoles x).zipIdx).foldl (fun m e => FMap.ins m e.1 (BitVec.ofNat 32 (a.get s (o + 48 + 4 * e.2) 4))) ([] : FMap Word)) |>
    fun m => (List.range 8).map (fun n => FMap.getD m n 0)

/-- One replay entry enters a track's queue under a request number (R413): an ACCRD's destinations are empty until it
completes. -/
def replayOne (s : State) (a : Area) (core track o id : Nat) (pls : List Nat) (k : Option MatAside) : State :=
  match decodeWord false (BitVec.ofNat 64 (a.get s o 8)) (BitVec.ofNat 64 (a.get s (o + 8) 8)) with
  | .error _ => s
  | .ok x =>
    let i := a.get s (o + 60) 1
    let b := a.get s (o + 61) 1
    let next := max s.nextId (id + 1)
    let accrd : Bool := match x with
      | .accrd _ => true
      | _ => false
    let pc : Dword := if accrd then BitVec.ofNat 64 (a.get s (o + 32) 8) else (k.map (fun e => e.pc)).getD 0
    let pl := pls.getD i 9999
    let m : MatOp := ⟨id, pl, x, replayArgs s a o x, replayCfg s a o x, a.get s (o + 56) 4 / 32,
      (k.map (fun e => e.prior)).getD 0, if accrd then BitVec.ofNat 32 (a.get s (o + 24) 4) else 0, pc, rmOf b, b.testBit 2, none, (k.map (fun e => e.denied)).getD [],
      i == 255, (k.map (fun e => e.sup)).getD false,
      ((warp? s pl).map (fun w => w.fpEn)).getD 0⟩
    let s := modTrack { s with nextId := next } core track (fun t => { t with queue := t.queue ++ [m] })
    match x with
    | .accrd f =>
      let s := if extOf f.b / 8 % 2 = 1 then s
        else modWarp s pl (fun w => pushRes w ⟨id, false, 0, 0, 0, pc, BitVec.ofNat 9 (dstCode f.dst), false⟩)
      { addPend { s with nextId := id } pl .matrix m.lanes (fillsOf f.dst (accrdRegs f) m.lanes (fun _ _ => Val.clean 0)) with
        nextId := next }
    | _ => s

/-- The request number of replayed instruction n of a workgroup: they keep the order in which they were issued (R295, R325). -/
def replayId (base n : Nat) (ks : List MatAside) : Nat :=
  match ks[n]? with
  | some k => base + (k.id - ks.foldl (fun m x => min m x.id) k.id)
  | none => base + n

/-- Restores the matrix sections: the bindings are taken and the replay lists queued in order (R417). A tile that is not saved comes
back as after TZERO, its data bytes 0 and its scale bytes 0x7F: those of a stopped loop's buffers that the loop does not load again
are kept by R329 and not saved by R335, and no rule says what they hold (DESIGN CHOICE, log 127). -/
def restoreMats (s : State) (a : Area) (x : Wg) (g : Nat) (pls : List Nat) (aside : Option Aside) : State :=
  let base := s.nextId
  let ks := (aside.map (fun k => k.mats)).getD []
  ((areaMats s a).foldl (fun (r : State × Nat) o =>
    let s := r.1
    let t := (x.btrack + a.get s o 1) % 8
    let mode := a.get s (o + 1) 1
    let saved := (List.range 8).filter (fun n => (a.get s (o + 2) 1).testBit n)
    let n := a.get s (o + 3) 1
    let acc := o + 8
    let tiles := acc + 2 * accBytes
    let queue := tiles + tileBytes * saved.length
    let s := modTrack s x.core t (fun y => { y.unbound with
      bind := some g
      acc0 := areaAcc s a acc (mode.testBit 0)
      acc1 := areaAcc s a (acc + accBytes) (mode.testBit 1)
      tiles := saved.zipIdx.map (fun e => (e.1, areaTile s a (tiles + tileBytes * e.2))) })
    ((List.range n).foldl (fun s i =>
      replayOne s a x.core t (queue + replayBytes * i) (replayId base (r.2 + i) ks) pls ks[r.2 + i]?) s, r.2 + n)) (s, 0)).1

/-! Lines (R412, R417). -/

/-- Files one entry again (R412). -/
def refile (s : State) (a : Area) (core g o : Nat) : State :=
  let label : Dword := BitVec.ofNat 64 (a.get s o 8)
  let tid := a.get s (o + 8) 4
  let pois := a.get s (o + 16) 4
  let e : LineEntry := ⟨BitVec.ofNat 32 tid, BitVec.ofNat 7 (a.get s (o + 20) 1),
    (List.range (a.get s (o + 21) 1)).map (fun i =>
      areaVal s a (o + 24 + 4 * i) (pois.testBit i)),
    coreClock s core + a.get s (o + 12) 4, s.now, tid / 32⟩
  let ls := (coreSt s core).lines
  match (match ls.find? (fun e => e.2.wg == g && e.2.label == label) with
      | some e => some e.1
      | none => (List.range 16).find? (fun n => (FMap.get? ls n).isNone)) with
  | none => s
  | some n =>
    let old := FMap.getD ls n ⟨g, label, [], none⟩
    let es := old.entries ++ [e]
    modCore s core (fun c => { c with lines := FMap.ins c.lines n { old with
      entries := es, trig := if es.length = 32 then some .full else old.trig } })

/-- Files the entries of an area again, in order. -/
def restoreLines (s : State) (a : Area) (x : Wg) (g : Nat) : State :=
  (lineOffsets s a (a.get s 0x9A 2) (a.get s 0xAC 4)).foldl (fun s o => refile s a x.core g o) s

/-! WORKGROUP_RESTORE (R417). -/

/-- A debug stop answered with DENY while its workgroup was saved goes to the walk now (R362): such a park has no sequence
number left. -/
def walkAnswered (s : State) (e : Nat × Warp) : State :=
  e.2.parks.foldl (fun s p =>
    match p.cause with
    | .debug _ 0 cause _ =>
      let s := modWarp s e.1 (fun w => { w with parks := w.parks.filter (fun q => q != p) })
      contWalk s (whereOf e.1 e.2) cause (e.2.pc[p.mask.low?.getD 0]).toNat e.2.svclane.isSome
    | _ => s) s

/-- Restores a saved workgroup on a core. -/
def restoreWg (s : State) (i : Nat) (l : Launch) (r : Rec) (c : Nat) : State :=
  let a := areaOf s l.save l.ctx
  let n := min (a.get s 0x90 8) 8388608
  let (s, a) := areaRead (engineLookups s l.part l.ctx none 0 a.frame n false) a n
  let s := l1Clear (liftFence (takeClass s c (rCarve r)) i) c
  let g := s.nextId
  let x := { newWg s i l r c (baseTrack s c) with
    phase := .running
    retired := a.get s 0x88 8
    kept := l.aside.bind (fun k => k.kept) }
  let s := { s with wgs := FMap.ins s.wgs g (restoreSpad s a x), nextId := g + 1 }
  let (s, pls) := restoreWarps s a x g l.aside
  let s := restoreMats s a x g pls l.aside
  let s := restoreLines (restoreRegions s a g) a x g
  let s := (wgWarps s g).foldl walkAnswered s
  saveFree (countPlaced s i l) l.part l.ctx a.frame

/-- A line of a ring entry or of a save area that a host must give up before a start reads it (R441). -/
def startSnoop (s : State) (l : Launch) : Option Nat :=
  ((if l.ring.isSome then snoopPhys s false l.addr 128 else none)).orElse (fun _ =>
    if l.save = 0 then none
    else
      let a := areaOf s l.save l.ctx
      snoopPhys s false a.frame (max headerBytes (min (a.get s 0x90 8) 8388608)))

/-- Starts the next workgroup of a candidate on a core, from the bytes present now: the first reading of a ring entry decided whether
it is malformed (R345). A killed context's record is dropped (R368). A start waits for the lines that a host must give up (R441). -/
def startWg (s : State) (p i : Nat) (l : Launch) (c : Nat) : State :=
  let s := blockAccess s p (excsumAddr s p l.ctx)
  if ctxKilled s p l.ctx then dropLaunch s i
  else
    match startSnoop s l with
    | some ln => sendSnoop s ln false
    | none =>
    let (s, r, _) := startRecord s l
    if rSave r = 0 then placeFresh { s with launches := FMap.modify s.launches i (fun l => { l with record := r }) } i l r c
    else restoreWg s i { l with save := rSave r } r c

/-- WORKGROUP_PLACE (R348): the first candidate that fits starts its next workgroup. -/
def execWorkgroupPlace (p : Nat) (s : State) : Host.Outcome State Fault Refusal :=
  match bestFit s p with
  | none => .next s
  | some (i, l, c) => .next (if l.save ≠ 0 then s else startWg s p i l c)

/-- WORKGROUP_RESTORE (R348, R417): the first candidate that fits is a saved workgroup, and it is restored. -/
def execWorkgroupRestore (p : Nat) (s : State) : Host.Outcome State Fault Refusal :=
  match bestFit s p with
  | none => .next s
  | some (i, l, c) => .next (if l.save = 0 then s else startWg s p i l c)

/-! LINE_DISPATCH (R185 to R187). -/

/-- Lines of a core whose trigger has held, in the order in which they dispatch. -/
def dispatchOrder (s : State) (core : Nat) : List (Nat × LiftLine) :=
  let rank (e : Nat × LiftLine) : Nat := ((e.2.trig.map trigRank).getD 3) * 2 ^ 64 + ((e.2.entries.head?).map (fun y => y.filed)).getD 0
  sortBy (fun a b => decide (rank a ≤ rank b)) ((coreSt s core).lines.filter (fun e => e.2.trig.isSome && !e.2.entries.isEmpty))

/-- Registers of a line's warp: the most that an entry carries (R184). -/
def lineRegs (l : LiftLine) : Nat := l.entries.foldl (fun n e => max n e.vals.length) 0

/-- The track a line's warp takes: of those that admit it, the one with the most free entries (R185). -/
def lineTrack (s : State) (core floor : Nat) : Option Nat :=
  ((List.range 8).filter (fun t => admits s core t [floor] && (freeSlot s core t).isSome)).foldl (fun b t =>
    let free (t : Nat) : Nat := bankFree (trackWarps s core t) 0 + bankFree (trackWarps s core t) 1
    match b with
    | none => some t
    | some u => if free t > free u then some t else some u) none

/-- The register image of carried register r of a line. -/
def lineReg (l : LiftLine) (r : Nat) : VReg :=
  ⟨Vector.ofFn (fun i => ((l.entries[i.val]?).bind (fun e => e.vals[r]?)).getD (Val.clean 0)), none, false⟩

/-- The warp of a line (R186, R187). -/
def lineWarp (s : State) (x : Wg) (l : LiftLine) (kept : Dword × Dword × List Val) (seq : Nat) : Warp :=
  let n := lineRegs l
  let w := newWarp x l.wg seq ((l.entries.head?.map (fun e => e.widx)).getD 0) true
    (Vector.ofFn (fun i => ((l.entries[i.val]?).map (fun e => e.tid)).getD 0))
    (Mask.ofFn (fun i => decide (i.val < l.entries.length))) l.label
  loadKept kept { w with
    p := Vector.ofFn (fun p => Mask.ofFn (fun i => ((l.entries[i.val]?).map (fun e => e.p.getLsbD p.val)).getD false))
    v := (List.range n).map (fun r => (r, lineReg l r))
    alloc := startAlloc ((List.range n).map (fun r => (r, lineReg l r)))
    readyAt := s.now + 2 + (n + 7) / 8 }

/-- The header fields and frame words that a line's warp starts with: as the start read them, or read now for a workgroup
restored without them (R187). -/
def lineKept (s : State) (x : Wg) : State × Option (Dword × Dword × List Val) :=
  match x.kept with
  | some k => (s, some k)
  | none =>
    match startRead s x (ofInt 64 ((rCode x.record : Int) - 32)) 32 with
    | (s, .bytes hb _) =>
      (match startRead s x (rFrame x.record) 128 with
        | (s, .bytes fb fm) =>
          (s, some (clearLow (natOfBytes ((hb.drop 8).take 8)) 3, clearLow (natOfBytes ((hb.drop 16).take 8)) 3,
            (wordsOf fb fm 32).drop 1))
        | (s, _) => (s, none))
    | (s, _) => (s, none)

/-- Dispatches one line to a track (R186): every entry is taken and the line is free. Its warp's registers are allocations, for which
a victim may be spilled (R176, R187). -/
def dispatchLine (s : State) (core n track : Nat) (l : LiftLine) : State :=
  match wg? s l.wg with
  | none => s
  | some x =>
    match lineKept s x with
    | (s, none) => s
    | (s, some k) =>
      let s := fitPool core track 16 (admitWarp s core track (lineWarp s x l k))
      modCore s core (fun c => { c with lines := FMap.del c.lines n })

/-- LINE_DISPATCH (R185, R415): the first line in order whose workgroup is not being saved, if a track admits its warp. -/
def execLineDispatch (core : Nat) (s : State) : Host.Outcome State Fault Refusal :=
  match (dispatchOrder s core).find? (fun e => (wg? s e.2.wg).any (fun x => x.saving.isNone)) with
  | none => .next s
  | some (n, l) =>
    match (wg? s l.wg).bind (fun x => lineTrack s core (rFloor x.record)) with
    | none => .next s
    | some t => .next (dispatchLine s core n t l)

end Sys2Proof.Machine
end

