-- ==== Sys2Proof/Machine/Preempt.lean ====
section
/-! DEFINITION. Pre-emption (R354, R355, R358, R404 to R409, R416): slice ends, drains, fences, the swap rule and YIELD. -/

namespace Sys2Proof.Machine

open Sys2Proof

/-! PRECTL and CHCTL (R353, R404). -/

/-- SLICE. -/
def sliceLen (p : Part) : Nat := ctlField p 0x510 0 32
/-- SAVEMAX. -/
def saveMax (p : Part) : Nat := ctlField p 0x510 32 16
/-- DRAIN. -/
def drainPct (p : Part) : Nat := ctlField p 0x510 48 7
/-- SWAPN. -/
def swapN (p : Part) : Nat := ctlField p 0x300 0 32
/-- FENCEWAIT. -/
def fenceWaitLen (p : Part) : Nat := ctlField p 0x300 32 16

/-! Choices (R405, R406, R409). -/

/-- A workgroup that a pre-emption may pick: running, and not being drained, saved or killed. -/
def preemptible (x : Wg) : Bool := x.phase == .running && x.drain.isNone && x.saving.isNone && !x.killed

/-- A candidate would fit a core once some workgroups have left it. -/
def fitsWithout (s : State) (gs : List Nat) (i : Nat) (l : Launch) (c : Nat) : Bool := fits (gs.foldl releaseWg s) i l c

/-- A candidate of at least the workgroup's PRIO would fit its core with it removed. -/
def waiterFor (s : State) (g : Nat) (x : Wg) : Bool :=
  let s' := releaseWg s g
  (candidates s x.part).any (fun e => decide (e.2.prio ≥ rPrio x.record) && fits s' e.1 e.2 x.core)

/-- Kills a workgroup and queues its index again as a fresh start, with no record of it (R409). -/
def requeueWg (s : State) (g : Nat) : State :=
  match wg? s g with
  | none => s
  | some x =>
    let r := rset x.record 320 64 0
    let s := (wgWarps s g).foldl (fun s e => modWarp s e.1 (fun w => { w with fails := [], mvfail := [] })) s
    addLaunch (killWg s 1 g).1 ⟨x.part, x.ctx, 0, none, r, rSeq r, rPrio r, x.index, x.index + 1, 0, some x.launch, 0, false, 0,
      none, [], false, none⟩

/-- Choose (R406); `est` says that its first line applies. -/
def choose (s : State) (g : Nat) (est : Bool) : State :=
  match wg? s g with
  | none => s
  | some x =>
    let p := part s x.part
    let r := x.record
    if est ∧ rExpect r ≠ 0 ∧ 100 * x.retired ≥ drainPct p * rExpect r then modWg s g (fun x => { x with drain := some s.now })
    else
      match freeFrame s x.part with
      | (s, none) =>
        if rIdem r then requeueWg s g
        else modWg s g (fun x => { x with drain := some (if est then s.now else s.now + 2 ^ 64) })
      | (s, some f) =>
        if rIdem r && decide (saveBytes s g > 4096 * saveMax p) then requeueWg s g
        else beginSave (takeFrame s x.part) g f false

/-- SLICE_END (R405): the slice count has reached SLICE; a save that waits for its copies goes on (R415). -/
def execSliceEnd (g : Nat) (s : State) : Host.Outcome State Fault Refusal :=
  match wg? s g with
  | none => .next s
  | some x =>
    let n := sliceLen (part s x.part)
    if x.saving.isSome then .next (goSave s g)
    else if !preemptible x ∨ n = 0 ∨ s.now - x.slice < n then .next s
    else if waiterFor s g x then .next (choose s g true)
    else .next (modWg s g (fun x => { x with slice := s.now }))

/-- DRAIN_TIMEOUT (R408). With no free frame the workgroup drains until it completes: no later cycle is due. -/
def execDrainTimeout (g : Nat) (s : State) : Host.Outcome State Fault Refusal :=
  match wg? s g with
  | none => .next s
  | some x =>
    match x.drain with
    | none => .next s
    | some t => .next (if t + max (sliceLen (part s x.part)) (2 ^ 24) ≤ s.now then choose s g false else s)

/-! Fences and requests (R354, R407). -/

/-- A core without its fence. -/
def openCore (s : State) (c : Nat) : State := modCore s c (fun k => { k with fence := none })

/-- Workgroups of a core that a candidate of PRIO q may pre-empt, in the order in which they are picked (R407). Workgroups of one
spread record share their SEQ (R349), and no rule orders them: the order in which they were placed decides (DESIGN CHOICE, log 128). -/
def victimOrder (s : State) (c q : Nat) : List (Nat × Wg) :=
  sortBy (fun a b => decide (rPrio a.2.record < rPrio b.2.record) ||
      (rPrio a.2.record == rPrio b.2.record && decide (rSeq a.2.record ≥ rSeq b.2.record)))
    ((coreWgs s c).filter (fun e => preemptible e.2 && decide (rPrio e.2.record < q)))

/-- The victims whose leaving makes room for a candidate on a core: the shortest run of the order that does. -/
def victimsOn (s : State) (i : Nat) (l : Launch) (c : Nat) : Option (List (Nat × Wg)) :=
  let vs := victimOrder s c l.prio
  ((List.range vs.length).map (fun n => vs.take (n + 1))).find? (fun gs => fitsWithout (openCore s c) (gs.map Prod.fst) i l c)

/-- The core and victims of a request: the lowest highest PRIO, the lowest core among equals (R407). -/
def requestCore (s : State) (i : Nat) (l : Launch) : Option (Nat × List (Nat × Wg)) :=
  let top (gs : List (Nat × Wg)) : Nat := gs.foldl (fun m e => max m (rPrio e.2.record)) 0
  ((partCores s l.part).filterMap (fun c => (victimsOn s i l c).map (fun gs => (c, gs)))).foldl (fun b e =>
    match b with
    | none => some e
    | some d => if top e.2 < top d.2 then some e else some d) none

/-- Fences a core for a candidate. -/
def fenceOn (s : State) (c i : Nat) : State := modCore s c (fun k => { k with fence := some i })

/-- A candidate fences a core, or requests pre-emption (R354, R407); none where no core can be made free for it. -/
def fenceFor (s : State) (i : Nat) (l : Launch) : Option State :=
  let cs := partCores s l.part
  if cs.any (fun c => (coreWgs s c).any (fun e => decide (rPrio e.2.record < l.prio))) then
    (requestCore s i l).map (fun r => r.2.foldl (fun s e => choose s e.1 true) (fenceOn s r.1 i))
  else
    (cs.foldl (fun b c =>
        match b with
        | none => some c
        | some d => if (coreWgs s c).length < (coreWgs s d).length then some c else some d) none).map (fun c => fenceOn s c i)

/-- FENCE_CORE (R354): the first candidate passed over for FENCEWAIT cycles that can, while none of the partition holds a fence. -/
def execFenceCore (p : Nat) (s : State) : Host.Outcome State Fault Refusal :=
  if (partCores s p).any (fun c => (coreSt s c).fence.isSome) then .next s
  else
    .next (((candidates s p).findSome? (fun e =>
      if e.2.passed ≥ fenceWaitLen (part s p) then fenceFor s e.1 e.2 else none)).getD s)

/-! The swap rule (R355). -/

/-- The workgroup of a list that has been stalled longest. -/
def longestStall (ws : List (Nat × Wg)) : Option (Nat × Wg) :=
  ws.foldl (fun b e =>
    match b with
    | none => some e
    | some d => if e.2.stall > d.2.stall then some e else some d) none

/-- SWAP (R355): every workgroup of the core is stalled for SWAPN cycles and a candidate would fit without one of them; the one
that has been stalled longest is saved, if a frame is free. -/
def execSwap (core : Nat) (s : State) : Host.Outcome State Fault Refusal :=
  let ws := coreWgs s core
  match longestStall ws with
  | none => .next s
  | some (g, x) =>
    let n := swapN (part s x.part)
    .next (if n ≠ 0 ∧ ws.all (fun e => decide (e.2.stall ≥ n)) ∧ x.saving = none ∧
        (candidates s x.part).any (fun c => ws.any (fun e => fitsWithout s [e.1] c.1 c.2 core)) then saveNow s g false
      else s)

/-! YIELD (R358). -/

/-- YIELD is ILLEGAL on the Lodge. -/
def yieldBad (_ : State) (i : Iss) : Option Nat := if isLodge i.place then some 0x30 else none

/-- YIELD (R358): the workgroup is to be saved if a candidate waits and a frame is free; one that issues while another is being applied
writes 1 and is absorbed. -/
def execYield (f : WordF) (s : State) : Host.Outcome State Fault Refusal :=
  runWord (.yield f) f.guard noWait yieldBad (fun s i =>
    if !i.acts then .retire s
    else
      let st (s : State) (n : Nat) : Res := .retire (modWarp s i.place (fun w => writeDst w i.l f.dst false (fun _ => n)))
      match wg? s i.w.wg with
      | none => st s 0
      | some x =>
        if x.saving.any (fun e => e.2) then st s 1
        else if !waiterFor s i.w.wg x then st s 0
        else
          match freeFrame s x.part with
          | (s, none) => st s 0
          | (s, some fr) =>
            st (stopForSave (takeFrame s x.part) i.w.wg fr true) 1) s

end Sys2Proof.Machine
end

