-- ==== Sys2Proof/Machine/Supervisor.lean ====
section
/-! DEFINITION. Supervisor calls and error injection (R376 to R382): SVC, SRET and ERRINJ. -/

namespace Sys2Proof.Machine

open Sys2Proof

/-! SVC and SRET. -/

/-- SVC and SRET are ILLEGAL on the Lodge (R379). -/
def svcBad (_ : State) (i : Iss) : Option Nat := if isLodge i.place then some 0x31 else none

/-- PRIV of an issue (R383). -/
def privTrap (i : Iss) (detail : Nat) : Trap := issueTrap i 6 detail 0 false

/-- SVCVEC.VEC of a partition (R376). -/
def svcVec (p : Part) : Nat := ctlField p 0x508 3 54 * 8

/-- Both halves of a 64-bit value in a register pair. -/
def pairWrite (w : Warp) (r : Nat) (m : Mask) (x : Dword) : Warp :=
  let w := vWrite w r m (fun _ => Val.clean (x.setWidth 32))
  vWrite w (r + 1) m (fun _ => Val.clean ((x >>> 32).setWidth 32))

/-- The lanes of L enter v61 to v63 and the pending set; the others move on (R378). -/
def svcEnter (k : Nat) (i : Iss) (w : Warp) : Warp :=
  let w := pairWrite (vWrite w 61 i.l (fun _ => Val.clean (BitVec.ofNat 32 k))) 62 i.l i.next
  advance { w with svcpend := w.svcpend ||| i.l } (i.a &&& ~~~i.l) (8 * i.len)

/-- SVC (R378). -/
def execSvc (f : WordF) (s : State) : Host.Outcome State Fault Refusal :=
  runWord (.svc f) f.guard noWait svcBad (fun s i =>
    if i.l = 0#32 then .retire s
    else if i.w.svclane.isSome then .trap (privTrap i 0x13)
    else if svcVec (part s i.w.part) = 0 then .trap (privTrap i 0x12)
    else
      match poisonTrap i (sourcesOf (.svc f)) with
      | some t => .trap t
      | none => .moved (serve (modWarp s i.place (svcEnter (uniVal s i (.int 32) f.a) i)) i.place)) s

/-- SRET (R380). -/
def execSret (f : WordF) (s : State) : Host.Outcome State Fault Refusal :=
  runWord (.sret f) f.guard noWait svcBad (fun s i =>
    if i.l = 0#32 then .retire s
    else
      match poisonTrap i (sourcesOf (.sret f)), i.w.svclane with
      | some t, _ => .trap t
      | none, none => .trap (privTrap i 0x10)
      | none, some _ =>
        let t (l : Lane) : Dword := BitVec.ofNat 64 (srcVal s i (.int 64) f.a l)
        let bad := Mask.ofFn (fun l => i.l.has l && misTarget (t l))
        if bad != 0#32 then .trap ⟨5, 0, 1, false, bad, []⟩
        else .moved (serve (modWarp s i.place (fun w => jump { w with svclane := none } i.l t)) i.place)) s

/-! ERRINJ (R382). -/

/-- CONTCTL.INJEN. -/
def injEn (p : Part) : Bool := ctlField p 0x500 28 1 == 1

/-- Runs an ERRINJ: poison on its operands, its permission, then its effect (R360, R382). -/
def runErrinj (x : Instr) (f : WordF) (eff : State → Iss → Res) (s : State) : Host.Outcome State Fault Refusal :=
  runWord x f.guard noWait noBad (fun s i =>
    if i.l = 0#32 then .retire s
    else
      match poisonTrap i (sourcesOf x) with
      | some t => .trap t
      | none => if !supMode i.place i.w && !injEn (part s i.w.part) then .trap (privTrap i 0x11) else eff s i) s

/-- Marks a register in lanes; an unmapped v register is allocated and leaves the deferred set (R23, R25). -/
def markReg (w : Warp) (m : Mask) (o : Opd) : Warp :=
  match o with
  | .src (.v n) _ _ => vWrite w n.val m (fun l => { vRead w n.val l with mark := some .anon })
  | .src (.s n) _ _ => sWrite w n.val { sRead w n.val with mark := some .anon }
  | _ => w

/-- ERRINJ.REG. -/
def execErrinjReg (f : WordF) (s : State) : Host.Outcome State Fault Refusal :=
  runErrinj (.errinjReg f) f (fun s i => .retire (modWarp s i.place (fun w => markReg w i.l f.dst))) s

/-- The addresses of ERRINJ.MEM and .CE, checked as a 1-byte store (R258), and the page they must not be on. -/
def injItems (x : Instr) (f : WordF) (s : State) (i : Iss) (k : State → List Item → Res) : Res :=
  match checkGlobal s i (sourcesOf x) (sourcesOf x) 1 .store false 1
      (i.l.lanes.map (fun l => (l, Mask.one l, srcVal s i (.int 64) f.a l))) with
  | .stop r => r
  | .go s items =>
    let bad := maskOr ((items.filter (fun y => pteHome y.leaf || pteTier y.leaf == 2)).map (fun y => Mask.one y.l))
    if bad != 0#32 then .trap ⟨6, 0x14, 1, false, bad, []⟩ else k s items

/-- Marks the sector of an address poisoned, where it reaches memory: its atom takes the poison syndrome in place of what it held
(R275). -/
def injPoison (s : State) (pa : Nat) : State :=
  if paReach s none pa then poisonSector (atomAccess (scrubAt s pa) pa true) (pa / 32) .anon else outRange s 15 pa

/-- ERRINJ.MEM. -/
def execErrinjMem (f : WordF) (s : State) : Host.Outcome State Fault Refusal :=
  runErrinj (.errinjMem f) f (fun s i =>
    injItems (.errinjMem f) f s i (fun s items => .retire (items.foldl (fun s y => injPoison s y.pa) s))) s

/-- The sector of an address is written back and leaves L2, and its atom takes a correctable error. -/
def injCorrectable (s : State) (pa : Nat) : State :=
  if !paReach s none pa then outRange s 15 pa
  else
    let s := scrubAt s pa
    let s := match s.l2.find? (fun l => l.line == pa / 128) with
      | none => s
      | some l => writeBackLine s { l with sectors := Vector.ofFn (fun j : Fin 4 =>
          if j.val = pa / 32 % 4 then l.sectors[j] else { l.sectors[j] with dirty := false }) }
    let l2 := s.l2.map (fun l =>
      if l.line = pa / 128 then
        { l with sectors := Vector.ofFn (fun j : Fin 4 =>
            if j.val = pa / 32 % 4 then { l.sectors[j] with valid := false, dirty := false } else l.sectors[j]) }
      else l)
    match paKind s pa with
    | .chan c q =>
      let a := atomAt s c q
      { s with l2 := l2, cerr := if s.cerr.contains a then s.cerr else s.cerr ++ [a] }
    | _ => { s with l2 := l2 }

/-- ERRINJ.CE. -/
def execErrinjCe (f : WordF) (s : State) : Host.Outcome State Fault Refusal :=
  runErrinj (.errinjCe f) f (fun s i =>
    injItems (.errinjCe f) f s i (fun s items => .retire (items.foldl (fun s y => injCorrectable s y.pa) s))) s

/-- ERRINJ.SPAD: the offset is checked as R209 states, and an absent chunk parks. -/
def execErrinjSpad (f : WordF) (s : State) : Host.Outcome State Fault Refusal :=
  runErrinj (.errinjSpad f) f (fun s i =>
    match poisonTrap i (sourcesOf (.errinjSpad f)) with
    | some t => .trap t
    | none =>
      let as := i.l.lanes.map (fun l => (l, srcVal s i (.int 32) f.a l))
      let out := maskOr ((as.filter (fun a => decide (spadSize s i < a.2 + 1))).map (fun a => Mask.one a.1))
      if out != 0#32 then .trap ⟨4, 0, 1, false, out, []⟩
      else
        let ks := (as.map (fun a => a.2 / 512)).dedup
        let s := rouseFor s i ks
        match missing s i.w.wg ks with
        | [] => .retire (modWg s i.w.wg (fun g => { g with
            spadPoison := as.foldl (fun m a => FMap.ins m (a.2 / 32) .anon) g.spadPoison }))
        | ms => .hold s (parkAll (ms.map (fun c => (.chunk c, i.a))))) s

end Sys2Proof.Machine
end

