-- ==== Sys2Proof/Machine/Faults.lean ====
section
/-! DEFINITION. Faults and translation upkeep (R218, R219, R223, R225 to R231, R362, R384): FAULTDONE, the full table, page-in,
TLBINV, and writes of L2RCTL and RETREG. -/

namespace Sys2Proof.Machine

open Sys2Proof

/-! What waits on a cause. -/

/-- Maps the causes of parks. -/
def mapParks (f : ParkCause → Option ParkCause) (l : List Park) : List Park :=
  l.filterMap (fun p => (f p.cause).map (fun c => { p with cause := c }))

/-- Maps the cause of every wait in the machine of what runs in a partition: warps, saved warps, starts, transfers, matrix
instructions, joins and tasks; a cause mapped to none has ended (R224, R226). -/
def mapCauses (s : State) (p : Nat) (f : ParkCause → Option ParkCause) : State :=
  let aside (a : Aside) : Aside := { a with warps := a.warps.map (fun e => (mapParks f e.1, e.2)) }
  let s := { s with
    warps := s.warps.map (fun e => if e.2.part = p then (e.1, { e.2 with parks := mapParks f e.2.parks }) else e)
    wgs := s.wgs.map (fun e => if e.2.part = p then (e.1, { e.2 with startParks := e.2.startParks.filterMap f }) else e)
    launches := s.launches.map (fun e => if e.2.part = p then (e.1, { e.2 with aside := e.2.aside.map aside }) else e)
    xfers := s.xfers.map (fun e => if e.2.part = p then (e.1, { e.2 with pause := e.2.pause.bind f }) else e)
    tracks := s.tracks.map (fun e => (e.1, { e.2 with queue := e.2.queue.map (fun m => { m with pause := m.pause.bind f }) }))
    tasks := s.tasks.map (fun t => if t.part = p then { t with pause := t.pause.bind f } else t) }
  modPart s p (fun q => { q with joins := q.joins.map (fun j => { j with pause := j.pause.bind f }) })

/-- A transfer that goes on after a pause, and was not denied, reads what it can of its source (R249). -/
def resumeXfers (s : State) (c : ParkCause) (was : FMap Xfer) : State :=
  ((was.filter (fun e => e.2.pause == some c)).map Prod.fst).foldl readMore s

/-- Ends one cause. -/
def endCause (s : State) (p : Nat) (c : ParkCause) : State :=
  resumeXfers (mapCauses s p (fun d => if d = c then none else some d)) c (s.xfers.filter (fun e => e.2.part == p))

/-- Replaces one cause by another. -/
def moveCause (s : State) (p : Nat) (c d : ParkCause) : State := mapCauses s p (fun e => if e = c then some d else some e)

/-- A warp, transfer or start still waits on a cause (R384). -/
def causeHeld (s : State) (p : Nat) (c : ParkCause) : Bool :=
  let parks (l : List Park) : Bool := l.any (fun x => x.cause == c)
  s.warps.any (fun e => parks e.2.parks) || s.wgs.any (fun e => e.2.startParks.contains c) ||
    s.launches.any (fun e => e.2.aside.any (fun a => a.warps.any (fun x => parks x.1))) ||
    s.xfers.any (fun e => e.2.pause == some c) || s.tracks.any (fun e => e.2.queue.any (fun m => m.pause == some c)) ||
    s.tasks.any (fun t => t.pause == some c) || (part s p).joins.any (fun j => j.pause == some c)

/-! FAULTDONE (R226, R362, R384). -/

/-- The outstanding record that FAULTDONE names. -/
def recordNamed (s : State) (p origin oseq : Nat) : Option FRec :=
  (part s p).recs.find? (fun r => r.origin == origin && r.oseq == oseq)

/-- Frees a record. -/
def freeRecord (s : State) (p : Nat) (r : FRec) : State :=
  modPart s p (fun q => { q with recs := q.recs.filter (fun x => !(x.origin == r.origin && x.oseq == r.oseq)) })

/-- The denials that parks on a cause turn into; `pc` gives a lane's PC. -/
def denials (c : ParkCause) (r : FRec) (pc : Lane → Dword) (l : List Park) : List Denied :=
  (l.filter (fun x => x.cause == c)).map (fun x => ⟨pc (x.mask.low?.getD 0), r.vpage, r.kind, x.mask, x.fetch⟩)

/-- The denials of the warps of a saved workgroup, whose PCs lie in its area (R226). -/
def denyAside (s : State) (c : ParkCause) (r : FRec) (l : Launch) (k : Aside) : Aside :=
  let a := areaOf s l.save l.ctx
  { k with warps := (k.warps.zip (areaWarps s a)).map (fun e =>
      (e.1.1, e.1.2.1 ++ denials c r (fun x => BitVec.ofNat 64 (wrec s a e.2 (8 * x.val) 8)) e.1.1, e.1.2.2)) }

/-- Every access that joined a record is denied (R226, R296, R338, R352, R448, R478). -/
def denyAll (s : State) (p : Nat) (c : ParkCause) (r : FRec) : State :=
  let s := { s with
    warps := s.warps.map (fun e => (e.1, { e.2 with denied := e.2.denied ++ denials c r (fun l => e.2.pc[l]) e.2.parks }))
    wgs := s.wgs.map (fun e =>
      if e.2.startParks.contains c then (e.1, { e.2 with startDenied := e.2.startDenied ++ [(r.vpage, r.kind)] }) else e)
    launches := s.launches.map (fun e => (e.1, { e.2 with aside := e.2.aside.map (denyAside s c r e.2) }))
    xfers := s.xfers.map (fun e =>
      if e.2.pause = some c then (e.1, { e.2 with denied := e.2.denied ++ [(r.vpage, r.kind)] }) else e)
    tracks := s.tracks.map (fun e => (e.1, { e.2 with queue := e.2.queue.map (fun m =>
      if m.pause = some c then { m with denied := m.denied ++ [(r.vpage, 6 * 65536 + r.kind)] } else m) }))
    tasks := s.tasks.map (fun t => if t.pause = some c then { t with denied := true } else t) }
  modPart s p (fun q => { q with joins := q.joins.map (fun j =>
    if j.pause = some c then { j with denied := some r.kind } else j) })

/-- A park is the debug stop of a record. -/
def isDebug (origin oseq : Nat) (p : Park) : Bool :=
  match p.cause with
  | .debug o n _ _ => o == origin && n == oseq && n != 0
  | _ => false

/-- The resident warp that a debug record stopped. -/
def debugWarp (s : State) (p origin oseq : Nat) : Option (Nat × Warp × Park) :=
  s.warps.findSome? (fun e =>
    if e.2.part = p then (e.2.parks.find? (isDebug origin oseq)).map (fun k => (e.1, e.2, k)) else none)

/-- The saved warp that a debug record stopped: its launch and the place of its record. -/
def debugSaved (s : State) (p origin oseq : Nat) : Option (Nat × Launch × Nat × Park) :=
  s.launches.findSome? (fun e =>
    if e.2.part = p then
      e.2.aside.bind (fun a => a.warps.zipIdx.findSome? (fun x =>
        (x.1.1.find? (isDebug origin oseq)).map (fun k => (e.1, e.2, x.2, k))))
    else none)

/-- Words of the BKPT of a debug stop, and its TRAPCAUSE. -/
def debugInfo (p : Park) : Nat × Nat :=
  match p.cause with
  | .debug _ _ cause len => (cause, len)
  | _ => (0, 1)

/-- Removes parks of a warp. -/
def unpark (w : Warp) (p : Park) : Warp := { w with parks := w.parks.filter (fun q => q != p) }

/-- The lanes of a saved warp move past their BKPT. -/
def debugAdvance (s : State) (l : Launch) (k : Nat) (p : Park) : State :=
  let a := areaOf s l.save l.ctx
  let o := (areaWarps s a).getD k headerBytes
  p.mask.lanes.foldl (fun s x =>
    physWrite s (some l.part) a.key (a.frame + o + 8 * x.val) (le 8 ((wrec s a o (8 * x.val) 8 + 8 * (debugInfo p).2) % 2 ^ 64))) s

/-- Changes the parks that stay beside a save area. -/
def modAside (s : State) (i k : Nat) (f : List Park → List Park) : State :=
  { s with launches := FMap.modify s.launches i (fun l => { l with aside := l.aside.map (fun a =>
      { a with warps := a.warps.zipIdx.map (fun e => if e.2 = k then (f e.1.1, e.1.2) else e.1) }) }) }

/-- The answer to a debug record (R362). -/
def debugDone (s : State) (p origin oseq : Nat) (retry : Bool) : State :=
  match debugWarp s p origin oseq, debugSaved s p origin oseq with
  | some (pl, w, k), _ =>
    let s := modWarp s pl (fun w => unpark w k)
    if retry then modWarp s pl (fun w => advance w k.mask (8 * (debugInfo k).2))
    else contWalk s (whereOf pl w) (debugInfo k).1 (w.pc[k.mask.low?.getD 0]).toNat w.svclane.isSome
  | none, some (i, l, n, k) =>
    if retry then modAside (debugAdvance s l n k) i n (fun ps => ps.filter (fun q => q != k))
    else modAside s i n (fun ps => ps.map (fun q =>
      if q = k then { q with cause := .debug origin 0 (debugInfo k).1 (debugInfo k).2 } else q))
  | none, none => s

/-- A FAULTDONE of RETRY or DENY (R226). -/
def faultDone (s : State) (p origin oseq : Nat) (retry : Bool) : State :=
  match recordNamed s p origin oseq with
  | none => debugDone s p origin oseq retry
  | some r =>
    let c : ParkCause := .record origin oseq
    let s := freeRecord s p r
    endCause (if retry then s else denyAll s p c r) p c

/-- FAULTDONE_RETRY (R226). -/
def execFaultdoneRetry (p origin : Nat) (oseq : Dword) (s : State) : Host.Outcome State Fault Refusal :=
  .next (faultDone s p origin oseq.toNat true)

/-- FAULTDONE_DENY (R226). -/
def execFaultdoneDeny (p origin : Nat) (oseq : Dword) (s : State) : Host.Outcome State Fault Refusal :=
  .next (faultDone s p origin oseq.toNat false)

/-- FAULT_TABLE_ADMIT (R225, R384): the first failing access that still waits takes a free entry, or joins the record that its
page has got meanwhile. -/
def execFaultTableAdmit (p : Nat) (s : State) : Host.Outcome State Fault Refusal :=
  let q := part s p
  match q.waiting with
  | [] => .next s
  | r :: t =>
    if q.recs.length ≥ 256 then .next s
    else
      let c : ParkCause := .table r.ctx r.vpage
      let s' := modPart s p (fun q => { q with waiting := t })
      if !causeHeld s p c then .next s'
      else
        let (s', d) := match sameRecord s' r with
          | some x => (s', ParkCause.record x.origin x.oseq)
          | none => makeRecord s' r
        .next (moveCause s' p c d)

/-! Page-in (R227 to R231). -/

/-- The page-in ring for a leaf, by its bytes. -/
def poolOf (n : Nat) : Nat := if n = 4096 then 0 else if n = 65536 then 1 else 2

/-- The gondola that serves a partition's tier misses: its lowest. -/
def gondola (p : Part) : Option Nat := (bitList p.desc.gondolas).head?

/-- A frame of n bytes lies in the partition's pseudo-channels, aligned (R228). -/
def hbmFrame (s : State) (p a n : Nat) : Bool :=
  a % n == 0 && decide (a / 2 ^ 48 = 0) && slotBacked s p a && slotBacked s p (a + n - 1)

/-- Copies one sector of a page to its new frame: poisoned data stay poisoned (R231). -/
def copySector (p : Nat) (old new : Option Nat) (from' to' : Nat) (s : State) (i : Nat) : State :=
  let (s, b, m) := physRead s none old (from' + 32 * i) 32
  physStores s (some p) new [⟨to' + 32 * i, b, m⟩]

/-- The leaf after a page-in (R227). -/
def pagedLeaf (e frame : Nat) : Nat := setBits (setBits (setBits (setBits e 61 2 0) 60 1 0) 58 1 0) 12 36 (frame / 4096)

/-- Rewrites the entries of a leaf, one or the sixteen of a CONTIG group. -/
def rewriteLeaf (s : State) (p addr leaf frame : Nat) : State :=
  if pteContig leaf then
    (List.range 16).foldl (fun s i =>
      let a := addr / 128 * 128 + 8 * i
      physWrite64 s (some p) a (pagedLeaf (peek64 s a) (frame + 4096 * i))) s
  else physWrite64 s (some p) addr (pagedLeaf (peek64 s addr) frame)

/-- A tier miss becomes an ordinary record of KIND NOPOOL, or joins the one that is outstanding for its page (R225, R227). -/
def noPool (s : State) (p : Nat) (m : TierMiss) (leaf level : Nat) : State :=
  let origin := if m.core ≥ 72 then originChairlift else originWalker m.core
  let r : FRec := ⟨origin, 0, m.ctx, p, m.core, m.track, leaf, m.vpage, 7, m.acc, m.sup, level⟩
  let (s, c) := fileRecord s r
  moveCause s p (.tier m.ctx m.vpage) c

/-- The key of a tier miss: the engine accepted the page under it, and it lives until the page has moved (R427, R431). -/
def missKey (s : State) (m : TierMiss) : Option Nat := m.slot.map (slotKey s)

/-- A gondola reads a page at its home's newest value: what L2 holds dirty of a host page goes home first, and scoped copies of it are
given up; then each line is looked up (R242, R255, R286, R442). -/
def pageLookups (s : State) (p ctx va leaf from' n : Nat) : State :=
  let s := if pteHome leaf then (List.range (n / 32)).foldl (fun s i => homeSector s (from' + 32 * i)) s else s
  engineLookups s p ctx (some va) leaf from' n false

/-- Moves a page to a frame (R227, R231): the leaf `e` stands at `addr`, on `level`; the transfer is charged to the partition
(R286). -/
def pageTo (s : State) (p g : Nat) (m : TierMiss) (e level addr frame : Nat) : State :=
  let n := leafBytes level e
  let from' := pteBase e / n * n
  let s := chargeAtoms (pageLookups s p m.ctx (4096 * m.vpage / n * n) e from' n) frame p (n / 32)
  let s := (List.range (n / 32)).foldl (copySector p (if pteHome e then none else missKey s m) (missKey s m) from' frame) s
  let s := l1DropRange s frame (frame + n)
  let s := dropCached (rewriteLeaf s p addr e frame) (tlbCovers m.ctx m.vpage) (walkCovers m.ctx m.vpage)
  let (s, k) := nextOseq s (0x200 + g)
  endCause (pushFault s p ⟨0x200 + g, k, 0, 0, 0xFF, 0, e, 0, 0xF, 0, false, 0⟩) p (.tier m.ctx m.vpage)

/-- The lines that a host must give up before a page moves: of its old frame for the reads, of the new one for the writes (R441). -/
def pageSnoop (s : State) (e level frame : Nat) : Option (Nat × Bool) :=
  let n := leafBytes level e
  match snoopSpan s e false (pteBase e / n * n) n with
  | some ln => some (ln, false)
  | none => (snoopSpan s (pagedLeaf e frame) true frame n).map (fun ln => (ln, true))

/-- A tier miss on a PI leaf, served: a frame is taken and the page moves to it, or there is none and the miss becomes a record
(R227, R228). Where a host must first give up a line, it is asked and the miss stays at the head of `q` (R441). -/
def pageServe (s : State) (p : Nat) (m : TierMiss) (e level addr : Nat) (q : State → State) : State :=
  let off := 0x140 + 16 * poolOf (leafBytes level e)
  let r := ringAt (part s p) off 3
  match gondola (part s p) with
  | none => noPool (q s) p m e level
  | some g =>
    if r.count = 0 then noPool (q s) p m e level
    else
      let slot := r.base + 8 * (r.head % 2 ^ r.size)
      let (s, a, _) := physRead64 (blockLookup s p slot false) (some p) slot
      let frame := a % 2 ^ 48
      if hbmFrame s p frame (leafBytes level e) then
        match pageSnoop s e level frame with
        | some (ln, inv) => sendSnoop s ln inv
        | none => pageTo (modPart (q s) p (fun x => ringPop x off)) p g m e level addr frame
      else noPool (modPart (q s) p (fun x => ringPop x off)) p m e level

/-- PAGE_IN (R227): the oldest tier miss is served. The gondola walks to the leaf as it stands; an access to a page that is no tier
miss any more translates again. -/
def execPageIn (p : Nat) (s : State) : Host.Outcome State Fault Refusal :=
  match (part s p).misses with
  | [] => .next s
  | m :: t =>
    let drop (s : State) : State := modPart s p (fun q => { q with misses := t })
    let (s, w) := freshLeaf s p m.ctx (4096 * m.vpage)
    .next (match w with
      | .leaf e level addr => if ptePI e then pageServe s p m e level addr drop else endCause (drop s) p (.tier m.ctx m.vpage)
      | .fail _ _ _ => endCause (drop s) p (.tier m.ctx m.vpage))

/-! TLBINV (R223). -/

/-- The register's word for an invalidation: SCOPE, CTX and VPAGE; BUSY is read from what is in progress. -/
def tlbinvBits (x : Nat × Nat × Nat) : Nat := x.1 * 2 ^ 62 + x.2.1 % 4096 * 2 ^ 50 + x.2.2 % 2 ^ 45

/-- A write of TLBINV begins an invalidation; while one is in progress, the write waits, its fields with it (R223). -/
def tlbinvWrite (s : State) (p scope ctx vpage : Nat) : State :=
  modPart s p (fun q =>
    let x := (scope, ctx, vpage)
    { (if q.tlbinv.isEmpty then ctlSet q 0x110 (tlbinvBits x) else q) with tlbinv := q.tlbinv ++ [x] })

/-- TLBINV_PAGE (R223). -/
def execTlbinvPage (p ctx vpage : Nat) (s : State) : Host.Outcome State Fault Refusal :=
  .next (tlbinvWrite s p 0 (ctx % 4096) (vpage % 2 ^ 45))

/-- TLBINV_CONTEXT (R223). -/
def execTlbinvContext (p ctx : Nat) (s : State) : Host.Outcome State Fault Refusal := .next (tlbinvWrite s p 1 (ctx % 4096) 0)

/-- TLBINV_PARTITION (R223). -/
def execTlbinvPartition (p : Nat) (s : State) : Host.Outcome State Fault Refusal := .next (tlbinvWrite s p 2 0 0)

/-- A cached leaf that an invalidation removes: of a context of the partition, in its scope. -/
def tlbHit (s : State) (p scope ctx vpage : Nat) (t : TlbEntry) : Bool :=
  decide (partOfCtx s t.ctx = some p) && (scope == 2 || (scope == 1 && t.ctx == ctx) || (scope == 0 && tlbCovers ctx vpage t))

/-- A walker-cache entry that an invalidation removes. -/
def walkHit (s : State) (p scope ctx vpage : Nat) (t : WalkEntry) : Bool :=
  decide (partOfCtx s t.ctx = some p) && (scope == 2 || (scope == 1 && t.ctx == ctx) || (scope == 0 && walkCovers ctx vpage t))

/-- TLBINV_DONE (R223): the invalidation in progress completes, and the write that waited longest takes effect. -/
def execTlbinvDone (p : Nat) (s : State) : Host.Outcome State Fault Refusal :=
  match (part s p).tlbinv with
  | [] => .next s
  | (scope, ctx, vpage) :: t =>
    .next (modPart (dropCached s (tlbHit s p scope ctx vpage) (walkHit s p scope ctx vpage)) p (fun q =>
      { (match t with
        | [] => q
        | x :: _ => ctlSet q 0x110 (tlbinvBits x)) with tlbinv := t }))

/-! L2RCTL and RETREG (R217 to R219). -/

/-- A write of L2RCTL (R218, R219). -/
def writeL2rctl (p : Nat) (s : State) (v : Nat) : State :=
  let old := rways (part s p)
  let s := modPart s p (fun q => ctlSet q 0x100 (min 8 (v % 16)))
  dropWays s p old (rways (part s p))

/-- L2RCTL_WRITE (R218, R219). -/
def execL2rctlWrite (p : Nat) (v : Dword) (s : State) : Host.Outcome State Fault Refusal := .next (writeL2rctl p s v.toNat)

/-- RETREG_WRITE (R218): a register that stops being active, or changes while it is active, first gives up its lines. -/
def execRetregWrite (p i : Nat) (v : BitVec 128) (s : State) : Host.Outcome State Fault Refusal :=
  if i ≥ 8 then .next s
  else
    let new : RetReg := ⟨v.getLsbD 127, bits v.toNat 112 12, bits v.toNat 12 45, bits v.toNat 64 45⟩
    let old := retReg (part s p) i
    let s := if old.en && new != old then dropIndex s p i else s
    .next (modPart s p (fun q => retRegSet q i new))

end Sys2Proof.Machine
end

