-- ==== Sys2Proof/Machine/Messages.lean ====
section
/-! DEFINITION. Messages with peers and hosts (R391, R443 to R449): TSEND, received UINT and TASK messages, landing, sessions,
and a host's interrupt writes. -/

namespace Sys2Proof.Machine

open Sys2Proof

/-! TSEND (R448). -/

/-- The control word names no message: a reserved bit, or too many argument bytes. -/
def badTsendCtl (c : Nat) : Bool := bits c 6 10 != 0 || bits c 25 7 != 0 || decide (bits c 16 9 > 256)

/-- Reads n bytes that begin at the first of some translated pages. -/
def readPages (s : State) (core p ctx : Nat) : List Item → Nat → State × List Byte × List (Option Mark)
  | [], _ => (s, [], [])
  | y :: t, n =>
    let k := min n (4096 - y.va % 4096)
    let s := engineLookups s p ctx (some y.va) y.leaf y.pa k false
    let (s, b, m) := physReadN s none (ctxKey s ctx (pteHome y.leaf)) (k + 1) y.pa k
    let m := if ptePom y.leaf then List.replicate k (some .anon) else m
    let s := if core ≥ 72 then s else (List.range ((y.pa % 32 + k + 31) / 32)).foldl (fun s j => l1Sync s core (y.pa / 32 * 32 + 32 * j)) s
    let (s, bs, ms) := readPages s core p ctx t (n - k)
    (s, b ++ bs, m ++ ms)

/-- A record that TSEND does not send. -/
def badTsendRecord (r : Rec) : Bool := malformedShape r || rSave r != 0 || rHwake r

/-- TSEND once its addresses are translated: the record's page, then those of the argument bytes. -/
def tsendEffect (f : WordF) (c : Nat) (s : State) (i : Iss) (items : List (Nat × Item)) : Res :=
  let st (s : State) (n : Nat) : Res := .retire (modWarp s i.place (fun w => writeDst w i.l f.dst false (fun _ => n)))
  let q := part s i.w.part
  let e := bits c 0 6
  if badTsendCtl c then st s 3
  else if !sessV q e || !sessTx q e then st s 1
  else if (port s (sessPort q e)).lost then st s 4
  else
    let (s, rb, rm) := readPages s (placeCore i.place) i.w.part i.w.ctx ((items.filter (fun y => y.1 == 1)).map Prod.snd) 128
    let (s, ab, am) := readPages s (placeCore i.place) i.w.part i.w.ctx ((items.filter (fun y => y.1 == 2)).map Prod.snd) (16 * bits c 16 9)
    let marks := ((rm ++ am).filterMap id).dedup
    if !marks.isEmpty then .trap ⟨8, 0, 6, false, i.l, marks⟩
    else
      let r : Rec := BitVec.ofNat 1024 (natOfBytes rb)
      if badTsendRecord r then st s 2
      else st (fabricSend (sysRelease s i.w.part) i.w.part e true i.w.ctx
        (fun m => { m with record := rset (rset r 128 64 0) 192 64 0, args := ab })) 0

/-- TSEND (R447, R448). -/
def execTsend (f : WordF) (s : State) : Host.Outcome State Fault Refusal :=
  runWord (.tsend f) f.guard noWait noBad (fun s i =>
    if !i.acts then .retire s
    else
      match poisonTrap i (sourcesOf (.tsend f)) with
      | some t => .trap t
      | none =>
        let c := uniVal s i (.int 32) f.c
        let n := 16 * bits c 16 9
        let rec' : Span := ⟨uniVal s i (.int 64) f.a, 1, 128, 128⟩
        let arg : Span := ⟨uniVal s i (.int 64) f.b, 2, 16, n⟩
        match uniChecks s i .load (rec' :: if n = 0 then [] else [arg]) with
        | (_, .inl r) => r
        | (s, .inr items) => tsendEffect f c s i items) s

/-! Landing (R448). -/

/-- Offset of word k of a session entry. -/
def sessOff (i k : Nat) : Nat := 0x2000 + 64 * i + 8 * k

/-- LBASE as a virtual address. -/
def sessLbase (p : Part) (i : Nat) : Nat := bits (sessWord p i 4) 12 45 * 4096

/-- The lowest free landing slot of a session. -/
def freeLandingSlot (p : Part) (i : Nat) : Option Nat :=
  (List.range (sessSlots p i + 1)).find? (fun k => !(sessWord p i 5).testBit k)

/-- Marks a landing slot used or free. -/
def setLanding (s : State) (p i k : Nat) (used : Bool) : State :=
  modPart s p (fun q => ctlSetField q (sessOff i 5) k 1 (if used then 1 else 0))

/-- The first message of a session that waits. -/
def headTask (s : State) (p i : Nat) : Option Task := s.tasks.find? (fun t => t.part == p && t.sess == i)

/-- Replaces the first message of a session in a list. -/
def onFirst (p i : Nat) (f : Task → List Task) : List Task → List Task
  | [] => []
  | t :: r => if t.part = p ∧ t.sess = i then f t ++ r else t :: onFirst p i f r

/-- Changes the first message of a session. -/
def modTask (s : State) (p i : Nat) (f : Task → Task) : State := { s with tasks := onFirst p i (fun t => [f t]) s.tasks }

/-- Removes the first message of a session. -/
def popTask (s : State) (p i : Nat) : State := { s with tasks := onFirst p i (fun _ => []) s.tasks }

/-- Drops a TASK: a Cairn event BADREC, and its landing slot is free. -/
def dropTask (s : State) (p i : Nat) (t : Task) : State :=
  let s := match t.slot with
    | some k => setLanding s p i k false
    | none => s
  popTask (badRec s p 0) p i

/-- The record of a TASK names a context that the session does not admit, or its arguments have nowhere to land. -/
def taskRefused (s : State) (p i : Nat) (t : Task) : Bool :=
  let q := part s p
  !ctxValid s p (rCtx t.record) || (!sessAny q i && rCtx t.record != sessCtx q i) ||
    (!t.args.isEmpty && sessLbase q i == 0)

/-- Links the record of a TASK (R347, R448). -/
def linkTask (s : State) (p i : Nat) (t : Task) (frame : Option (Nat × Nat)) : State :=
  let s := popTask s p i
  let (s, n) := nextSeqOf s p
  let r := match frame with
    | some (a, _) => rset t.record 64 64 a
    | none => t.record
  linkRecord s p 0 r n (rPrio r) (frame.map (fun x => (i, x.2)))

/-- The 64-byte lines of a range that a host must give up before it is written (R441). -/
def snoopLines (s : State) (leaf pa n : Nat) : List Nat :=
  (snoopSpan s leaf true pa n).toList

/-- Writes the argument bytes to a landing slot and links the record; a failed translation leaves the message waiting. -/
def writeArgs (s : State) (p i : Nat) (t : Task) (k : Nat) : State :=
  let va := sessLbase (part s p) i + 4096 * k
  let ctx := rCtx t.record
  let (s, x) := translate s p ctx 255 false .engineWrite va
  match x with
  | .ok pa e =>
    if pteTier e = 3 then dropTask s p i t
    else
      (match snoopLines s e pa t.args.length with
        | ln :: _ => modTask (sendSnoop s ln true) p i (fun t => { t with pause := some (.snoop ln) })
        | [] =>
          let s := engineLookups s p ctx (some va) e pa t.args.length true
          linkTask (physWrite s none (ctxKey s ctx (pteHome e)) pa t.args) p i t (some (va, k)))
  | .lost _ _ => dropTask s p i t
  | .fail _ _ _ | .miss =>
    match parkCause s (joinFaulter p ctx) .engineWrite (va / 4096) x with
    | (s, some c) => modTask s p i (fun t => { t with pause := some c })
    | (s, none) => s

/-- Acts on the first message of a session; a UINT reaches contexts of the session's partition alone (R446). -/
def landTask (s : State) (p i : Nat) (t : Task) : State :=
  match t.uint with
  | some m =>
    if partOfCtx s m.target = some p then uiAccept (popTask s p i) m.target ⟨0, m.srcDev, m.srcPart, m.srcCtx, .session p i, m.oseq⟩ m.vector m.payload.toNat
    else popTask s p i
  | none =>
    if t.pause.isSome then s
    else if t.denied || (t.slot.isNone && taskRefused s p i t) then dropTask s p i t
    else if t.args.isEmpty then linkTask s p i t none
    else
      match t.slot with
      | some k => writeArgs s p i t k
      | none =>
        match freeLandingSlot (part s p) i with
        | none => s
        | some k => writeArgs (modTask (setLanding s p i k true) p i (fun t => { t with slot := some k })) p i
            { t with slot := some k } k

/-- TASK_LANDING (R448): the first message of a session that waits is looked at again. -/
def execTaskLanding (p sess : Nat) (s : State) : Host.Outcome State Fault Refusal :=
  match headTask s p sess with
  | none => .next s
  | some t => .next (landTask s p sess t)

/-! Received messages (R446). -/

/-- The session that a message belongs to. -/
def sessionOf (s : State) (k : Nat) (m : Message) : Option Nat :=
  let q := part s m.dstPart
  (List.range 64).find? (fun i => sessV q i && sessRx q i && sessPort q i == k && sessPeerDev q i == m.srcDev &&
    sessPeer q i == m.srcSess)

/-- The message's identity as a BADMAC event holds it. -/
def sessFields (m : Message) : Nat :=
  m.srcCtx % 4096 + m.srcPart % 16 * 2 ^ 12 + m.srcDev % 4096 * 2 ^ 16 + m.srcSess % 64 * 2 ^ 28

/-- The tag of a message verifies under its session's key (R446). -/
def tagOk (s : State) (i : Nat) (task : Bool) (m : Message) : Bool :=
  m.tag == messageTag (slotKey s (sessKey (part s m.dstPart) i)) task m

/-- Receives a message on one of the six ports: it is dropped with BADMAC, or RXSEQ rises and the session acts on it, behind those of the
session that wait. -/
def receive (s : State) (k : Nat) (task : Bool) (m : Message) (t : Nat → Task) : State :=
  if k ≥ 6 then s
  else match sessionOf s k m with
  | none => cairnWrite s (0x700 + k) 0x0023 15 k (sessFields m)
  | some i =>
    let p := m.dstPart
    if !tagOk s i task m || m.oseq != (sessWord (part s p) i 6 + 1) % 2 ^ 64 then cairnWrite s (0x700 + k) 0x0023 p k (sessFields m)
    else
      let s := modPart s p (fun q => ctlSet q (sessOff i 6) m.oseq)
      let waits := (headTask s p i).isSome
      let s := { s with tasks := s.tasks ++ [t i] }
      if waits then s else landTask s p i (t i)

/-- FABRIC_UINT (R446). -/
def execFabricUint (k : Nat) (m : Message) (s : State) : Host.Outcome State Fault Refusal :=
  .next (receive s k false m (fun i => ⟨m.dstPart, i, some m, 0, [], none, none, false⟩))

/-- FABRIC_TASK (R446, R448). -/
def execFabricTask (k : Nat) (m : Message) (s : State) : Host.Outcome State Fault Refusal :=
  .next (receive s k true m (fun i => ⟨m.dstPart, i, none, m.record, m.args, none, none, false⟩))

/-! Host interrupt writes (R391). -/

/-- A host's write to an interrupt page that sends nothing: another size or offset, or a reserved bit. -/
def badInterrupt (off size : Nat) (data : BitVec 128) : Bool :=
  off != 0 || size != 16 || bits data.toNat 70 58 != 0

/-- What a host reads from an interrupt page (R391). -/
def interruptPage (n : Nat) : List Byte := List.replicate n 0#8

/-- HOST_INTERRUPT_WRITE (R391), to the function of a partition that owns a HOST port (R438), from a requester with its own origin and
number (R2, R479). -/
def execHostInterruptWrite (q : Requester) (ctx off size : Nat) (data : BitVec 128) (s : State) : Host.Outcome State Fault Refusal :=
  let p := q.part
  if !hostFunction s p ∨ partOfCtx s ctx ≠ some p then .next s
  else if badInterrupt off size data then
    .next (if ctxValid s p ctx then uibSet s p ctx 0x28 (satAdd 0 32 1 (uibWord s p ctx 0x28)) else s)
  else .next (uiAccept s ctx ⟨2, 0, p, 0, .host q.origin, q.oseq.toNat⟩ (bits data.toNat 64 6) (bits data.toNat 0 64))

/-! Sessions (R443, R444). -/

/-- Words 0 to 3 and 5 to 7 of an entry as a new session leaves them; word 1's RW fields and LBASE stay. -/
def sessionEntry (old : Nat) (tx rx : Bool) (keyslot peerPart peerDev peerSess k : Nat) : Nat :=
  2 ^ 63 + (if tx then 2 ^ 62 else 0) + (if rx then 2 ^ 61 else 0) + bits old 60 1 * 2 ^ 60 + bits old 48 12 * 2 ^ 48 +
    bits old 42 6 * 2 ^ 42 + keyslot % 64 * 2 ^ 36 + peerPart % 16 * 2 ^ 32 + peerDev % 4096 * 2 ^ 20 +
    peerSess % 64 * 2 ^ 14 + k % 8 * 2 ^ 11

/-- The LMS leaves of the device identity key (R432). -/
def lmsLeaves : Nat := 2 ^ 20

/-- A key slot. -/
def keySlot (s : State) (n : Nat) : KeySlot := FMap.getD s.patrol.slots n KeySlot.emptySlot

/-- Changes a key slot. -/
def modSlot (s : State) (n : Nat) (f : KeySlot → KeySlot) : State :=
  { s with patrol := { s.patrol with slots := FMap.ins s.patrol.slots n (f (keySlot s n)) } }

/-- Spends an LMS leaf. -/
def spendLeaf (s : State) : State := { s with patrol := { s.patrol with leaves := s.patrol.leaves + 1 } }

/-- SESSION_ESTABLISH (R443): a leaf is spent on this side's report; where the peer's verifies, the session key fills an owned empty
slot, and the entry is valid. -/
def execSessionEstablish (p sess : Nat) (tx rx : Bool) (keyslot peerPart peerDev peerSess k : Nat) (s : State) :
    Host.Outcome State Fault Refusal :=
  let q := part s p
  if sess ≥ 64 ∨ keyslot ≥ 64 ∨ devNum s = 0 ∨ !q.desc.valid ∨ !q.desc.keys.getLsbD keyslot ∨
      (keySlot s keyslot).state ≠ .empty ∨ s.patrol.leaves ≥ lmsLeaves then .next s
  else if !Config.peerVerifies s.patrol.leaves then .next (spendLeaf s)
  else
    let s := modSlot (spendLeaf s) keyslot (fun x => { x with state := .loaded, key := Config.sessionKey s.patrol.leaves })
    let entry := sessionEntry (sessWord q sess 1) tx rx keyslot peerPart peerDev peerSess k
    .next (modPart s p (fun q =>
      ctlSet (ctlSet (ctlSet (ctlSet q (sessOff sess 1) entry) (sessOff sess 5) 0) (sessOff sess 6) 0) (sessOff sess 7) 0))

end Sys2Proof.Machine
end

