-- ==== Sys2Proof/Machine/Patrol.lean ====
section
/-! DEFINITION. Patrol (R419 to R421, R426, R430 to R433): its commands in their one order, PARTSET, keys, contexts, debug unlock,
attestation, and scrub on demand. -/

namespace Sys2Proof.Machine

open Sys2Proof

/-! Submission and completion (R430). A submitter below 16 is a partition's PCMD, 16 + p is the management interface for p. -/

/-- What a command gives: a STATUS, or that it goes on; and the block that it writes. -/
structure Done where
  state : State
  status : Option Nat
  block : Option (List Byte)

/-- A command that is done at once. -/
def doneWith (s : State) (n : Nat) : Done := ⟨s, some n, none⟩

/-- A partition's argument block lies in its memory of tier 0 or 1. -/
def argOk (s : State) (p a : Nat) : Bool := a % 4096 == 0 && decide (a / 2 ^ 48 < 2) && slotBacked s p a && slotBacked s p (a + 4095)

/-- A reply in the session: a STATUS byte and what follows it, under the request's number and with a tag (R460, R461; log 89). -/
def reply (s : State) (status : Nat) (data : List Byte) : State :=
  let n := s.patrol.sessSeq
  let b := BitVec.ofNat 8 status :: data
  { s with outbox := s.outbox ++ [.mgmt (some (n, Config.hmac s.patrol.sessKey (bytesOfNat 8 n ++ b))) status data] }

/-- A command is done: what it writes goes to the argument block, PRESP holds its result, and GO reads 0; or the management interface
replies (R461). -/
def finishCmd (s : State) (who pseq status : Nat) (block : Option (List Byte)) : State :=
  if who < 16 then
    let s := match block with
      | some b =>
        let a := ctlWord (part s who) 0x708
        if argOk s who a then physWrite s (some who) none a b else s
      | none => s
    modPart s who (fun q => ctlSetField (ctlSet (ctlSet q 0x740 (2 ^ 63 + status)) 0x748 pseq) 0x700 63 1 0)
  else reply s 0 (BitVec.ofNat 8 status :: bytesOfNat 8 pseq ++ block.getD [])

/-- Gives a command the next PSEQ and executes it. -/
def runCmd (s : State) (who : Nat) (f : State → Nat → Done) : State :=
  let n := s.patrol.pseq + 1
  let s := { s with patrol := { s.patrol with pseq := n } }
  let s := if who < 16 then
      modPart s who (fun q => ctlSetField (ctlSet q 0x740 0) 0x700 63 1 1) else s
  let d := f s n
  match d.status with
  | some st => finishCmd d.state who n st d.block
  | none => d.state

/-! PARTSET (R419, R420, R426). -/

/-- Two bitmaps share no resource. -/
def apart {n : Nat} (a b : BitVec n) : Bool := a &&& b == 0#n

/-- Two descriptors own nothing in common, and their context ranges do not overlap. -/
def Desc.disjoint (a b : Desc) : Bool :=
  apart a.cores b.cores && apart a.banks b.banks && apart a.pch b.pch && apart a.lpch b.lpch && apart a.ports b.ports &&
    apart a.gondolas b.gondolas && apart a.lodge b.lodge && apart a.keys b.keys &&
    (decide (a.ctxBase + a.ctxCnt ≤ b.ctxBase) || decide (b.ctxBase + b.ctxCnt ≤ a.ctxBase) || a.ctxCnt == 0 || b.ctxCnt == 0)

/-- Every resource of a descriptor is enabled (R420, R457). -/
def descEnabled (s : State) (d : Desc) : Bool :=
  (bitList d.pch).all (pchEnabled s) && (bitList d.lpch).all (lpEnabled s) &&
    (bitList d.cores).all (fun i => s.fuse.cores.getLsbD i) && (bitList d.banks).all (fun i => s.fuse.banks.getLsbD i) &&
    (bitList d.ports).all (fun i => s.fuse.links.getLsbD (32 + i)) &&
    (bitList d.gondolas).all (fun i => s.fuse.links.getLsbD (38 + i))

/-- A descriptor is legal for partition p (R420). -/
def descLegal (s : State) (p : Nat) (d : Desc) : Bool :=
  s.parts.all (fun e => e.1 == p || !e.2.desc.valid || Desc.disjoint d e.2.desc) && descEnabled s d &&
    ((d.pch == 0 && d.lpch == 0 && d.ports == 0) || d.banks != 0) && decide (d.ctxBase + d.ctxCnt ≤ 4096)

/-- The memory channels of a descriptor: pseudo-channels, then LPDDR-6 channels from 512. -/
def descChannels (d : Desc) : List Nat := bitList d.pch ++ (bitList d.lpch).map (· + 512)

/-- Granules of a channel that are scrub-pending. -/
def pendingOf (s : State) (c : Nat) : Nat :=
  match FMap.get? s.scrub c with
  | none => 0
  | some x => granules c - x.next - x.ahead.length

/-- The range of physical addresses of a channel. -/
def chanRange (c : Nat) : Nat × Nat := (chanPa c 0, chanPa c (if c < 512 then sliceBytes else lpUsable))

/-- A moved channel becomes scrub-pending in whole: it reads zero from now on, and its L2 lines are gone without writeback
(R426). -/
def scrubChannel (p : Nat) (s : State) (c : Nat) : State :=
  let r := chanRange c
  let s := zeroRange s r.1 r.2
  { s with
    l2 := s.l2.filter (fun l => !(decide (r.1 ≤ l.line * 128) && decide (l.line * 128 < r.2)))
    scrub := FMap.ins s.scrub c ⟨0, [], some p⟩ }

/-- L2 lines that lie in another bank or set under the present owners are written back and leave (R214). -/
def dropDisplaced (s : State) : State :=
  (s.l2.filter (fun l => placeOf s (l.line * 128) != some (l.bank, l.set))).foldl evictLine s

/-- L2HIT and L2MISS are 0 where a partition is created (R21). -/
def newCounts (q : Part) : Part := { q with l2hit := 0, l2miss := 0 }

/-- PARTSET (R419, R420, R426): the descriptor with PROT and DBG 0 and its count of pending granules. -/
def partset (p : Nat) (d : Desc) (scrub : Bool) (s : State) (_ : Nat) : Done :=
  let old := (part s p).desc
  if p ≥ 16 then doneWith s 1
  else if !descLegal s p d then doneWith s 7
  else if s.wgs.any (fun e => e.2.part == p && !d.cores.getLsbD e.2.core) then doneWith s 2
  else
    let moved := (descChannels d).filter (fun c => !(descChannels old).contains c)
    let s := if scrub then moved.foldl (scrubChannel p) s else s
    let mine := descChannels d
    let s := { s with scrub := s.scrub.map (fun e =>
      if mine.contains e.1 then (e.1, { e.2 with owner := some p })
      else if e.2.owner = some p then (e.1, { e.2 with owner := none }) else e) }
    let n := (mine.map (pendingOf s)).sum
    doneWith (dropDisplaced (modPart s p (fun q => { (if old.valid then q else newCounts q) with
      desc := { d with prot := false, dbg := false, scrubPend := n } }))) 0

/-! Keys and contexts (R430, R431). -/

/-- Partition p owns a key slot. -/
def ownsSlot (s : State) (p n : Nat) : Bool := decide (n < 64) && (part s p).desc.keys.getLsbD n

/-- KEYLOAD. -/
def keyload (p n key : Nat) (s : State) (_ : Nat) : Done :=
  if !ownsSlot s p n then doneWith s 3
  else if (keySlot s n).state ≠ .empty then doneWith s 2
  else doneWith (modSlot s n (fun x => { x with state := .loaded, key := key })) 0

/-- Ends the sessions whose key lies in a slot (R443). -/
def endSessions (s : State) (p n : Nat) : State :=
  (List.range 64).foldl (fun s i =>
    if sessV (part s p) i && sessKey (part s p) i == n then modPart s p (fun q => ctlSetField q (sessOff i 1) 63 1 0) else s) s

/-- KEYKILL (R431): the slot is retiring until every engine has acknowledged. -/
def keykill (who p n : Nat) (s : State) (pseq : Nat) : Done :=
  if !ownsSlot s p n then doneWith s 3
  else if s.patrol.bound.any (fun e => e.2 == n) || (keySlot s n).state == .retiring then doneWith s 2
  else ⟨endSessions (modSlot s n (fun x => { x with state := .retiring, acks := [], waiter := some (who, pseq) })) p n, none, none⟩

/-- Engines that acknowledge a kill: nine clusters and sixteen gondolas. -/
def killEngines : Nat := 25

/-- An operation accepted under a slot's key has not completed: a tier miss whose page is still to be moved (R227, R431). -/
def keyInUse (s : State) (n : Nat) : Bool := s.parts.any (fun e => e.2.misses.any (fun m => m.slot == some n))

/-- An engine acknowledges once what it has accepted under the key has completed; the last one empties the slot. -/
def keykillAck (s : State) (n e : Nat) : State :=
  let x := keySlot s n
  if x.state ≠ .retiring ∨ e ≥ killEngines ∨ keyInUse s n then s
  else
    let acks := if x.acks.contains e then x.acks else x.acks ++ [e]
    if acks.length < killEngines then modSlot s n (fun x => { x with acks := acks })
    else
      let s := modSlot s n (fun x => { x with state := .empty, gen := x.gen + 1, key := 0, acks := [], waiter := none })
      match x.waiter with
      | some (who, pseq) => finishCmd s who pseq 0 none
      | none => s

/-- A context number belongs to a partition. -/
def ctxOf (s : State) (p c : Nat) : Bool :=
  let d := (part s p).desc
  decide (d.ctxBase ≤ c) && decide (c < d.ctxBase + d.ctxCnt)

/-- CTX of an entry of a ring, as it stands in memory (R342). -/
def entryCtx (s : State) (r : Ring) (n : Nat) : Nat := bits (natOfBytes (memGets s.mem (ringEntry r n + 88) 2)) 0 12

/-- A published entry of a partition's rings names a context (R345, R348). -/
def ringNames (s : State) (p c : Nat) : Bool :=
  (List.range 8).any (fun q =>
    let r := prioRing (part s p) q
    (List.range r.count).any (fun n => entryCtx s r (r.head + n) == c))

/-- A record of a context waits or runs: in a ring, known to Chairlift, resident, or in a TASK that has not landed. -/
def ctxBusy (s : State) (c : Nat) : Bool :=
  s.wgs.any (fun e => e.2.ctx == c) || s.launches.any (fun e => e.2.ctx == c) ||
    s.tasks.any (fun t => t.uint.isNone && rCtx t.record == c) || s.parts.any (fun e => ringNames s e.1 c)

/-- CTXPROT. -/
def ctxprot (p c n : Nat) (s : State) (_ : Nat) : Done :=
  if !ownsSlot s p n then doneWith s 3
  else if (keySlot s n).state ≠ .loaded ∨ !ctxOf s p c then doneWith s 1
  else if (part s p).desc.dbg then doneWith s 4
  else if ctxBusy s c then doneWith s 2
  else
    let s := { s with patrol := { s.patrol with bound := FMap.ins s.patrol.bound c n } }
    doneWith (modPart s p (fun q => { q with desc := { q.desc with prot := true } })) 0

/-- CTXUNPROT. -/
def ctxunprot (p c : Nat) (s : State) (_ : Nat) : Done :=
  if !ctxOf s p c then doneWith s 1
  else if ctxBusy s c then doneWith s 2
  else doneWith { s with patrol := { s.patrol with bound := FMap.del s.patrol.bound c } } 0

/-- DBGUNLOCK (R433): DBG in each partition of the mask whose PROT is 0; the reply lists the others. -/
def dbgunlock (mask : BitVec 16) (token : Nat) (s : State) (_ : Nat) : Done :=
  if !Config.lmsOk (s.fuse.serial.toNat * 65536 + mask.toNat) token then doneWith s 6
  else
    let named (e : Nat × Part) : Bool := decide (e.1 < 16) && mask.getLsbD e.1 && e.2.desc.valid
    let refused := ((s.parts.filter (fun e => named e && e.2.desc.prot)).map (fun e => 2 ^ e.1)).sum
    let s := { s with parts := s.parts.map (fun e =>
      if named e && !e.2.desc.prot then (e.1, { e.2 with desc := { e.2.desc with dbg := true } }) else e) }
    ⟨s, some 0, some (bytesOfNat 2 refused)⟩

/-- The number of a slot state, in a report. -/
def SlotState.code : SlotState → Nat
  | .empty => 0 | .loaded => 1 | .retiring => 2

/-- What a report states (R432): the partition, its descriptor with DBG, the state and generation of each slot it owns, its protected
contexts, PSEQ and the nonce. -/
def reportFields (s : State) (p pseq nonce : Nat) : List Nat :=
  let d := (part s p).desc
  let ks := bitList d.keys
  let cs := (s.patrol.bound.map Prod.fst).filter (ctxOf s p)
  [p] ++ (List.range 19).map (descWord d) ++ [ks.length] ++
    ks.flatMap (fun k => [k, (keySlot s k).state.code, (keySlot s k).gen]) ++ [cs.length] ++ cs ++ [pseq, nonce]

/-- The bytes of a report, with the firmware measurements and the signature, in a layout that the spec leaves open. -/
def reportBytes (fields : List Nat) : List Byte := (List.range 4096).map (Config.reportByte fields)

/-- ATTEST (R432): a leaf is spent, and the report, which states the nonce of the argument block's first 32 bytes, is written to that
block; a partition's block is its own memory. -/
def attest (who p : Nat) (arg : List Byte) (s : State) (pseq : Nat) : Done :=
  if who < 16 ∧ !argOk s p (ctlWord (part s p) 0x708) then doneWith s 1
  else if s.patrol.leaves ≥ lmsLeaves then doneWith s 5
  else ⟨spendLeaf s, some 0, some (reportBytes (reportFields s p pseq (natOfBytes (arg.take 32))))⟩

/-- A command by its code (R430): `who` submits it for p, with its argument block. PARTSET comes from management alone. -/
def cmdOf (who p cmd : Nat) (arg : List Byte) (d : Desc) (scrub : Bool) : State → Nat → Done :=
  match cmd with
  | 1 => if who < 16 then fun s _ => doneWith s 1 else partset p d scrub
  | 2 => keyload p (Config.argSlot arg) (Config.unwrapKey arg)
  | 3 => keykill who p (Config.argSlot arg)
  | 4 => ctxprot p (Config.argCtx arg) (Config.argSlot arg)
  | 5 => ctxunprot p (Config.argCtx arg)
  | 6 => dbgunlock (Config.argToken arg).1 (Config.argToken arg).2
  | 7 => attest who p arg
  | _ => fun s _ => doneWith s 1

/-- A write of 1 to PCMD.GO submits the command; a command that is not done takes no other. -/
def submitPcmd (s : State) (p : Nat) : State :=
  let q := part s p
  let cmd := ctlField q 0x700 0 8
  let a := ctlWord q 0x708
  if ctlField q 0x700 63 1 = 1 then s
  else if decide (2 ≤ cmd) && decide (cmd ≤ 7) && !argOk s p a then runCmd s p (fun s _ => doneWith s 1)
  else
    let (s, b, m) := if decide (2 ≤ cmd) && decide (cmd ≤ 7) then physBytes s (some p) a 4096 else (s, [], none)
    runCmd s p (if m.isSome then fun s _ => doneWith s 1 else cmdOf p p cmd b Desc.empty false)

/-! The steps. -/

/-- The management interface answers and a session is open (R460). -/
def mgmtOpen (s : State) : Bool := decide (s.boot ≥ 1) && s.patrol.session

/-- A command of the management interface is still executing: a KEYKILL that awaits its acknowledgements (R431, R461). -/
def mgmtBusy (s : State) : Bool := s.patrol.slots.any (fun e => e.2.state == .retiring && e.2.waiter.any (fun x => decide (x.1 ≥ 16)))

/-- A request of the session is served: one at a time, so that the next one waits for the reply of the last (R461). -/
def mgmtServes (s : State) : Bool := mgmtOpen s && !mgmtBusy s

/-- Admits a request of the session: its tag verifies and its number is one above the last; another is dropped with a BADMAC
event of port 0xFF and the request's number (R460, R462). -/
def admitRequest (s : State) (q : Auth) : State × Bool :=
  if !mgmtServes s then (s, false)
  else if !q.ok ∨ q.seq ≠ s.patrol.sessSeq + 1 then (cairnWrite s originPatrol 0x0023 15 0xFF q.seq, false)
  else ({ s with patrol := { s.patrol with sessSeq := q.seq } }, true)

/-- A request of the session that is admitted acts. -/
def onRequest (s : State) (q : Auth) (f : State → State) : State :=
  let r := admitRequest s q
  if r.2 then f r.1 else r.1

/-- PARTSET, a request of the management session (R430, R460). -/
def execPartset (q : MgmtTo) (d : Desc) (scrub : Bool) (s : State) : Host.Outcome State Fault Refusal :=
  .next (onRequest s q.auth (fun s => runCmd s (16 + q.part) (partset q.part d scrub)))

/-- KEYLOAD of partition p. -/
def execKeyload (p slot key : Nat) (s : State) : Host.Outcome State Fault Refusal := .next (runCmd s (p % 16) (keyload p slot key))

/-- KEYKILL of partition p. -/
def execKeykill (p slot : Nat) (s : State) : Host.Outcome State Fault Refusal :=
  .next (runCmd s (p % 16) (keykill (p % 16) p slot))

/-- KEYKILL_ACK (R431). -/
def execKeykillAck (slot engine : Nat) (s : State) : Host.Outcome State Fault Refusal := .next (keykillAck s slot engine)

/-- CTXPROT of partition p. -/
def execCtxprot (p ctx slot : Nat) (s : State) : Host.Outcome State Fault Refusal := .next (runCmd s (p % 16) (ctxprot p ctx slot))

/-- CTXUNPROT of partition p. -/
def execCtxunprot (p ctx : Nat) (s : State) : Host.Outcome State Fault Refusal := .next (runCmd s (p % 16) (ctxunprot p ctx))

/-- DBGUNLOCK of partition p. -/
def execDbgunlock (p : Nat) (mask : BitVec 16) (token : Nat) (s : State) : Host.Outcome State Fault Refusal :=
  .next (runCmd s (p % 16) (dbgunlock mask token))

/-- The bytes of a partition's argument block, as Patrol reads them. -/
def argBytes (s : State) (p : Nat) : State × List Byte × Option Mark := physBytes s (some p) (ctlWord (part s p) 0x708) 4096

/-- ATTEST of partition p, with the nonce of its argument block. -/
def execAttest (p : Nat) (s : State) : Host.Outcome State Fault Refusal :=
  .next (runCmd (argBytes s (p % 16)).1 (p % 16) (attest (p % 16) p (argBytes s (p % 16)).2.1))

/-- A CMD that no command has: BADARG and no effect. -/
def execPcmdUnknown (p cmd : Nat) (s : State) : Host.Outcome State Fault Refusal :=
  .next (if decide (2 ≤ cmd) && decide (cmd ≤ 7) then s else runCmd s (p % 16) (fun s _ => doneWith s 1))

/-- The first pending granule of a channel. -/
def firstPending (x : Scrub) : Nat :=
  (((List.range (x.ahead.length + 1)).map (fun k => x.next + k)).find? (fun g => !x.ahead.contains g)).getD x.next

/-- SCRUB_GRANULE (R426): the next pending granule of a channel, in increasing offset. -/
def execScrubGranule (c : Nat) (s : State) : Host.Outcome State Fault Refusal :=
  match FMap.get? s.scrub c with
  | none => .next s
  | some x =>
    let g := firstPending x
    let s := { s with scrub := FMap.ins s.scrub c { x with next := g, ahead := x.ahead.filter (fun k => decide (g < k)) } }
    .next (scrubOne s c g)

/-- A PATROL request of the management interface (R461), with an argument block of up to 4 KiB. -/
def execPatrolRequest (q : Auth) (p cmd : Nat) (arg : List Byte) (d : Desc) (scrub : Bool) (s : State) :
    Host.Outcome State Fault Refusal :=
  .next (onRequest s q (fun s =>
    if arg.length > 4096 then reply s 1 [] else runCmd s (16 + p) (cmdOf (16 + p) p cmd arg d scrub)))

end Sys2Proof.Machine
end

