-- ==== Sys2Proof/Machine/Dram.lean ====
section
/-! DEFINITION. DRAM upkeep (R273, R277 to R282, R286): row counters, directed refresh, sparing, the remap table and token
buckets. None of it changes what memory holds. -/

namespace Sys2Proof.Machine

open Sys2Proof

/-! Registers of a pseudo-channel (R280). -/

/-- The address of a register word of a pseudo-channel. -/
def pchReg (pch off : Nat) : Nat := 0x00800000 + 0x40 * pch + off

/-- Changes a word of device control space. -/
def modDctl (s : State) (a : Nat) (f : Nat → Nat) : State := dctlSet s a (f (dctlWord s a))

/-- The key of a physical bank. -/
def bankKey (pch bank : Nat) : Nat := pch * 48 + bank

/-! Row tracking (R277). -/

/-- The counters after an ACTIVATE of row r. -/
def countRow (r : Nat) (l : List (Nat × Nat)) : List (Nat × Nat) :=
  if l.any (fun e => e.1 == r) then l.map (fun e => if e.1 = r then (e.1, e.2 + 1) else e)
  else if l.length < 16 then l ++ [(r, 1)]
  else (l.map (fun e => (e.1, e.2 - 1))).filter (fun e => e.2 != 0)

/-- Rows that are refreshed when row r reaches the threshold. -/
def victimRows (r : Nat) : List Nat :=
  (if r ≥ 2 then [r - 2] else []) ++ (if r ≥ 1 then [r - 1] else []) ++
    (if r + 1 < 16384 then [r + 1] else []) ++ (if r + 2 < 16384 then [r + 2] else [])

/-- An ACTIVATE of a row: its counters, and directed refresh at the threshold. -/
def activateRow (s : State) (pch bank r : Nat) : State :=
  let ctl := dctlWord s (pchReg pch 0)
  if bits ctl 31 1 = 0 then s
  else
    let l := countRow r (FMap.getD s.rows (bankKey pch bank) [])
    if l.any (fun e => e.1 == r && decide (e.2 ≥ bits ctl 0 16)) then
      let vs := victimRows r
      let s := { s with
        rows := FMap.ins s.rows (bankKey pch bank) (l.filter (fun e => e.1 != r))
        refreshing := s.refreshing ++ vs.map (fun v => (pch, bank, v)) }
      modDctl s (pchReg pch 0x20) (fun w => (w + vs.length) % 2 ^ 64)
    else { s with rows := FMap.ins s.rows (bankKey pch bank) l }

/-- Such a bank and row exist. -/
def rowExists (s : State) (pch bank r : Nat) : Bool :=
  decide (pch < 512) && pchEnabled s pch && decide (bank < 48) && decide (r < 16384)

/-- ACTIVATE (R277). A row under directed refresh waits. -/
def execActivate (pch bank row : Nat) (s : State) : Host.Outcome State Fault Refusal :=
  .next (if rowExists s pch bank row && !s.refreshing.contains (pch, bank, row) then activateRow s pch bank row else s)

/-- DIRECTED_REFRESH (R277): the command completes. -/
def execDirectedRefresh (pch bank row : Nat) (s : State) : Host.Outcome State Fault Refusal :=
  .next { s with refreshing := s.refreshing.filter (fun e => e != (pch, bank, row)) }

/-- REFRESH_WINDOW_WRAP (R277): every counter of the bank is free. -/
def execRefreshWindowWrap (pch bank : Nat) (s : State) : Host.Outcome State Fault Refusal :=
  .next { s with rows := FMap.del s.rows (bankKey pch bank) }

/-! Sparing (R278, R279). -/

/-- Starts sparing if the registers admit it; a disabled pseudo-channel spares nothing (R457). -/
def startSparing (s : State) (pch : Nat) : State :=
  if !pchEnabled s pch then s
  else modDctl s (pchReg pch 0x10) (fun w =>
    if bits w 31 1 = 0 ∧ bits w 30 1 = 0 ∧ bits w 8 6 ≠ bits w 0 6 ∧ bits w 0 6 ≠ 0x3F then setBits w 31 1 1 else w)

/-- SRC is written unless sparing runs. -/
def writeSpareSrc (s : State) (pch src : Nat) : State :=
  modDctl s (pchReg pch 0x10) (fun w => if bits w 31 1 = 1 then w else setBits w 8 6 src)

/-- SPARING_START (R278): a write of SPCTL with SRC and GO. -/
def execSparingStart (pch src : Nat) (s : State) : Host.Outcome State Fault Refusal :=
  .next (if pch < 512 then startSparing (writeSpareSrc s pch src) pch else s)

/-- Copies a row of a bank to the spare: each atom is read, from its remap slot if it has one, and written whole and corrected;
an atom that cannot be corrected goes over poisoned (R275, R278, R281). -/
def copyRow (s : State) (pch src spare n : Nat) : State :=
  let s := ((s.cerr ++ s.uerr).filter (fun a => a.chan == pch && a.bank == src && a.row == n)).foldl (fun s a =>
    if remapped s a then atomWritten s a else atomRead s a ((atomPa s a).map (fun pa => pa / 32))) s
  (List.range 32).foldl (fun s k => atomWritten s ⟨pch, spare, n, k⟩) s

/-- SPARING_ROW_COPY (R278, R279): one more row is copied; the copy activates the row in both banks. At the end the spare backs
the logical bank. -/
def execSparingRowCopy (pch : Nat) (s : State) : Host.Outcome State Fault Refusal :=
  let w := dctlWord s (pchReg pch 0x10)
  if pch ≥ 512 ∨ !pchEnabled s pch ∨ bits w 31 1 = 0 then .next s
  else
    let n := bits w 32 15
    let src := bits w 8 6
    let spare := bits w 0 6
    let s := copyRow (activateRow (activateRow s pch src n) pch spare n) pch src spare n
    let s := if n + 1 = 16384 then { s with spared := FMap.ins s.spared pch (src, spare) } else s
    .next (modDctl s (pchReg pch 0x10) (fun w =>
      let w := setBits w 32 15 (n + 1)
      if n + 1 = 16384 then setBits (setBits (setBits w 31 1 0) 30 1 1) 0 6 0x3F else w))

/-! The remap table (R281, R282) and token buckets (R286, R287). -/

/-- The atom that an entry of a stack's remap table names (R282). -/
def entryAtom (stack v : Nat) : Atom := ⟨64 * stack + bits v 25 6, bits v 19 6, bits v 5 14, bits v 0 5⟩

/-- Writes an entry of a stack's remap table (R281, R282): an entry that ends, or changes its key, first writes its slot back to
its atom; one that begins loads its slot from the atom. A value is in the atom or in its slot, and no access can tell. -/
def writeRemap (s : State) (stack i v : Nat) : State :=
  let a := 0x00A00000 + 0x4000 * stack + 4 * i
  let put (s : State) (v : Nat) : State := modDctl s (a / 8 * 8) (fun w => setBits w (a % 8 * 8) 32 v)
  let old := bits (dctlWord s (a / 8 * 8)) (a % 8 * 8) 32
  if old = v then s
  else
    let s := if bits old 31 1 = 1 then atomWritten (put s (setBits old 31 1 0)) (entryAtom stack old) else s
    let x := entryAtom stack v
    put (if bits v 31 1 = 1 then atomRead s x ((atomPa s x).map (fun pa => pa / 32)) else s) v

/-- REMAP_ENTRY_WRITE (R281, R282). -/
def execRemapEntryWrite (stack i : Nat) (v : Word) (s : State) : Host.Outcome State Fault Refusal :=
  .next (if stack < 8 ∧ i < 4096 then writeRemap s stack i v.toNat else s)

/-- The address of a controller's bucket of partition 0: pseudo-channels, then LPDDR-6 channels from 512. -/
def bucketBase (c : Nat) : Nat := if c < 512 then 0x01000000 + 0x80 * c else 0x01010000 + 0x80 * (c - 512)

/-- A memory channel is enabled: pseudo-channels, then LPDDR-6 channels from 512. -/
def chanEnabled (s : State) (c : Nat) : Bool := if c < 512 then pchEnabled s c else decide (c < 544) && lpEnabled s (c - 512)

/-- TOKEN_REFILL (R286): TOKENS := min(TOKENS + RATE, DEPTH) in the sixteen buckets of an enabled controller. -/
def execTokenRefill (c : Nat) (s : State) : Host.Outcome State Fault Refusal :=
  .next (if chanEnabled s c then
    (List.range 16).foldl (fun s p => modDctl s (bucketBase c + 8 * p)
      (fun w => setBits w 32 16 (min (bits w 32 16 + bits w 0 16) (bits w 16 16)))) s
  else s)

end Sys2Proof.Machine
end

