-- ==== Sys2Proof/Machine/Device.lean ====
section
/-! DEFINITION. Device management (R422, R454 to R463): device control space, the management interface, boot, thermal limits,
fatal errors, clock gating and resets. -/

namespace Sys2Proof.Machine

open Sys2Proof

/-! The regions of device control space that requests reach (R461). -/

/-- The DRAM registers (R280, R282, R285, R287). -/
def dramRegions : List (Nat × Nat) :=
  [(0x00800000, 0x8000), (0x00A00000, 0x20000), (0x00C00000, 0x800), (0x01000000, 0x11000)]

/-- The regions that CREAD reaches, base and bytes (R461). -/
def readRegions : List (Nat × Nat) :=
  dramRegions ++ [(0x02000000, 0x2000), (0x04000000, 8), (0x05000000, 8), (0x05001000, 0x20000), (0x06000000, 0x290),
    (0x07000000, 8)]

/-- The regions that CWRITE reaches (R461). -/
def writeRegions : List (Nat × Nat) := dramRegions ++ [(0x04000000, 8), (0x07000000, 8)]

/-- An aligned range lies in one of some regions. -/
def inRegions (l : List (Nat × Nat)) (a n : Nat) : Bool :=
  a % 8 == 0 && l.any (fun r => decide (r.1 ≤ a) && decide (a + n ≤ r.1 + r.2))

/-! Writes of device control space. -/

/-- Writes the RW fields of a word of DRAM registers, with what they start. -/
def dramWrite (s : State) (a v : Nat) : State :=
  if a < 0x00808000 then
    let pch := (a - 0x00800000) / 0x40
    let off := (a - 0x00800000) % 0x40
    if off = 0 then modDctl s a (fun w => setBits (setBits w 31 1 (bits v 31 1)) 0 16 (max 16 (bits v 0 16)))
    else if off = 0x10 then
      let s := writeSpareSrc s pch (bits v 8 6)
      if bits v 31 1 = 1 then startSparing s pch else s
    else s
  else if a < 0x00A20000 then
    let i := (a - 0x00A00000) % 0x4000 / 4
    let k := (a - 0x00A00000) / 0x4000
    writeRemap (writeRemap s k i (bits v 0 32)) k (i + 1) (bits v 32 32)
  else if 0x01000000 ≤ a then modDctl s a (fun w => setBits w 0 32 (bits v 0 32))
  else s

/-- Writes a word of device control space under its access codes (R7). -/
def controlWrite (s : State) (a v : Nat) : State :=
  if a < 0x02000000 then dramWrite s a v
  else if a = 0x04000000 then modDctl s a (fun w => setBits w 0 12 (bits v 0 12))
  else if a = 0x07000000 then modDctl s a (fun w => setBits (setBits w 8 8 (bits v 8 8)) 0 8 (min 190 (bits v 0 8)))
  else s

/-! The management interface (R460, R461). -/

/-- What an OPEN signs, under the key in the fuses. -/
def openContent (s : State) (share nonce : Nat) : Nat :=
  (s.fuse.mgmtKey.toNat * 2 ^ 1024 + share % 2 ^ 1024) * 2 ^ 256 + nonce % 2 ^ 256

/-- The reply to an OPEN, which belongs to no session yet. -/
def openReply (s : State) (status : Nat) (data : List Byte) : State := { s with outbox := s.outbox ++ [.mgmt none status data] }

/-- What the report of an OPEN states (R432, R460): the two shares and nonces, and the fields of R432 for every partition. -/
def openFields (s : State) (share nonce : Nat) : List Nat :=
  [2 ^ 64, s.patrol.leaves, share, (Config.patrolShare s.patrol.leaves).toNat] ++
    s.parts.flatMap (fun e => reportFields s e.1 s.patrol.pseq nonce)

/-- OPEN (R460), served in its turn (R461): a leaf is spent, and the reply holds Patrol's share and its report. -/
def execOpen (share nonce signature : Nat) (s : State) : Host.Outcome State Fault Refusal :=
  if s.boot = 0 ∨ mgmtBusy s then .next s
  else if !Config.lmsOk (openContent s share nonce) signature then .next (openReply s 3 [])
  else if s.patrol.leaves ≥ lmsLeaves then .next (openReply s 4 [])
  else
    let s := spendLeaf s
    let key := Config.openKey s.patrol.leaves share nonce
    .next (openReply { s with patrol := { s.patrol with session := true, sessSeq := 0, sessKey := key } } 0
      (bytesOfNat 128 (Config.patrolShare s.patrol.leaves).toNat ++ reportBytes (openFields s share nonce)))

/-- CREAD (R461). -/
def execCread (q : Auth) (a len : Nat) (s : State) : Host.Outcome State Fault Refusal :=
  .next (onRequest s q (fun s =>
    if len < 8 ∨ len > 64 ∨ len % 8 ≠ 0 ∨ !inRegions readRegions a len then reply s 1 []
    else reply s 0 ((List.range (len / 8)).flatMap (fun k => bytesOfNat 8 (dctlView s (a + 8 * k))))))

/-- CWRITE (R461). -/
def execCwrite (q : Auth) (a : Nat) (data : Dword) (s : State) : Host.Outcome State Fault Refusal :=
  .next (onRequest s q (fun s =>
    if !inRegions writeRegions a 8 then reply s 1 [] else reply (controlWrite s a data.toNat) 0 []))

/-- MCTP_CONTROL (R460): the device answers. -/
def execMctpControl (s : State) : Host.Outcome State Fault Refusal :=
  .next (if s.boot = 0 then s else { s with outbox := s.outbox ++ [.mctp] })

/-! Resets (R422, R454). -/

/-- What no reset clears: the fuses, the leaves spent, and what has left the device. -/
def resetKeeping (s : State) : State :=
  { State.reset with
    fuse := s.fuse, patrol := { State.reset.patrol with leaves := s.patrol.leaves }, outbox := s.outbox, free := s.free,
    nextId := s.nextId }

/-- A cold reset. -/
def coldReset (s : State) : State := resetKeeping s

/-- A warm reset also keeps Cairn and the management session; the origins' sequence numbers go on, so that entries of one origin stay
in increasing OSEQ (R454, R460, R463; log 131). -/
def warmReset (s : State) : State :=
  let r := resetKeeping s
  { r with
    cairn := s.cairn, cairnwp := s.cairnwp, oseq := s.oseq,
    patrol := { r.patrol with session := s.patrol.session, sessSeq := s.patrol.sessSeq, sessKey := s.patrol.sessKey } }

/-- COLD_RESET (R454). -/
def execColdReset (s : State) : Host.Outcome State Fault Refusal := .next (coldReset s)

/-- WARM_RESET (R454, R460). -/
def execWarmReset (s : State) : Host.Outcome State Fault Refusal := .next (warmReset s)

/-- The RESET request of the management interface (R461): the reply goes first. -/
def execMgmtReset (q : Auth) (cold : Bool) (s : State) : Host.Outcome State Fault Refusal :=
  .next (onRequest s q (fun s => let s := reply s 0 []; if cold then coldReset s else warmReset s))

/-- FUNCTION_LEVEL_RESET (R422), by a host to which the function is presented (R438). -/
def execFunctionLevelReset (p : Nat) (s : State) : Host.Outcome State Fault Refusal :=
  if !hostFunction s p then .next s
  else
  let s := (partCtxs s p).foldl (fun s c => killCtx s p c) s
  .next (modPart s p (fun q => ctlSetField q 0x500 31 1 0))

/-! Boot, thermal limits, fatal errors, gated clocks (R455, R458, R459). -/

/-- The boot stage that runs next. -/
def nextStage (s : State) : Nat := s.boot + 1

/-- A channel is disabled for this boot: no partition owns it any more, and it takes part in nothing (R455, R457). -/
def disableChannel (s : State) (c : Nat) : State :=
  let drop (d : Desc) : Desc := if c < 512 then { d with pch := d.pch &&& ~~~((1#512) <<< c) }
    else { d with lpch := d.lpch &&& ~~~((1#32) <<< (c - 512)) }
  { s with
    bootOff := if s.bootOff.contains c then s.bootOff else s.bootOff ++ [c]
    parts := s.parts.map (fun e => (e.1, { e.2 with desc := drop e.2.desc })) }

/-- What the end of a stage leaves (R455): at stage 4 Lodge threads 1 to 63 stop; at stage 5 DEVNUM is written, where it has not been. -/
def stageWork (s : State) (n : Nat) : State :=
  if n = 4 then { s with lodgeRun := s.lodgeRun &&& 1 }
  else if n = 5 ∧ devNum s = 0 then modDctl s 0x04000000 (fun w => setBits w 0 12 Config.devNumber.toNat)
  else s

/-- A stage fails: BOOTFAIL, and the device stays in it. -/
def bootFail (s : State) (n unit : Nat) : State := { cairnWrite s originPatrol 0x0002 15 n unit with bootFailed := true }

/-- BOOTSTAGE (R455): a stage completes, or fails on a unit. At stages 2 and 3 a channel that fails is disabled alone; stage 2
fails once no pseudo-channel is left, and a channel that stage 3 cannot train is named by an entry BOOTFAIL (log 130). The entries carry
Patrol's origin, which is the model's choice (log 104). -/
def execBootstage (ok : Bool) (unit : Nat) (s : State) : Host.Outcome State Fault Refusal :=
  let n := nextStage s
  if s.bootFailed ∨ n > 6 then .next s
  else if ok then .next { cairnWrite (stageWork s n) originPatrol 0x0001 15 n 0 with boot := n }
  else if n = 2 then
    if unit ≥ 512 then .next s
    else
      let s := disableChannel s unit
      .next (if (List.range 512).all (fun c => !pchEnabled s c) then bootFail s n unit else s)
  else if n = 3 then .next (if unit ≥ 544 then s else cairnWrite (disableChannel s unit) originPatrol 0x0002 15 n unit)
  else .next (bootFail s n unit)

/-- Signals viral on every HOST port (R450, R459). -/
def viralAll (s : State) : State :=
  { s with outbox := s.outbox ++ (((List.range 6).filter (fun k => (port s k).mode == 1)).map Out.viral) }

/-- A fatal error (R459): Cairn, HALT in every partition, viral, and no issue until a reset. The entry carries Patrol's origin, which is
the model's choice (log 104). -/
def fatalError (s : State) (unit syndrome : Nat) : State :=
  let s := cairnWrite s originPatrol 0x0041 15 unit syndrome
  let s := (s.parts.map Prod.fst).foldl haltPart s
  { viralAll s with fatal := true }

/-- FATAL (R459). -/
def execFatal (unit syndrome : Nat) (s : State) : Host.Outcome State Fault Refusal := .next (fatalError s unit syndrome)

/-- FREQ changes by one, with its Cairn entry. -/
def setFreq (s : State) (new : Nat) : State :=
  let w := dctlWord s 0x07000000
  let s := dctlSet s 0x07000000 (setBits w 16 8 new)
  { cairnWrite s 0x0B00 0x0040 15 (bits w 16 8 + new * 2 ^ 32) (bits w 32 16) with thermAt := s.lodgeCycle }

/-- THERMAL (R458): the sensors are read. FREQ falls by one while a limit is passed, and rises again in the same way, at most
once every 2^20 Lodge cycles; at FREQ 6 a die far too hot is fatal, and else it falls further (log 88). `temp` is in 1/16 °C, `power` in units of 10 W. -/
def execThermal (temp power : Nat) (s : State) : Host.Outcome State Fault Refusal :=
  let s := modDctl s 0x07000000 (fun w => setBits w 32 16 temp)
  let w := dctlWord s 0x07000000
  let f := bits w 16 8
  let hot := decide (bits w 32 16 > 16 * bits w 8 8) || decide (power > bits w 0 8)
  let due := decide (s.lodgeCycle ≥ s.thermAt + 2 ^ 20)
  if f = 6 ∧ bits w 32 16 > 16 * (bits w 8 8 + 10) then .next (fatalError s 0x0B00 (bits w 32 16))
  else if hot then .next (if f > 0 ∧ (f = 30 ∨ due) then setFreq s (f - 1) else s)
  else .next (if f < 30 ∧ due then setFreq s (f + 1) else s)

/-- CLOCK_GATE (R458): a core with no workgroup and no line that awaits dispatch gates its clocks. -/
def execClockGate (core : Nat) (s : State) : Host.Outcome State Fault Refusal :=
  let idle := (coreWgs s core).isEmpty && (coreSt s core).lines.all (fun e => e.2.trig.isNone)
  .next (if idle && !(coreSt s core).gated then modCore s core (fun c => { c with gated := true }) else s)

end Sys2Proof.Machine
end

