-- ==== Sys2Proof/Machine/Ports.lean ====
section
/-! DEFINITION. CXL ports and host lines in L2 (R435, R437, R441, R442, R450, R451): training, losses and their notices, and a
host's snoops of the lines that L2 holds of its memory. -/

namespace Sys2Proof.Machine

open Sys2Proof

/-! Training and loss. -/

/-- Changes a port. -/
def modPort (s : State) (k : Nat) (f : Port → Port) : State := { s with ports := FMap.ins s.ports k (f (port s k)) }

/-- A port's link trains at x16 and 64 GT/s, or narrower or slower (R435, R437): log2 of its lanes, and its rate, which 6 to 1 name. -/
def linkOk (width rate : Nat) : Bool := decide (width ≤ 4) && decide (1 ≤ rate) && decide (rate ≤ 6)

/-- LINK_TRAIN (R435, R437, R455): a port that is enabled trains at stage 5, in the mode that firmware has given it. -/
def execLinkTrain (k width rate : Nat) (s : State) : Host.Outcome State Fault Refusal :=
  .next (if s.boot < 4 ∨ k ≥ 6 ∨ !s.fuse.links.getLsbD (32 + k) ∨ !linkOk width rate ∨ (port s k).mode = 0 ∨ (port s k).up then s
    else modPort s k (fun q => { q with up := true, width := width, rate := rate }))

/-- The first address of a port's memory, and one past the last. -/
def portRange (k : Nat) : Nat × Nat := (2 ^ 49 + k * 2 ^ 45, 2 ^ 49 + (k + 1) * 2 ^ 45)

/-- A number lies in a range. -/
def inRange (r : Nat × Nat) (a : Nat) : Bool := decide (r.1 ≤ a) && decide (a < r.2)

/-- The lines of a port leave L2, and what they held that their home does not is lost. Gives the number of sectors lost. -/
def dropPortLines (s : State) (k : Nat) : State × Nat :=
  let r := portRange k
  let mine := s.l2.filter (fun l => inRange r (l.line * 128))
  ({ farTake s r.1 r.2 with l2 := s.l2.filter (fun l => !inRange r (l.line * 128)) }, (mine.map (fun l => (dirtyList l).length)).sum)

/-- A request in flight at a port that is lost (R451): what it was to bring from there is poisoned, and it completes at once where nothing
of it is still to come from elsewhere. What it writes there has been done at its home by now, or is lost with the port's lines. -/
def losePend (r : Nat × Nat) (s : State) (e : Nat × Pend) : State :=
  let m := e.2.reach.foldl (fun m x => if inRange r x.2 then m ||| x.1 else m) 0#32
  if m = 0#32 then s
  else
    let q := { e.2 with fills := e.2.fills.map (fun f : Fill => { f with
      vals := Vector.ofFn (fun l => if Mask.has m l then ⟨0#32, some .anon⟩ else f.vals[l]) }) }
    if e.2.reach.all (fun x => inRange r x.2) then completePend s e.1 q else { s with pend := FMap.ins s.pend e.1 q }

/-- A port records a loss (R450, R451): its lines are lost, accesses in flight complete, and every context that has translated
through it owes a notice. -/
def losePort (s : State) (k cause : Nat) : State :=
  let q := port s k
  let up := q.up && !(cause == 2 || cause == 3)
  if q.lost then modPort s k (fun q => { q with up := up })
  else
    let (s, n) := dropPortLines s k
    let s := s.pend.foldl (losePend (portRange k)) s
    let s := cairnWrite s (0x700 + k) 0x0012 15 k n
    let s := modPort s k (fun q => { q with up := up, lost := true, cause := cause })
    { s with
      notices := s.notices ++ (s.used.filter (fun e => e.1 == k)).map (fun e => (e.2, k, cause))
      used := s.used.filter (fun e => e.1 != k) }

/-- A port in use. -/
def portInUse (s : State) (k : Nat) : Bool := decide (k < 6) && (port s k).mode != 0

/-- PORT_LOSS (R450). -/
def execPortLoss (k cause : Nat) (s : State) : Host.Outcome State Fault Refusal :=
  .next (if portInUse s k && decide (1 ≤ cause) && decide (cause ≤ 4) then losePort s k cause else s)

/-- COMPLETION_TIMEOUT (R450). -/
def execCompletionTimeout (k : Nat) (s : State) : Host.Outcome State Fault Refusal :=
  .next (if portInUse s k then losePort s k 4 else s)

/-- The notice that a context takes next: the lowest port (R451). -/
def nextNotice (s : State) (ctx : Nat) : Option (Nat × Nat × Nat) :=
  (s.notices.filter (fun e => e.1 == ctx)).foldl (fun b e =>
    match b with
    | none => some e
    | some d => if e.2.1 < d.2.1 then some e else some d) none

/-- The group, PC and length at whose issue a notice is taken: the issue in progress, else the warp's first group. -/
def noticeAt (s : State) (pl : Nat) (w : Warp) : Option (Mask × Dword × Nat) :=
  match s.cur with
  | some c => if c.place = pl then some (c.mask, c.pc, c.len) else none
  | none => (groupsOf w).head?.map (fun g => (g.2, g.1, 1))

/-- EXPANDER_LOST_NOTICE (R451): the warp's next issue traps before it executes. -/
def execExpanderLostNotice (pl : Nat) (s : State) : Host.Outcome State Fault Refusal :=
  match warp? s pl with
  | none => .next s
  | some w =>
    match nextNotice s w.ctx, noticeAt s pl w with
    | some (c, k, cause), some (a, pc, len) =>
      if isLodge pl then .next s
      else
        let s := { s with notices := s.notices.filter (fun e => !(e.1 == c && e.2.1 == k)) }
        .next (takeTrap s pl a pc len ⟨0xA, cause * 256 + k, 0, false, a, []⟩)
    | _, _ => .next s

/-- CLR (R437): the port's loss is cleared while its link is up. -/
def clearPort (s : State) (p k : Nat) : State :=
  if decide (k < 6) && (part s p).desc.ports.getLsbD k && (port s k).up then
    modPort s k (fun q => { q with lost := false, cause := 0 }) else s

/-- PORT_CLR (R437). -/
def execPortClr (p k : Nat) (s : State) : Host.Outcome State Fault Refusal := .next (clearPort s p k)

/-! A host's snoops of lines that L2 holds (R442). `line` counts 64-byte lines. -/

/-- A sector of an L2 line lies in a half. -/
def inHalf (half : Nat) (i : Nat) : Bool := i / 2 == half

/-- Writes the dirty sectors of one half of a line back. -/
def writeBackHalf (s : State) (l : L2Line) (half : Nat) : State :=
  let only : L2Line := { l with sectors := Vector.ofFn (fun i : Fin 4 =>
    if inHalf half i.val then l.sectors[i] else { l.sectors[i] with dirty := false }) }
  writeBackLine s only

/-- Changes one half of a line: its MESI state, and its sectors. -/
def setHalf (s : State) (line half : Nat) (x : Mesi) (f : L2Sector → L2Sector) : State :=
  { s with l2 := s.l2.map (fun l =>
      if l.line = line then
        { l with
          mesi := if half = 0 then (x, l.mesi.2) else (l.mesi.1, x)
          sectors := Vector.ofFn (fun i : Fin 4 => if inHalf half i.val then f l.sectors[i] else l.sectors[i]) }
      else l) }

/-- The MESI state of a half. -/
def halfState (l : L2Line) (half : Nat) : Mesi := if half = 0 then l.mesi.1 else l.mesi.2

/-- The L2 line of a 64-byte line, if a half of it is held with coherence state. -/
def heldHalf (s : State) (line : Nat) : Option L2Line :=
  (s.l2.find? (fun l => l.line == line / 2)).bind (fun l => if halfState l (line % 2) = .i then none else some l)

/-- SNPDATA (R442): M and E are written back where dirty and become S. -/
def execSnpdata (q : HostSnoop) (s : State) : Host.Outcome State Fault Refusal :=
  let line := q.line
  match heldHalf s line with
  | none => .next s
  | some l =>
    if halfState l (line % 2) = .s then .next s
    else .next (setHalf (writeBackHalf s l (line % 2)) (line / 2) (line % 2) .s (fun x => { x with dirty := false }))

/-- The half leaves L2 where L2 holds it with coherence state: M is written back, and I is left (R442). -/
def snoopOut (s : State) (line : Nat) : State :=
  match heldHalf s line with
  | none => s
  | some l => setHalf (writeBackHalf s l (line % 2)) (line / 2) (line % 2) .i (fun x => { x with dirty := false, valid := false })

/-- L2 holds a sector, by address over 32. -/
def sectorHeld (s : State) (sec : Nat) : Bool :=
  s.l2.any (fun l => l.line == sec / 4 && (l.sectors.toList[sec % 4]?).any (fun x => x.valid))

/-- A sector of the memory behind a HOST or FABRIC port takes bytes that its own host writes there: where L2 holds a scoped copy, the
device goes on reading that copy until it gives it up (R442). -/
def homeSectorWrite (data : BitVec 512) (line : Nat) (s : State) (i : Nat) : State :=
  let pa := 64 * line + 32 * i
  let b := bytesOfNat 32 (bits data.toNat (256 * i) 256)
  if sectorHeld s (pa / 32) then { s with far := b.zipIdx.foldl (fun f e => FMap.ins f (pa + e.2) e.1) s.far }
  else cleanSector { farDone s pa (pa + 32) with mem := memPuts s.mem pa b } (pa / 32)

/-- A host or a peer writes a 64-byte line of its own memory (log 115). -/
def homeWrite (s : State) (line : Nat) (data : BitVec 512) : State :=
  match paKind s (64 * line) with
  | .port k => if (port s k).mode = 2 then s else (List.range 2).foldl (homeSectorWrite data line) s
  | _ => s

/-- SNPINV (R442): M is written back and the half is left I; the host that has taken the line may write it. -/
def execSnpinv (take : HostTake) (s : State) : Host.Outcome State Fault Refusal :=
  let s := snoopOut s take.snoop.line
  .next (match take.data with
    | none => s
    | some d => homeWrite s take.snoop.line d)

/-- SNPCUR (R442): the data are returned, and the state stays. -/
def execSnpcur (q : HostSnoop) (s : State) : Host.Outcome State Fault Refusal :=
  let line := q.line
  match heldHalf s line with
  | none => .next s
  | some _ =>
    let bad := (FMap.get? s.poison (2 * line)).isSome || (FMap.get? s.poison (2 * line + 1)).isSome
    .next { s with outbox := s.outbox ++ [.hostData ⟨partField (ownerOf s (64 * line)), q.origin, q.oseq⟩ (memGets s.mem (64 * line) 64) bad] }

end Sys2Proof.Machine
end

