-- ==== Sys2Proof/Machine/Extents.lean ====
section
/-! DEFINITION. Device memory that hosts see (R439 to R442): extents, host requests, the snoop filter and BIRsp; and checkpoints
(R452, R453). -/

namespace Sys2Proof.Machine

open Sys2Proof

/-! Extents (R440). -/

/-- Word k of extent i. -/
def extWord (q : Part) (i k : Nat) : Nat := ctlWord q (0x1000 + 32 * i + 8 * k)

/-- An extent's registers. -/
structure Extent where
  v : Bool
  req : Nat
  scrub : Bool
  coh : Bool
  tier : Nat
  len : Nat
  pbase : Nat
  dbase : Nat
  deriving DecidableEq, Repr

/-- EXTi: lengths and bases in bytes; PBASE with its tier. -/
def extent (q : Part) (i : Nat) : Extent :=
  let w := extWord q i 3
  ⟨w.testBit 63, bits w 61 2, w.testBit 60, w.testBit 59, bits w 57 2, bits w 0 32 * 2097152,
    bits w 57 2 * 2 ^ 48 + bits (extWord q i 2) 0 27 * 2097152, bits (extWord q i 0) 21 23 * 2097152⟩

/-- Sets V and REQ of an extent. -/
def setExtent (s : State) (p i : Nat) (v : Bool) (req : Nat) : State :=
  modPart s p (fun q => ctlSet q (0x1000 + 32 * i + 24) (setBits (setBits (extWord q i 3) 63 1 (if v then 1 else 0)) 61 2 req))

/-- Channels or ports `lo` to `hi` of a bitmap are all owned. -/
def allOwned {n : Nat} (b : BitVec n) (lo hi : Nat) : Bool :=
  decide (hi < n) && ((List.range (hi + 1 - lo)).all (fun k => b.getLsbD (lo + k)))

/-- A range of physical addresses lies wholly in what a partition owns: memory, or behind its ports. -/
def rangeOwned (s : State) (p a n : Nat) : Bool :=
  let d := (part s p).desc
  let o := a % 2 ^ 48
  let z := o + n - 1
  if n = 0 then true
  else if z ≥ 2 ^ 48 then false
  else
    match a / 2 ^ 48 with
    | 0 => decide (z / sliceBytes < 512) && allOwned d.pch (o / sliceBytes) (z / sliceBytes)
    | 1 => decide (z / lpUsable < 32) && allOwned d.lpch (o / lpUsable) (z / lpUsable)
    | 2 => decide (z / 2 ^ 45 < 6) && allOwned d.ports (o / 2 ^ 45) (z / 2 ^ 45)
    | _ => false

/-- Two ranges of DPA meet. -/
def dpaMeets (a b : Extent) : Bool :=
  decide (a.dbase < b.dbase + b.len) && decide (b.dbase < a.dbase + a.len)

/-- An offer is bad: its tier is reserved, its memory is not the partition's, or it dpaMeets a live extent. -/
def badOffer (s : State) (p i : Nat) : Bool :=
  let q := part s p
  let e := extent q i
  decide (e.tier ≥ 2) || !rangeOwned s p e.pbase e.len ||
    (List.range 64).any (fun j => j != i && (extent q j).v && dpaMeets e (extent q j))

/-- The agent that writes a partition's extent events, which the spec does not name: its lowest port (log 104). -/
def extOrigin (s : State) (p : Nat) : Nat := 0x700 + (((bitList (part s p).desc.ports).head?).getD 0)

/-- An offer fails: V 0, REQ 0, a BADEXT event. -/
def refuseOffer (s : State) (p i : Nat) : State := cairnWrite (setExtent s p i false 0) (extOrigin s p) 0x0022 p i 0

/-- A write of 1 to REQ: the extent is offered. -/
def offerExtent (s : State) (p i : Nat) : State :=
  let e := extent (part s p) i
  if i ≥ 64 ∨ e.v ∨ e.req ≠ 0 then s
  else if badOffer s p i then refuseOffer s p i
  else sendOut (setExtent s p i false 1) (extOrigin s p) (fun n => .addCapacity n p i)

/-- EXTENT_OFFER (R440). -/
def execExtentOffer (p i : Nat) (s : State) : Host.Outcome State Fault Refusal := .next (offerExtent s p i)

/-- EXTENT_ACCEPTED (R440): the host answers an offer. -/
def execExtentAccepted (p i : Nat) (accept : Bool) (s : State) : Host.Outcome State Fault Refusal :=
  let e := extent (part s p) i
  .next (if !hostFunction s p ∨ i ≥ 64 ∨ e.v ∨ e.req ≠ 1 then s
    else if accept && !badOffer s p i then setExtent s p i true 0
    else refuseOffer s p i)

/-- Lines of an extent that the snoop filter tracks. -/
def trackedLines (s : State) (e : Extent) : List Nat :=
  (s.snoop.filter (fun x => decide (e.pbase ≤ x.line * 64) && decide (x.line * 64 < e.pbase + e.len))).map (fun x => x.line)

/-- A write of 2 to REQ: the host's lines are back-invalidated, and then the release event is sent. -/
def releaseExtent (s : State) (p i : Nat) : State :=
  let e := extent (part s p) i
  if i ≥ 64 ∨ !e.v ∨ e.req ≠ 0 then s
  else
    let s := setExtent s p i true 2
    match trackedLines s e with
    | [] => sendOut s (extOrigin s p) (fun n => .releaseCapacity n p i)
    | ls => ls.foldl (fun s ln => sendSnoop s ln true) s

/-- EXTENT_RELEASE (R440). -/
def execExtentRelease (p i : Nat) (s : State) : Host.Outcome State Fault Refusal := .next (releaseExtent s p i)

/-- More granules of a channel become scrub-pending, for partition p. -/
def addPending (p : Nat) (s : State) (c : Nat) (gs : List Nat) : State :=
  let fresh := gs.filter (fun g => !scrubPending s c g)
  match fresh with
  | [] => s
  | _ =>
    let old : List Nat := match FMap.get? s.scrub c with
      | some x => ((List.range (granules c)).drop x.next).filter (fun g => !x.ahead.contains g)
      | none => []
    let pend := old ++ fresh
    let lo := pend.foldl min (granules c)
    let hi := (List.range (granules c)).drop lo
    let s := { s with scrub := FMap.ins s.scrub c ⟨lo, hi.filter (fun g => !pend.contains g), some p⟩ }
    modPart s p (fun q => { q with desc := { q.desc with scrubPend := q.desc.scrubPend + fresh.length } })

/-- An extent's granules become scrub-pending (R426, R440). -/
def scrubRange (s : State) (p a n : Nat) : State :=
  let s := zeroRange s a (a + n)
  let s := { s with l2 := s.l2.filter (fun l => !(decide (a ≤ l.line * 128) && decide (l.line * 128 < a + n))) }
  let per := if a / 2 ^ 48 = 0 then sliceBytes else lpUsable
  let base := if a / 2 ^ 48 = 0 then 0 else 512
  let o := a % 2 ^ 48
  let cs := (List.range ((o + n - 1) / per + 1)).drop (o / per)
  if n = 0 then s
  else cs.foldl (fun s c =>
    let lo := max o (c * per)
    let hi := min (o + n) ((c + 1) * per)
    addPending p s (base + c) ((List.range ((hi - c * per) / 2097152)).drop ((lo - c * per) / 2097152))) s

/-- EXTENT_RELEASED (R440): a release completes: V := 0, and SCRUB applies. -/
def execExtentReleased (p i : Nat) (s : State) : Host.Outcome State Fault Refusal :=
  let e := extent (part s p) i
  if !hostFunction s p ∨ i ≥ 64 ∨ !e.v then .next s
  else
    let ls := trackedLines s e
    let s := setExtent { s with snoop := s.snoop.filter (fun x => !ls.contains x.line) } p i false 0
    .next (if e.scrub then scrubRange s p e.pbase e.len else s)

/-! Back-invalidate answers (R441). -/

/-- Ends a wait in every partition. -/
def endCauseAll (s : State) (c : ParkCause) : State := (s.parts.map Prod.fst).foldl (fun s p => endCause s p c) s

/-- Release events that waited on a line just given up. -/
def afterSnoop (s : State) (line : Nat) : State :=
  (s.parts.map Prod.fst).foldl (fun s p => (List.range 64).foldl (fun s i =>
    let e := extent (part s p) i
    if e.v && e.req == 2 && decide (e.pbase ≤ line * 64) && decide (line * 64 < e.pbase + e.len) && (trackedLines s e).isEmpty then
      sendOut s (extOrigin s p) (fun n => .releaseCapacity n p i) else s) s) s

/-- BIRSP (R441): the host's data, if it held the line modified, reach memory; its entry is gone, or shared after BISnpData. -/
def execBirsp (line : Nat) (data : Option (BitVec 512)) (s : State) : Host.Outcome State Fault Refusal :=
  if !s.bisnp.any (fun b => b.1 == line) then .next s
  else
    let inv := s.bisnp.any (fun b => b.1 == line && b.2)
    let s := match data with
      | some d => physWrite s none none (line * 64) (bytesOfNat 64 d.toNat)
      | none => s
    let s := { s with
      bisnp := s.bisnp.filter (fun b => b.1 != line)
      snoop := if inv then s.snoop.filter (fun x => x.line != line)
        else s.snoop.map (fun x => if x.line = line then { x with excl := false } else x) }
    let s := endCauseAll (if inv then afterSnoop s line else s) (.snoop line)
    .next ((s.parts.map Prod.fst).foldl notifyAgain s)

/-! Host requests (R438, R439, R441): they come through the function of a partition that owns a HOST port. -/

/-- The live extent that covers a range of DPA, with the physical address. -/
def dpaLook (s : State) (p dpa n : Nat) : Option (Extent × Nat) :=
  let q := part s p
  ((List.range 64).map (extent q)).findSome? (fun e =>
    if e.v && decide (e.dbase ≤ dpa) && decide (dpa + n ≤ e.dbase + e.len) then some (e, e.pbase + (dpa - e.dbase)) else none)

/-- The 64-byte lines of a range. -/
def hostLines (pa n : Nat) : List Nat := (List.range ((pa % 64 + n + 63) / 64)).map (fun k => pa / 64 + k)

/-- Entries of the snoop filter. -/
def filterSize : Nat := 2097152

/-- The line that leaves a full filter before a new one enters: the entry granted longest ago. -/
def filterVictim (s : State) (ls : List Nat) : Option Nat :=
  let fresh := ls.filter (fun ln => !s.snoop.any (fun x => x.line == ln))
  if s.snoop.length + fresh.length ≤ filterSize then none else s.snoop.head?.map (fun x => x.line)

/-- The host may now hold lines, exclusive. -/
def grantLines (s : State) (ls : List Nat) : State :=
  { s with snoop := s.snoop.filter (fun x => !ls.contains x.line) ++ ls.map (fun ln => ⟨ln, true⟩) }

/-- The L2 lookups of a host request, charged to the function's partition: a write of part of a sector reads it, as a store does
(R215, R286, R439). -/
def hostLookups (s : State) (p pa n : Nat) (wr : Bool) : State := engineLookups s p 0 none 0 pa n wr

/-- Reads bytes for a host, in plaintext (R427): sector by sector, with whether any is poisoned. -/
def hostBytes (s : State) (fuel pa n : Nat) : State × List Byte × Bool :=
  match fuel with
  | 0 => (s, [], false)
  | f + 1 =>
    if n = 0 then (s, [], false)
    else
      let k := min n (32 - pa % 32)
      let (s, b, m) := sectorRead s 0 (2 ^ 60) pa k
      let (s, bs, bad) := hostBytes s f (pa + k) (n - k)
      (s, b ++ bs, m.isSome || bad)

/-- Sends read data to a host. -/
def hostReply (s : State) (q : Requester) (b : List Byte) (bad : Bool) : State :=
  { s with outbox := s.outbox ++ [.hostData q b bad] }

/-- HOST_MEM_READ (R439, R441): a full filter first gives up its oldest entry; the request is served when the line is free. While the
extent's release is requested, a read gives the host no line to hold (R440, log 123). -/
def execHostMemRead (q : Requester) (dpa len : Nat) (s : State) : Host.Outcome State Fault Refusal :=
  let p := q.part
  if !hostFunction s p then .next s
  else match dpaLook s p dpa len with
  | none => .next (hostReply s q [] true)
  | some (e, pa) =>
    let ls := hostLines pa len
    let grants := e.coh && e.req != 2
    if e.coh && ls.any (fun ln => s.bisnp.any (fun b => b.1 == ln)) then .next s
    else
      match (if grants then filterVictim s ls else none) with
      | some ln => .next (sendSnoop s ln true)
      | none =>
        let s := hostLookups (if grants then grantLines s ls else s) p pa len false
        let (s, b, bad) := hostBytes s (len + 1) pa len
        .next (hostReply s q b bad)

/-- HOST_MEM_WRITE (R439): the bytes are stored, or discarded outside every live extent. -/
def execHostMemWrite (q : Requester) (dpa : Nat) (data : List Byte) (s : State) : Host.Outcome State Fault Refusal :=
  let p := q.part
  if !hostFunction s p then .next s
  else match dpaLook s p dpa data.length with
  | none => .next s
  | some (e, pa) =>
    if e.coh && (hostLines pa data.length).any (fun ln => s.bisnp.any (fun b => b.1 == ln)) then .next s
    else .next (physWrite (hostLookups s p pa data.length true) none none pa data)

/-- The new value of an AtomicOp. -/
def hostAtomicNew (op : AtomicOp) (bytes old : Nat) : Nat :=
  match op with
  | .fetchAdd x => (old + x.toNat) % 2 ^ (8 * bytes)
  | .swap x => x.toNat % 2 ^ (8 * bytes)
  | .cas c n => if old = c.toNat % 2 ^ (8 * bytes) then n.toNat % 2 ^ (8 * bytes) else old

/-- HOST_ATOMICOP (R442): one read-modify-write at the line's bank, after BISnpInv where the host may hold it; a poisoned target
is not written (R264). The lookups read and write the sector. -/
def execHostAtomicop (q : Requester) (dpa : Nat) (wide : Bool) (op : AtomicOp) (s : State) : Host.Outcome State Fault Refusal :=
  let p := q.part
  let n := if wide then 8 else 4
  if !hostFunction s p then .next s
  else match dpaLook s p dpa n with
  | none => .next (hostReply s q [] true)
  | some (e, pa) =>
    match (if e.coh then (hostLines pa n).find? (fun ln => s.snoop.any (fun x => x.line == ln)) else none) with
    | some ln => .next (sendSnoop s ln true)
    | none =>
      let s := hostLookups (hostLookups s p pa n false) p pa n true
      let (s, b, bad) := hostBytes s (n + 1) pa n
      let s := hostReply s q b bad
      .next (if bad then s else physWrite s none none pa (bytesOfNat n (hostAtomicNew op n (natOfBytes b))))

end Sys2Proof.Machine
end

