-- ==== Sys2Proof/Machine/Checkpoint.lean ====
section
/-! DEFINITION. Checkpoints (R452, R453): the quiesce, and 2 MiB units moved as they are stored. -/

namespace Sys2Proof.Machine

open Sys2Proof

/-- The channels of an image, in the order of its units. -/
def imageChannels (s : State) (p : Nat) (remote : Bool) : List Nat :=
  let d := (part s p).desc
  bitList d.pch ++ (if remote then (bitList d.lpch).map (· + 512) else [])

/-- Units in an image. -/
def imageUnits (s : State) (p : Nat) (remote : Bool) : Nat := ((imageChannels s p remote).map granules).sum

/-- The physical address of unit u of some channels. -/
def unitAddr : List Nat → Nat → Option Nat
  | [], _ => none
  | c :: t, u => if u < granules c then some (chanPa c (u * 2097152)) else unitAddr t (u - granules c)

/-- Sets CKPTSTAT. -/
def setCkptStat (s : State) (p units doneSeq status : Nat) (done quiet : Bool) : State :=
  modPart s p (fun q => ctlSet (ctlSet q 0xB10
    (units * 2 ^ 32 + (if done then 2 ^ 31 else 0) + (if quiet then 2 ^ 30 else 0) + status)) 0xB18 doneSeq)

/-- A checkpoint is over: GO reads 0. -/
def endCkpt (s : State) (p : Nat) : State :=
  modPart s p (fun q => { ctlSetField q 0xB00 63 1 0 with ckpt := none })

/-- Every resident workgroup of a quiesced partition is saved, or drains where no frame is free (R453). -/
def quiesceStep (s : State) (p : Nat) : State :=
  ((s.wgs.filter (fun e => e.2.part == p && preemptible e.2)).map Prod.fst).foldl (fun s g =>
    match freeFrame s p with
    | (s, some f) => beginSave (takeFrame s p) g f false
    | (s, none) => modWg s g (fun x => { x with drain := some s.now })) s

/-- Starts a checkpoint (R453). -/
def startCkpt (s : State) (p : Nat) (restore remote : Bool) (dest : Nat) : State :=
  let q := part s p
  if q.ckpt.isSome then s
  else
    let n := imageUnits s p remote
    let a := dest % 2 ^ 50 / 2097152 * 2097152
    if !rangeOwned s p a (n * 2097152) then setCkptStat (endCkpt s p) p 0 0 1 true false
    else
      let s := setCkptStat s p n 0 0 false false
      let s := modPart s p (fun q => { ctlSetField q 0xB00 63 1 1 with
        ckpt := some ⟨restore, remote, a, 0, n, false⟩, quiesce := true })
      quiesceStep s p

/-- CHECKPOINT_SAVE (R453). -/
def execCheckpointSave (p : Nat) (remote : Bool) (dest : Nat) (s : State) : Host.Outcome State Fault Refusal :=
  .next (startCkpt s p false remote dest)

/-- CHECKPOINT_RESTORE (R453). -/
def execCheckpointRestore (p : Nat) (remote : Bool) (dest : Nat) (s : State) : Host.Outcome State Fault Refusal :=
  .next (startCkpt s p true remote dest)

/-- Lifts the quiesce once the checkpoint is done (R452). -/
def resumeCkpt (s : State) (p : Nat) : State :=
  if (part s p).ckpt.isSome then s else modPart s p (fun q => { q with quiesce := false })

/-- CHECKPOINT_RESUME (R452). -/
def execCheckpointResume (p : Nat) (s : State) : Host.Outcome State Fault Refusal := .next (resumeCkpt s p)

/-- The listed entries of a range, moved by to − from. -/
def moveEntries {α : Type} (m : List (Nat × α)) (from' to' n : Nat) : List (Nat × α) :=
  let moved := (m.filter (fun e => decide (from' ≤ e.1) && decide (e.1 < from' + n))).map (fun e => (e.1 - from' + to', e.2))
  m.filter (fun e => decide (e.1 < to')) ++ moved ++ m.filter (fun e => decide (to' + n ≤ e.1))

/-- Moves one 2 MiB unit as it is stored, with its poison (R453). -/
def moveUnit (s : State) (p from' to' : Nat) : State :=
  let n := 2097152
  let s := scrubAt (scrubAt s from') to'
  let s := chargeAtoms (chargeAtoms s from' p (n / 32)) to' p (n / 32)
  let s := ((s.pevents.filter (fun e => decide (to' / 32 ≤ e.sector) && decide (e.sector < (to' + n) / 32) &&
    (FMap.get? s.poison (e.sector - to' / 32 + from' / 32)).isNone)).map (fun e => e.sector)).foldl endEvent s
  let s := atomsClean (atomsRead (farDone s to' (to' + n)) from' (from' + n)) to' (to' + n)
  { s with
    mem := moveEntries s.mem from' to' n
    poison := moveEntries s.poison (from' / 32) (to' / 32) (n / 32)
    l2 := s.l2.filter (fun l => !(decide (to' ≤ l.line * 128) && decide (l.line * 128 < to' + n))) }

/-- Writes back every dirty line of a partition's banks (R453). -/
def cleanPart (s : State) (p : Nat) : State :=
  let s' := (s.l2.filter (inBanks s p)).foldl writeBackLine s
  { s' with l2 := s'.l2.map (fun l => if inBanks s p l then cleanLine l else l) }

/-- One step of a checkpoint: the quiesce, then a unit, then the end. -/
def ckptStep (s : State) (p : Nat) (c : Ckpt) : State :=
  if !c.quiet then
    if s.wgs.any (fun e => e.2.part == p) then quiesceStep s p
    else
      let s := cleanPart (setCkptStat s p c.units 0 0 false true) p
      modPart s p (fun q => { q with ckpt := some { c with quiet := true } })
  else if c.done ≥ c.units then setCkptStat (endCkpt s p) p c.units c.done 0 true true
  else
    match unitAddr (imageChannels s p c.remote) c.done with
    | none => setCkptStat (endCkpt s p) p c.units c.done 0 true true
    | some a =>
      let b := c.dest + c.done * 2097152
      if paLost s b || paLost s a then setCkptStat (endCkpt s p) p c.units c.done 2 true true
      else
        let s := if c.restore then moveUnit s p b a else moveUnit s p a b
        let s := setCkptStat s p c.units (c.done + 1) 0 false true
        modPart s p (fun q => { q with ckpt := some { c with done := c.done + 1 } })

/-- CHECKPOINT_UNIT (R453). -/
def execCheckpointUnit (p : Nat) (s : State) : Host.Outcome State Fault Refusal :=
  match (part s p).ckpt with
  | none => .next s
  | some c => .next (ckptStep s p c)

end Sys2Proof.Machine
end

