-- ==== Sys2Proof/Machine/Lodge.lean ====
section
/-! DEFINITION. The Lodge (R424, R425): starting a thread, its queue, and the records the device writes there. -/

namespace Sys2Proof.Machine

open Sys2Proof

/-- A workgroup with nothing in it, of a partition and context. -/
def blankWg (p c : Nat) : Wg where
  part := p
  ctx := c
  launch := 0
  index := 0
  core := 0
  btrack := 0
  record := 0
  phase := .running
  startParks := []
  startDenied := []
  spadBytes := 0
  spad := []
  spadPoison := []
  chunks := []
  regions := []
  retired := 0
  slice := 0
  stall := 0
  drain := none
  saving := none
  raised := 0
  kept := none
  killed := false
  killLevel := 0

/-- No workgroup: the number that a Lodge thread carries. -/
def noWg : Nat := 2 ^ 64

/-- The place of a Lodge thread. -/
def lodgePlace (j : Nat) : Nat := 9216 + j

/-- ENTRY of LTCTLj. -/
def lodgeEntry (q : Part) (j : Nat) : Dword := BitVec.ofNat 64 (ctlWord q (0x3808 + 16 * j) / 8 * 8)

/-- A Lodge thread as it starts: one lane at ENTRY with its registers reset (R12, R425), in the partition's first context. -/
def lodgeThread (s : State) (p j : Nat) : Warp :=
  let q := part s p
  { newWarp (blankWg p q.desc.ctxBase) noWg 0 0 false (Vector.replicate 32 0) 1 (lodgeEntry q j) with floor := 256 }

/-- Starts a thread that does not run. -/
def startThread (s : State) (p j : Nat) : State :=
  if !ownsThread s p j || s.lodgeRun.getLsbD j then s
  else { setWarp s (lodgePlace j) (lodgeThread s p j) with lodgeRun := s.lodgeRun ||| (1#64) <<< j }

/-- LODGE_START (R425): a write of 1 to RUN. -/
def execLodgeStart (p j : Nat) (s : State) : Host.Outcome State Fault Refusal := .next (startThread s p j)

/-! Queues. -/

/-- LODGE_QUEUE_NOTIFY (R425). -/
def execLodgeQueueNotify (p j : Nat) (tail : BitVec 16) (s : State) : Host.Outcome State Fault Refusal :=
  .next (lodgeNotify s p j tail.toNat)

/-- The thread that LQSEL names for a queue. -/
def queueThread (q : Part) (errorQueue : Bool) : Nat := ctlField q 0x600 (if errorQueue then 8 else 0) 6

/-- The records that wait for a queue. -/
def queueOf (q : Part) (errorQueue : Bool) : List (BitVec 256) := if errorQueue then q.errQ else q.faultQ

/-- A record can be written: the thread is the partition's, its ring is set up and not full. -/
def queueRoom (s : State) (p : Nat) (errorQueue : Bool) : Bool :=
  let q := part s p
  let j := queueThread q errorQueue
  let r := lodgeRing q j
  ownsThread s p j && r.base != 0 && r.count != 2 ^ r.size

/-- Writes the oldest record of a queue, once hosts have given up the lines of its entry and of the ring's header (R441). -/
def writeQueued (s : State) (p : Nat) (errorQueue : Bool) : State :=
  let q := part s p
  match queueOf q errorQueue with
  | [] => s
  | b :: t =>
    if !queueRoom s p errorQueue then s
    else
      let j := queueThread q errorQueue
      let r := lodgeRing q j
      let a := r.base + 32 + 32 * (r.tail % 2 ^ r.size)
      match (snoopPhys s true a 32).orElse (fun _ => snoopPhys s true r.base 4) with
      | some ln => sendSnoop s ln true
      | none =>
      let s := modPart s p (fun q => if errorQueue then { q with errQ := t } else { q with faultQ := t })
      let s := physWrite (engineLookups s p 0 none 0 a 32 true) (some p) none a (bytesOfNat 32 b.toNat)
      setLodgeTail s p j ((r.tail + 1) % 65536)

/-- LODGE_RECORD_WRITE (R225, R374, R425). -/
def execLodgeRecordWrite (p : Nat) (errorQueue : Bool) (s : State) : Host.Outcome State Fault Refusal :=
  .next (writeQueued s p errorQueue)

end Sys2Proof.Machine
end

