-- ==== Sys2Proof/Machine/RegisterWrite.lean ====
section
/-! DEFINITION. Writes of the registers of a partition's control block (R7, R218, R219, R223, R226, R228, R344, R345, R353, R375,
R376, R404, R414, R422, R425, R430, R437, R440, R444, R452), by TIER-3 stores, hosts and the management interface. -/

namespace Sys2Proof.Machine

open Sys2Proof

/-- The bits of x that a mask keeps, over those of old that it does not. -/
def blend (old x mask : Nat) : Nat := (old &&& not64 mask) ||| (x &&& mask)

/-- n bits from lo. -/
def field (lo n : Nat) : Nat := (2 ^ n - 1) * 2 ^ lo

/-- A register word whose fields are all RW. -/
def plainWrite (p off rw : Nat) (s : State) (x mask : Nat) : State :=
  modPart s p (fun q => ctlSet q off (blend (ctlWord q off) x (mask &&& rw)))

/-- The word of a ring that holds BASE and RTIER: RTIER takes 0 and 1 alone (R228, R345). -/
def ringBase (p off lowBit : Nat) (s : State) (x mask : Nat) : State :=
  let rw := field lowBit (48 - lowBit)
  let v := blend (ctlWord (part s p) off) x mask
  plainWrite p off (if bits v 48 2 < 2 then rw + field 48 2 else rw) s x mask

/-- A word of RETREGi (R218): a register that stops being active, or changes while it is active, first gives up its lines. -/
def writeRetreg (p i off rw : Nat) (s : State) (x mask : Nat) : State :=
  let old := retReg (part s p) i
  let s' := plainWrite p off rw s x mask
  if old.en && retReg (part s' p) i != old then dropIndex s' p i else s'

/-- TLBINV (R223): SCOPE 3 is ignored. A write of a part of the register keeps the rest as it stands when the write takes
effect. -/
def writeTlbinv (p : Nat) (s : State) (x mask : Nat) : State :=
  let v := blend (((part s p).tlbinv.getLast?.map tlbinvBits).getD (ctlWord (part s p) 0x110)) x mask
  if bits v 62 2 = 3 then s else tlbinvWrite s p (bits v 62 2) (bits v 50 12) (bits v 0 45)

/-- FAULTDONE's first word (R226): it acts when the write covers it whole. -/
def writeFaultdone (p : Nat) (s : State) (x mask : Nat) : State :=
  if mask ≠ 2 ^ 64 - 1 then s
  else
    let s := plainWrite p 0x120 (field 48 16 + 3) s x mask
    let oseq := ctlWord (part s p) 0x128
    let res := bits x 0 2
    if res = 1 then faultDone s p (bits x 48 16) oseq true
    else if res = 2 then faultDone s p (bits x 48 16) oseq false
    else s

/-- CHCTL (R353). -/
def writeChctl (p : Nat) (s : State) (x mask : Nat) : State :=
  let s := plainWrite p 0x300 (field 0 48) s x mask
  modPart s p (fun q => ctlSetField q 0x300 32 16 (max 64 (ctlField q 0x300 32 16)))

/-- PRECTL (R404). -/
def writePrectl (p : Nat) (s : State) (x mask : Nat) : State :=
  let s := plainWrite p 0x510 (field 0 55) s x mask
  modPart s p (fun q => ctlSetField q 0x510 48 7 (min 100 (ctlField q 0x510 48 7)))

/-- PCMD's first word (R430). -/
def writePcmd (p : Nat) (s : State) (x mask : Nat) : State :=
  let s := plainWrite p 0x700 (field 0 8) s x mask
  if (x &&& mask).testBit 63 then submitPcmd s p else s

/-- CKPT's first word (R452). -/
def writeCkpt (p : Nat) (s : State) (x mask : Nat) : State :=
  let s := plainWrite p 0xB00 (field 60 2) s x mask
  let s := if (x &&& mask).testBit 62 then resumeCkpt s p else s
  if (x &&& mask).testBit 63 then
    let q := part s p
    startCkpt s p (ctlField q 0xB00 61 1 == 1) (ctlField q 0xB00 60 1 == 1) (ctlField q 0xB08 0 29 * 2097152)
  else s

/-- Word k of EXTi (R440): fields other than REQ take no write while the extent is live or a request is in progress; word 1 has none
that takes one. -/
def writeExtent (p i k : Nat) (s : State) (x mask : Nat) : State :=
  let e := extent (part s p) i
  let rw := match k with
    | 0 => field 21 23
    | 2 => field 0 27
    | 3 => field 57 4 + field 0 48
    | _ => 0
  let s := if e.v || e.req != 0 || k == 1 then s else plainWrite p (0x1000 + 32 * i + 8 * k) rw s x mask
  if k = 3 then
    (match bits (x &&& mask) 61 2 with
      | 1 => offerExtent s p i
      | 2 => releaseExtent s p i
      | _ => s)
  else s

/-- Word k of SESSi (R444). -/
def writeSession (p i k : Nat) (s : State) (x mask : Nat) : State :=
  match k with
  | 1 => plainWrite p (0x2000 + 64 * i + 8) (field 42 19) s x mask
  | 4 => plainWrite p (0x2000 + 64 * i + 32) (field 12 45) s x mask
  | _ => s

/-- A word of a Lodge thread's registers (R425). -/
def writeLodge (p j off : Nat) (s : State) (x mask : Nat) : State :=
  if !ownsThread s p j then s
  else if off ≥ 0x3800 then
    if off % 16 = 8 then
      let s := plainWrite p off (field 3 61) s x mask
      if (x &&& mask).testBit 0 then startThread s p j else s
    else s
  else
    match off % 32 with
    | 0 => plainWrite p off (field 5 45) s x mask
    | 8 => plainWrite p off (field 48 16 + field 0 4) s x mask
    | 16 => lodgeNotify s p j (bits (blend (ctlWord (part s p) off) x mask) 0 16)
    | _ => s

/-- The word below offset 0x1000 at an offset. -/
def writeLow (p off : Nat) (s : State) (x mask : Nat) : State :=
  let k := off % 16
  if off = 0x100 then writeL2rctl p s (blend (ctlWord (part s p) off) x mask)
  else if off = 0x110 then writeTlbinv p s x mask
  else if off = 0x120 then writeFaultdone p s x mask
  else if off = 0x128 ∨ off = 0x708 then plainWrite p off (field 0 64) s x mask
  else if 0x140 ≤ off ∧ off < 0x170 then
    if k = 0 then ringBase p off 3 s x mask else plainWrite p off (field 32 16 + field 0 4) s x mask
  else if 0x200 ≤ off ∧ off < 0x280 then
    writeRetreg p ((off - 0x200) / 16) off (if k = 0 then field 12 45 else field 63 1 + field 48 12 + field 0 45) s x mask
  else if off = 0x300 then writeChctl p s x mask
  else if off = 0x310 then ringBase p off 6 s x mask
  else if 0x400 ≤ off ∧ off < 0x480 then
    if k = 0 then ringBase p off 7 s x mask else plainWrite p off (field 0 4) s x mask
  else if 0x480 ≤ off ∧ off < 0x4C0 then
    notifyQueue s p ((off - 0x480) / 8) (bits (blend (ctlWord (part s p) off) x mask) 0 16)
  else if off = 0x500 then plainWrite p off (field 28 4 + field 0 4) s x mask
  else if off = 0x508 then plainWrite p off (field 3 54) s x mask
  else if off = 0x510 then writePrectl p s x mask
  else if off = 0x518 then ringBase p off 3 s x mask
  else if off = 0x520 then plainWrite p off (field 32 16 + field 0 4) s x mask
  else if off = 0x600 then plainWrite p off (field 8 6 + field 0 6) s x mask
  else if off = 0x700 then writePcmd p s x mask
  else if 0xA00 ≤ off ∧ off < 0xA60 ∧ k = 0 then
    if (x &&& mask).testBit 29 then clearPort s p ((off - 0xA00) / 16) else s
  else if off = 0xB00 then writeCkpt p s x mask
  else if off = 0xB08 then plainWrite p off (field 0 29) s x mask
  else s

/-- A write of the 64-bit word at an offset, a multiple of 8; `mask` holds the bits that the access carries. -/
def wordWrite (p off : Nat) (s : State) (x mask : Nat) : State :=
  if mask = 0 then s
  else if off < 0x1000 then writeLow p off s x mask
  else if off < 0x1800 then writeExtent p ((off - 0x1000) / 32) (off % 32 / 8) s x mask
  else if 0x2000 ≤ off ∧ off < 0x3000 then writeSession p ((off - 0x2000) / 64) (off % 64 / 8) s x mask
  else
    match lodgeReg off with
    | some j => writeLodge p j off s x mask
    | none => s

/-- A write of n bytes at an offset. The words of a register are written together: the one whose write acts comes last. -/
def ctlWrite (s : State) (p off n v : Nat) : State :=
  let base := off / 8 * 8
  let sh := 8 * (off - base)
  let x := v % 2 ^ (8 * n) * 2 ^ sh
  let m := (2 ^ (8 * n) - 1) * 2 ^ sh
  let ks := List.range ((off % 8 + n + 7) / 8)
  let ks := if 0x1000 ≤ off ∧ off < 0x1800 then ks else ks.reverse
  ks.foldl (fun s k => wordWrite p (base + 8 * k) s (bits x (64 * k) 64) (bits m (64 * k) 64)) s

/-- REGISTER_WRITE (R7, R422, R423). -/
def execRegisterWrite (p off size : Nat) (v : BitVec 128) (s : State) : Host.Outcome State Fault Refusal :=
  .next (if off + size ≤ 65536 ∧ size ≤ 16 then ctlWrite s p off size v.toNat else s)

/-! DBGMEM (R461). -/

/-- The bytes that a DBGMEM moves. -/
def dbgLen (op : DbgOp) : Nat :=
  match op with
  | .read n => n
  | .write d => d.length

/-- DBGMEM of memory: a relaxed access at .SYS, bytes as they are stored. -/
def dbgMemory (s : State) (p a : Nat) (op : DbgOp) : State :=
  match op with
  | .read n => let (s, b, _) := physBytes (engineLookups s p 0 none 0 a n false) (some p) a n; reply s 0 b
  | .write d => reply (physWrite (engineLookups s p 0 none 0 a d.length true) (some p) none a d) 0 []

/-- A DBGMEM access of memory waits for a line that a host must give up first (R441, R461). -/
def dbgSnoop (s : State) (q : Auth) (p : Nat) (control : Bool) (a : Nat) (op : DbgOp) : Option Nat :=
  let wr := match op with
    | .read _ => false
    | .write _ => true
  if control || !(admitRequest s q).2 || !(part s p).desc.dbg || !rangeOwned s p a (dbgLen op) then none
  else snoopPhys s wr a (dbgLen op)

/-- DBGMEM of the control block, by words. -/
def dbgControl (s : State) (p a : Nat) (op : DbgOp) : State :=
  match op with
  | .read n => reply s 0 ((List.range (n / 8)).flatMap (fun k => bytesOfNat 8 (blockWord s p (a + 8 * k))))
  | .write d =>
    reply ((List.range (d.length / 8)).foldl (fun s k =>
      ctlWrite s p (a + 8 * k) 8 (natOfBytes ((d.drop (8 * k)).take 8))) s) 0 []

/-- DBGMEM (R461): DENIED unless DBG is 1, BADARG outside what the partition owns. -/
def execDbgmem (q : Auth) (p : Nat) (control : Bool) (a : Nat) (op : DbgOp) (s : State) : Host.Outcome State Fault Refusal :=
  match dbgSnoop s q p control a op with
  | some ln => .next (sendSnoop s ln (match op with
      | .read _ => false
      | .write _ => true))
  | none => .next (onRequest s q (fun s =>
    let n := dbgLen op
    if !(part s p).desc.dbg then reply s 2 []
    else if n < 8 ∨ n > 64 then reply s 1 []
    else if control then
      (if a % 8 ≠ 0 ∨ n % 8 ≠ 0 ∨ a + n > 65536 then reply s 1 [] else dbgControl s p a op)
    else if !rangeOwned s p a n then reply s 1 []
    else dbgMemory s p a op))

end Sys2Proof.Machine
end

