-- ==== Sys2Proof/Machine/Ready.lean ====
section
/-! DEFINITION. Readiness and choice (R171 to R173, R394): what a group's next word is, whether it waits, which group and warp
issue next, and the diversion of a handler warp. -/

namespace Sys2Proof.Machine

open Sys2Proof

/-! The next word of a group (R85, R94, R96, R154, R226). -/

/-- What fetching a group's next word gives. -/
inductive Got where
  | word (x : Instr) (len : Nat)
  | park (c : ParkCause)
  | trap (t : Trap) (len : Nat)
  deriving DecidableEq, Repr

/-- Decodes a fetched word for a group. -/
def gotWord (pl : Nat) (m : Mask) (x lit : Dword) (len : Nat) : Got :=
  match decodeWord (isLodge pl) x lit with
  | .ok i => .word i len
  | .error r => .trap ⟨1, r.check.detail, r.opnd, r.low, m, []⟩ len

/-- Fetches the word of a group, with its literal (R85, R154). -/
def groupFetch (s : State) (pl : Nat) (w : Warp) (pc : Dword) (m : Mask) : State × Got :=
  match fetchDenied w m pc with
  | some d => (s, .trap ⟨6, d.kind, 0, false, d.mask &&& m, []⟩ 1)
  | none =>
    match fetchAt s pl w pc with
    | (s, .park c) => (s, .park c)
    | (s, .trap c d o) => (s, .trap ⟨c, d, o, false, m, []⟩ 1)
    | (s, .word x) =>
      if wordLength x = 1 then (s, gotWord pl m x 0 1)
      else
        match fetchAt s pl w (pc + 8) with
        | (s, .park c) => (s, .park c)
        | (s, .trap c d o) => (s, .trap ⟨c, d, o, false, m, []⟩ 1)
        | (s, .word lit) => (s, gotWord pl m x lit 2)

/-- The guard of a word. -/
def guardOfInstr (x : Instr) : Guard :=
  match formOf x with
  | .f _ f => f.guard
  | .m _ m => m.guard
  | .b _ b => b.guard
  | _ => Guard.always

/-- The waits that an instruction has of its own (R171). -/
def ownWait (x : Instr) (s : State) (i : Iss) : Bool :=
  match x with
  | .tret _ => tretWait s i
  | .movxRead f => movxWait false f s i
  | .movxWrite f => movxWait true f s i
  | .wsync f => wsyncWait f s i
  | .bar _ => fpWait s i
  | .reform b => reformWait b s i
  | .waitv _ => waitvWait s i
  | .fence f => fenceWait f s i
  | .copy f => engineFull (.copy f) s i
  | .copyo f => engineFull (.copyo f) s i
  | .cwait f => cwaitWait f s i
  | .waitp f => waitpWait f s i
  | .barw f => barwWait f s i
  | .tld _ | .tst _ | .tzero _ | .mma _ | .mloop _ | .mvloop _ | .mgenIdent _ | .mgenOnes _ | .mgenPerm _ | .accz _ | .accld _
  | .accst _ | .accrd _ => matWait s i
  | .mwait f => mwaitWait f s i
  | .spawn _ | .spawnj _ => spawnWait s i
  | .uiwait _ => uiWaiting i
  | .uiret _ => uiRetWait s i
  | _ => false

/-- The pool has no room for the word's new registers, and its issue would spill no victim: none is left, or the one spilled for it is
still moving its entries (R176). -/
def allocWait (s : State) (i : Iss) (x : Instr) : Bool :=
  let rs := (destsOf x).1
  let w := release i.w i.whole (lastUses x) rs
  i.l != 0#32 && !rs.isEmpty && !poolRoom s i.place i.pc w rs &&
    (let ws := poolWarps s i.place w
     (shortBank ws i.place i.pc w rs).any (fun b => allocPending ws w i.pc b || (spillVictim ws b).isNone))

/-- An issue of a group, seen under its word's guard. -/
def issAt (s : State) (pl : Nat) (m : Mask) (pc : Dword) (len : Nat) (x : Instr) : Option Iss :=
  issOf { s with cur := some ⟨pl, m, pc, len⟩ } (guardOfInstr x)

/-- A group's word is not held back by a condition of R171; a word that cannot be fetched or decoded is taken up at once. -/
def gotReady (s : State) (pl : Nat) (m : Mask) (pc : Dword) (g : Got) : Bool :=
  match g with
  | .park _ | .trap _ _ => true
  | .word x len =>
    match issAt s pl m pc len x with
    | none => false
    | some i => !(operandsWait i.w x || ownWait x s i || allocWait s i x)

/-- The group stands at the LEND of an active level and is not complete (R156). -/
def atLendWait (s : State) (pl : Nat) (m : Mask) (pc : Dword) : Bool :=
  match issAt s pl m pc 1 .issueAtLend with
  | some i => lendWait i
  | none => false

/-- A YIELD of the warp's workgroup is being applied (R358). -/
def yieldSaves (s : State) (w : Warp) : Bool := ((wg? s w.wg).bind (fun x => x.saving)).any (fun e => e.2)

/-- A YIELD that issues while another of its workgroup is being applied is absorbed; any other word then waits for the save (R358). -/
def heldByYield (s : State) (w : Warp) (g : Got) : Bool :=
  yieldSaves s w &&
    (match g with
      | .word (.yield _) _ => false
      | _ => true)

/-- A group is ready (R171). -/
def groupReady (s : State) (pl : Nat) (w : Warp) (g : Dword × Mask) : Bool :=
  !atLendWait s pl g.2 g.1 && !heldByYield s w (groupFetch s pl w g.1 g.2).2 &&
    gotReady s pl g.2 g.1 (groupFetch s pl w g.1 g.2).2

/-- The warp may issue: it is not parked, its workgroup runs and is not being saved but by a YIELD; a Lodge thread runs. A fatal error
stops all issue (R171, R186, R358, R415, R425, R459, R478). -/
def mayIssue (s : State) (pl : Nat) (w : Warp) : Bool :=
  !s.fatal && !warpParked w && decide (w.readyAt ≤ s.now) && !starting w &&
    (if isLodge pl then s.lodgeRun.getLsbD (pl - 9216)
     else match wg? s w.wg with
      | some x => x.phase == .running && x.saving.all (fun e => e.2) && !x.killed
      | none => false)

/-- The ready groups of a warp, lowest PC first. -/
def readyGroups (s : State) (pl : Nat) (w : Warp) : List (Dword × Mask) :=
  if mayIssue s pl w then (groupsOf w).filter (groupReady s pl w) else []

/-- A warp is ready (R171). -/
def warpReady (s : State) (e : Nat × Warp) : Bool :=
  mayIssue s e.1 e.2 && (groupsOf e.2).any (groupReady s e.1 e.2)

/-! Rotation (R172). -/

/-- The lowest lane of a group. -/
def leadOf (g : Dword × Mask) : Option Lane := Mask.low? g.2

/-- The step of the oldest last issue among a group's lanes. -/
def oldestIssue (w : Warp) (g : Dword × Mask) : Nat :=
  g.2.lanes.foldl (fun n l => min n w.lastIssue[l]) (2 ^ 64)

/-- The group that the next issue goes to after a run of 256: not the run's, and the one that has waited longest,
of equals the one of the lowest PC, which is the model's choice (log 109). -/
def rotationGroup (s : State) (pl : Nat) (w : Warp) : Option (Dword × Mask) :=
  ((readyGroups s pl w).filter (fun g => leadOf g != w.lastLead)).foldl (fun b g =>
    match b with
    | none => some g
    | some h => if oldestIssue w g < oldestIssue w h then some g else some h) none

/-- RUN has reached 256: the next issue is for another ready group, if there is one. -/
def markRotation (s : State) (pl : Nat) : State :=
  match warp? s pl with
  | none => s
  | some w =>
    if w.run < 256 ∨ w.forced.isSome then s
    else
      match rotationGroup s pl w with
      | some g => modWarp s pl (fun w => { w with forced := leadOf g })
      | none => s

/-- ROTATION (R172). -/
def execRotation (pl : Nat) (s : State) : Host.Outcome State Fault Refusal := .next (markRotation s pl)

/-- The group of a warp that issues next: the one that rotation names while it is ready, else that of the lowest PC. -/
def chooseGroup (w : Warp) (rs : List (Dword × Mask)) : Option (Dword × Mask) :=
  match w.forced with
  | some l => (rs.find? (fun g => leadOf g == some l)).orElse (fun _ => rs.head?)
  | none => rs.head?

/-! Handler warps (R394). -/

/-- A group may be diverted: it is ready, or it waits at WAITV, WAITP, BARW, CWAIT or MWAIT; never at a LEND. -/
def divertible (s : State) (pl : Nat) (w : Warp) (g : Dword × Mask) : Bool :=
  !w.loops.any (fun v => v.last == g.1) &&
    (match (groupFetch s pl w g.1 g.2).2 with
      | .word x len =>
        (match issAt s pl g.2 g.1 len x with
          | none => false
          | some i =>
            !operandsWait i.w x &&
              (!(ownWait x s i || allocWait s i x) ||
                (match x with
                  | .waitv _ | .waitp _ | .barw _ | .cwait _ | .mwait _ => true
                  | _ => false)))
      | _ => true)

/-- The UIWAIT at which a group of the warp waits; it is ready once it has been notified (R394, R400). -/
def uiWaitOf (w : Warp) : Option Wait := w.waits.find? (fun x => x.kind == .uiwait)

/-- The group that a diversion takes. -/
def divertGroup (s : State) (pl : Nat) (w : Warp) : Option (Dword × Mask) :=
  if w.uivec = 0#64 ∨ w.uiin ∨ w.intrap then none else (groupsOf w).find? (divertible s pl w)

/-- The handler warp holds a deliverable user interrupt: where a group waits at UIWAIT, that group is the one served, once it has been
notified (R394). -/
def deliverable (s : State) (pl : Nat) (w : Warp) : Bool :=
  claimNames s pl w && uiDeliverable s w.part w.ctx != 0 && w.svclane.isNone && mayIssue s pl w && !yieldSaves s w &&
    (match uiWaitOf w with
      | some x => x.done != 0#32
      | none => (divertGroup s pl w).isSome)

/-- Diverts a group to UIVEC: the vector accepted first is taken (R394). -/
def divert (s : State) (pl : Nat) (w : Warp) (g : Dword × Mask) (v : Nat) : State :=
  let sys := (uiSys s w.ctx).testBit v
  let (s, _) := uiTake s w.part w.ctx v
  modWarp (uiDelivered s pl w.part sys) pl (fun w =>
    { jump (endWaits w g.2) g.2 (fun _ => w.uivec) with uiepc := g.1, uiin := true, uentry := g.2 })

/-- UI_DIVERSION (R394): a group at UIWAIT completes it, else a group is diverted. -/
def execUiDiversion (pl : Nat) (s : State) : Host.Outcome State Fault Refusal :=
  match warp? s pl with
  | none => .next s
  | some w =>
    if !deliverable s pl w then .next s
    else
      match uiWaitOf w with
      | some x =>
        (match x.word, x.mask.low? with
          | .uiwait f, some l => execUiwait f { s with cur := some ⟨pl, uiGroup w x, w.pc[l], 1⟩ }
          | _, _ => .next s)
      | none =>
        match divertGroup s pl w, uiFirst s w.part w.ctx with
        | some g, some v =>
          (match (groupFetch s pl w g.1 g.2).2 with
            | .word (.uiwait f) len => execUiwait f { s with cur := some ⟨pl, g.2, g.1, len⟩ }
            | _ => .next (divert s pl w g v))
        | _, _ => .next s

/-! Warps of a track (R173). -/

/-- The warp has taken no cycle by priority in the previous 63 cycles of its track. -/
def prioFree (t : Track) (w : Warp) : Bool := w.lastPrio == 0 || decide (t.cycle + 1 ≥ w.lastPrio + 64)

/-- The oldest handler warp with a deliverable interrupt (priority 1). -/
def handlerPick (s : State) (core track : Nat) : Option (Nat × Warp) :=
  (byAge (trackWarps s core track)).find? (fun e =>
    prioFree (trackSt s core track) e.2 && deliverable s e.1 e.2)

/-- The oldest ready warp whose WAITC is 64 or more (priority 2). -/
def waitcPick (s : State) (core track : Nat) : Option (Nat × Warp) :=
  (byAge (trackWarps s core track)).find? (fun e => decide (e.2.waitc ≥ 64) && warpReady s e)

/-- The oldest ready warp (priority 3). -/
def oldestPick (s : State) (core track : Nat) : Option (Nat × Warp) := (byAge (trackWarps s core track)).find? (warpReady s)

/-- WAITC_PRIORITY (R173): where a warp has waited 64 cycles, the track picks now, and picks it. -/
def execWaitcPriority (core track : Nat) (s : State) : Host.Outcome State Fault Refusal :=
  match waitcPick s core track with
  | some _ => .next { s with agenda := .track core track :: s.agenda }
  | none => .next s

end Sys2Proof.Machine
end

