-- ==== Sys2Proof/Machine/Dispatch.lean ====
section
/-! DEFINITION. The meaning of each instruction and step: one arm each. -/

namespace Sys2Proof.Machine

open Sys2Proof

def exec (i : Instr) (s : State) : Host.Outcome State Fault Refusal :=
  match i with
  | .iadd x => Sys2Proof.Machine.execIadd x s
  | .iaddc x => Sys2Proof.Machine.execIaddc x s
  | .isub x => Sys2Proof.Machine.execIsub x s
  | .isubb x => Sys2Proof.Machine.execIsubb x s
  | .imul x => Sys2Proof.Machine.execImul x s
  | .imulh x => Sys2Proof.Machine.execImulh x s
  | .imad x => Sys2Proof.Machine.execImad x s
  | .imadw x => Sys2Proof.Machine.execImadw x s
  | .idiv x => Sys2Proof.Machine.execIdiv x s
  | .irem x => Sys2Proof.Machine.execIrem x s
  | .iabs x => Sys2Proof.Machine.execIabs x s
  | .ineg x => Sys2Proof.Machine.execIneg x s
  | .imin x => Sys2Proof.Machine.execImin x s
  | .imax x => Sys2Proof.Machine.execImax x s
  | .isad x => Sys2Proof.Machine.execIsad x s
  | .lea x => Sys2Proof.Machine.execLea x s
  | .idp4 x => Sys2Proof.Machine.execIdp4 x s
  | .idp2 x => Sys2Proof.Machine.execIdp2 x s
  | .and x => Sys2Proof.Machine.execAnd x s
  | .or x => Sys2Proof.Machine.execOr x s
  | .xor x => Sys2Proof.Machine.execXor x s
  | .andn x => Sys2Proof.Machine.execAndn x s
  | .orn x => Sys2Proof.Machine.execOrn x s
  | .shl x => Sys2Proof.Machine.execShl x s
  | .shr x => Sys2Proof.Machine.execShr x s
  | .sar x => Sys2Proof.Machine.execSar x s
  | .rot x => Sys2Proof.Machine.execRot x s
  | .fsh x => Sys2Proof.Machine.execFsh x s
  | .bfe x => Sys2Proof.Machine.execBfe x s
  | .bfi x => Sys2Proof.Machine.execBfi x s
  | .popc x => Sys2Proof.Machine.execPopc x s
  | .clz x => Sys2Proof.Machine.execClz x s
  | .ctz x => Sys2Proof.Machine.execCtz x s
  | .brev x => Sys2Proof.Machine.execBrev x s
  | .bswz x => Sys2Proof.Machine.execBswz x s
  | .blut x => Sys2Proof.Machine.execBlut x s
  | .icmp x => Sys2Proof.Machine.execIcmp x s
  | .sel x => Sys2Proof.Machine.execSel x s
  | .mov x => Sys2Proof.Machine.execMov x s
  | .movl x => Sys2Proof.Machine.execMovl x s
  | .cvti x => Sys2Proof.Machine.execCvti x s
  | .p2v x => Sys2Proof.Machine.execP2v x s
  | .v2p x => Sys2Proof.Machine.execV2p x s
  | .iclamp x => Sys2Proof.Machine.execIclamp x s
  | .plut x => Sys2Proof.Machine.execPlut x s
  | .pairedWord x y => Sys2Proof.Machine.execPairedWord x y s
  | .fadd x => Sys2Proof.Machine.execFadd x s
  | .fsub x => Sys2Proof.Machine.execFsub x s
  | .fmul x => Sys2Proof.Machine.execFmul x s
  | .ffma x => Sys2Proof.Machine.execFfma x s
  | .fmin x => Sys2Proof.Machine.execFmin x s
  | .fmax x => Sys2Proof.Machine.execFmax x s
  | .fminm x => Sys2Proof.Machine.execFminm x s
  | .fmaxm x => Sys2Proof.Machine.execFmaxm x s
  | .fcmp x => Sys2Proof.Machine.execFcmp x s
  | .fclass x => Sys2Proof.Machine.execFclass x s
  | .fsgn x => Sys2Proof.Machine.execFsgn x s
  | .fscale x => Sys2Proof.Machine.execFscale x s
  | .frnd x => Sys2Proof.Machine.execFrnd x s
  | .fdot2 x => Sys2Proof.Machine.execFdot2 x s
  | .fdot4 x => Sys2Proof.Machine.execFdot4 x s
  | .fadd2 x => Sys2Proof.Machine.execFadd2 x s
  | .fmul2 x => Sys2Proof.Machine.execFmul2 x s
  | .ffma2 x => Sys2Proof.Machine.execFfma2 x s
  | .frcp x => Sys2Proof.Machine.execFrcp x s
  | .frsq x => Sys2Proof.Machine.execFrsq x s
  | .fsqrt x => Sys2Proof.Machine.execFsqrt x s
  | .fdiv x => Sys2Proof.Machine.execFdiv x s
  | .fexp2 x => Sys2Proof.Machine.execFexp2 x s
  | .flog2 x => Sys2Proof.Machine.execFlog2 x s
  | .fsinpi x => Sys2Proof.Machine.execFsinpi x s
  | .fcospi x => Sys2Proof.Machine.execFcospi x s
  | .ftanh x => Sys2Proof.Machine.execFtanh x s
  | .fcvt x => Sys2Proof.Machine.execFcvt x s
  | .ftoi x => Sys2Proof.Machine.execFtoi x s
  | .itof x => Sys2Proof.Machine.execItof x s
  | .fcvtsr x => Sys2Proof.Machine.execFcvtsr x s
  | .fgete x => Sys2Proof.Machine.execFgete x s
  | .fgetm x => Sys2Proof.Machine.execFgetm x s
  | .rngpx x => Sys2Proof.Machine.execRngpx x s
  | .rngf x => Sys2Proof.Machine.execRngf x s
  | .bra x => Sys2Proof.Machine.execBra x s
  | .brx x => Sys2Proof.Machine.execBrx x s
  | .call x => Sys2Proof.Machine.execCall x s
  | .callx x => Sys2Proof.Machine.execCallx x s
  | .ret x => Sys2Proof.Machine.execRet x s
  | .loop x => Sys2Proof.Machine.execLoop x s
  | .lbrk x => Sys2Proof.Machine.execLbrk x s
  | .exit x => Sys2Proof.Machine.execExit x s
  | .nop x => Sys2Proof.Machine.execNop x s
  | .trap x => Sys2Proof.Machine.execTrap x s
  | .tret x => Sys2Proof.Machine.execTret x s
  | .bkpt x => Sys2Proof.Machine.execBkpt x s
  | .movxRead x => Sys2Proof.Machine.execMovxRead x s
  | .movxWrite x => Sys2Proof.Machine.execMovxWrite x s
  | .illeg x => Sys2Proof.Machine.execIlleg x s
  | .shfl x => Sys2Proof.Machine.execShfl x s
  | .vote x => Sys2Proof.Machine.execVote x s
  | .bcast x => Sys2Proof.Machine.execBcast x s
  | .matchx x => Sys2Proof.Machine.execMatchx x s
  | .wsync x => Sys2Proof.Machine.execWsync x s
  | .redx x => Sys2Proof.Machine.execRedx x s
  | .scanx x => Sys2Proof.Machine.execScanx x s
  | .reform x => Sys2Proof.Machine.execReform x s
  | .bar x => Sys2Proof.Machine.execBar x s
  | .pref x => Sys2Proof.Machine.execPref x s
  | .ld x => Sys2Proof.Machine.execLd x s
  | .st x => Sys2Proof.Machine.execSt x s
  | .atom x => Sys2Proof.Machine.execAtom x s
  | .red x => Sys2Proof.Machine.execRed x s
  | .lds x => Sys2Proof.Machine.execLds x s
  | .sts x => Sys2Proof.Machine.execSts x s
  | .atoms x => Sys2Proof.Machine.execAtoms x s
  | .loadComplete x => Sys2Proof.Machine.execLoadComplete x s
  | .waitv x => Sys2Proof.Machine.execWaitv x s
  | .waitvReread x y => Sys2Proof.Machine.execWaitvReread x y s
  | .fence x => Sys2Proof.Machine.execFence x s
  | .cctlIinv x => Sys2Proof.Machine.execCctlIinv x s
  | .cctlL1inv x => Sys2Proof.Machine.execCctlL1inv x s
  | .cctlClean x => Sys2Proof.Machine.execCctlClean x s
  | .cctlDemote x => Sys2Proof.Machine.execCctlDemote x s
  | .retain x => Sys2Proof.Machine.execRetain x s
  | .unpin x => Sys2Proof.Machine.execUnpin x s
  | .copy x => Sys2Proof.Machine.execCopy x s
  | .copyo x => Sys2Proof.Machine.execCopyo x s
  | .region x => Sys2Proof.Machine.execRegion x s
  | .rgnclr x => Sys2Proof.Machine.execRgnclr x s
  | .touch x => Sys2Proof.Machine.execTouch x s
  | .cseal x => Sys2Proof.Machine.execCseal x s
  | .cwait x => Sys2Proof.Machine.execCwait x s
  | .ctest x => Sys2Proof.Machine.execCtest x s
  | .waitp x => Sys2Proof.Machine.execWaitp x s
  | .bari x => Sys2Proof.Machine.execBari x s
  | .bara x => Sys2Proof.Machine.execBara x s
  | .barw x => Sys2Proof.Machine.execBarw x s
  | .bart x => Sys2Proof.Machine.execBart x s
  | .barcnt x => Sys2Proof.Machine.execBarcnt x s
  | .copyComplete x => Sys2Proof.Machine.execCopyComplete x s
  | .chunkPresent x y => Sys2Proof.Machine.execChunkPresent x y s
  | .stagingComplete x => Sys2Proof.Machine.execStagingComplete x s
  | .tld x => Sys2Proof.Machine.execTld x s
  | .tst x => Sys2Proof.Machine.execTst x s
  | .tzero x => Sys2Proof.Machine.execTzero x s
  | .mma x => Sys2Proof.Machine.execMma x s
  | .mloop x => Sys2Proof.Machine.execMloop x s
  | .mvloop x => Sys2Proof.Machine.execMvloop x s
  | .mgenIdent x => Sys2Proof.Machine.execMgenIdent x s
  | .mgenOnes x => Sys2Proof.Machine.execMgenOnes x s
  | .mgenPerm x => Sys2Proof.Machine.execMgenPerm x s
  | .accz x => Sys2Proof.Machine.execAccz x s
  | .accld x => Sys2Proof.Machine.execAccld x s
  | .accst x => Sys2Proof.Machine.execAccst x s
  | .accrd x => Sys2Proof.Machine.execAccrd x s
  | .mwait x => Sys2Proof.Machine.execMwait x s
  | .kStepComplete x y => Sys2Proof.Machine.execKStepComplete x y s
  | .matrixComplete x y => Sys2Proof.Machine.execMatrixComplete x y s
  | .spawn x => Sys2Proof.Machine.execSpawn x s
  | .spawnj x => Sys2Proof.Machine.execSpawnj x s
  | .yield x => Sys2Proof.Machine.execYield x s
  | .tsend x => Sys2Proof.Machine.execTsend x s
  | .svc x => Sys2Proof.Machine.execSvc x s
  | .sret x => Sys2Proof.Machine.execSret x s
  | .errinjReg x => Sys2Proof.Machine.execErrinjReg x s
  | .errinjMem x => Sys2Proof.Machine.execErrinjMem x s
  | .errinjCe x => Sys2Proof.Machine.execErrinjCe x s
  | .errinjSpad x => Sys2Proof.Machine.execErrinjSpad x s
  | .uisend x => Sys2Proof.Machine.execUisend x s
  | .uiwait x => Sys2Proof.Machine.execUiwait x s
  | .uiret x => Sys2Proof.Machine.execUiret x s
  | .longComplete x => Sys2Proof.Machine.execLongComplete x s
  | .rotation x => Sys2Proof.Machine.execRotation x s
  | .waitcPriority x y => Sys2Proof.Machine.execWaitcPriority x y s
  | .spillRestore x => Sys2Proof.Machine.execSpillRestore x s
  | .lineAgeTrigger x y => Sys2Proof.Machine.execLineAgeTrigger x y s
  | .lineDispatch x => Sys2Proof.Machine.execLineDispatch x s
  | .warpEnd x => Sys2Proof.Machine.execWarpEnd x s
  | .faultTableAdmit x => Sys2Proof.Machine.execFaultTableAdmit x s
  | .faultdoneRetry x y z => Sys2Proof.Machine.execFaultdoneRetry x y z s
  | .faultdoneDeny x y z => Sys2Proof.Machine.execFaultdoneDeny x y z s
  | .pageIn x => Sys2Proof.Machine.execPageIn x s
  | .tlbinvPage x y z => Sys2Proof.Machine.execTlbinvPage x y z s
  | .tlbinvContext x y => Sys2Proof.Machine.execTlbinvContext x y s
  | .tlbinvPartition x => Sys2Proof.Machine.execTlbinvPartition x s
  | .tlbinvDone x => Sys2Proof.Machine.execTlbinvDone x s
  | .retregWrite x y z => Sys2Proof.Machine.execRetregWrite x y z s
  | .notify x y z => Sys2Proof.Machine.execNotify x y z s
  | .candidateRead x y => Sys2Proof.Machine.execCandidateRead x y s
  | .workgroupPlace x => Sys2Proof.Machine.execWorkgroupPlace x s
  | .recordStart x => Sys2Proof.Machine.execRecordStart x s
  | .workgroupEnd x => Sys2Proof.Machine.execWorkgroupEnd x s
  | .joinDecrement x => Sys2Proof.Machine.execJoinDecrement x s
  | .fenceCore x => Sys2Proof.Machine.execFenceCore x s
  | .swap x => Sys2Proof.Machine.execSwap x s
  | .sliceEnd x => Sys2Proof.Machine.execSliceEnd x s
  | .drainTimeout x => Sys2Proof.Machine.execDrainTimeout x s
  | .workgroupRestore x => Sys2Proof.Machine.execWorkgroupRestore x s
  | .uiDiversion x => Sys2Proof.Machine.execUiDiversion x s
  | .taskLanding x y => Sys2Proof.Machine.execTaskLanding x y s
  | .sessionEstablish x y z u v w a b c => Sys2Proof.Machine.execSessionEstablish x y z u v w a b c s
  | .completionTimeout x => Sys2Proof.Machine.execCompletionTimeout x s
  | .expanderLostNotice x => Sys2Proof.Machine.execExpanderLostNotice x s
  | .portClr x y => Sys2Proof.Machine.execPortClr x y s
  | .snpdata x => Sys2Proof.Machine.execSnpdata x s
  | .snpinv x => Sys2Proof.Machine.execSnpinv x s
  | .snpcur x => Sys2Proof.Machine.execSnpcur x s
  | .birsp x y => Sys2Proof.Machine.execBirsp x y s
  | .extentAccepted x y z => Sys2Proof.Machine.execExtentAccepted x y z s
  | .extentReleased x y => Sys2Proof.Machine.execExtentReleased x y s
  | .checkpointSave x y z => Sys2Proof.Machine.execCheckpointSave x y z s
  | .checkpointRestore x y z => Sys2Proof.Machine.execCheckpointRestore x y z s
  | .checkpointResume x => Sys2Proof.Machine.execCheckpointResume x s
  | .checkpointUnit x => Sys2Proof.Machine.execCheckpointUnit x s
  | .partset x y z => Sys2Proof.Machine.execPartset x y z s
  | .keyload x y z => Sys2Proof.Machine.execKeyload x y z s
  | .keykill x y => Sys2Proof.Machine.execKeykill x y s
  | .keykillAck x y => Sys2Proof.Machine.execKeykillAck x y s
  | .ctxprot x y z => Sys2Proof.Machine.execCtxprot x y z s
  | .ctxunprot x y => Sys2Proof.Machine.execCtxunprot x y s
  | .dbgunlock x y z => Sys2Proof.Machine.execDbgunlock x y z s
  | .attest x => Sys2Proof.Machine.execAttest x s
  | .pcmdUnknown x y => Sys2Proof.Machine.execPcmdUnknown x y s
  | .scrubGranule x => Sys2Proof.Machine.execScrubGranule x s
  | .open x y z => Sys2Proof.Machine.execOpen x y z s
  | .cread x y z => Sys2Proof.Machine.execCread x y z s
  | .cwrite x y z => Sys2Proof.Machine.execCwrite x y z s
  | .functionLevelReset x => Sys2Proof.Machine.execFunctionLevelReset x s
  | .fatal x y => Sys2Proof.Machine.execFatal x y s
  | .clockGate x => Sys2Proof.Machine.execClockGate x s
  | .activate x y z => Sys2Proof.Machine.execActivate x y z s
  | .directedRefresh x y z => Sys2Proof.Machine.execDirectedRefresh x y z s
  | .refreshWindowWrap x y => Sys2Proof.Machine.execRefreshWindowWrap x y s
  | .sparingStart x y => Sys2Proof.Machine.execSparingStart x y s
  | .sparingRowCopy x => Sys2Proof.Machine.execSparingRowCopy x s
  | .remapEntryWrite x y z => Sys2Proof.Machine.execRemapEntryWrite x y z s
  | .tokenRefill x => Sys2Proof.Machine.execTokenRefill x s
  | .lodgeStart x y => Sys2Proof.Machine.execLodgeStart x y s
  | .lodgeQueueNotify x y z => Sys2Proof.Machine.execLodgeQueueNotify x y z s
  | .lodgeRecordWrite x y => Sys2Proof.Machine.execLodgeRecordWrite x y s
  | .registerWrite x y z u => Sys2Proof.Machine.execRegisterWrite x y z u s
  | .writeAcknowledged x => Sys2Proof.Machine.execWriteAcknowledged x s
  | .atomicComplete x => Sys2Proof.Machine.execAtomicComplete x s
  | .l2rctlWrite x y => Sys2Proof.Machine.execL2rctlWrite x y s
  | .hostInterruptWrite x y z u v => Sys2Proof.Machine.execHostInterruptWrite x y z u v s
  | .fabricUint x y => Sys2Proof.Machine.execFabricUint x y s
  | .fabricTask x y => Sys2Proof.Machine.execFabricTask x y s
  | .portLoss x y => Sys2Proof.Machine.execPortLoss x y s
  | .linkTrain x y z => Sys2Proof.Machine.execLinkTrain x y z s
  | .hostMemRead x y z => Sys2Proof.Machine.execHostMemRead x y z s
  | .hostMemWrite x y z => Sys2Proof.Machine.execHostMemWrite x y z s
  | .hostAtomicop x y z u => Sys2Proof.Machine.execHostAtomicop x y z u s
  | .extentOffer x y => Sys2Proof.Machine.execExtentOffer x y s
  | .extentRelease x y => Sys2Proof.Machine.execExtentRelease x y s
  | .patrolRequest x y z u v w => Sys2Proof.Machine.execPatrolRequest x y z u v w s
  | .dbgmem x y z u v => Sys2Proof.Machine.execDbgmem x y z u v s
  | .mgmtReset x y => Sys2Proof.Machine.execMgmtReset x y s
  | .bootstage x y => Sys2Proof.Machine.execBootstage x y s
  | .thermal x y => Sys2Proof.Machine.execThermal x y s
  | .issueAtLend => Sys2Proof.Machine.execIssueAtLend s
  | .mctpControl => Sys2Proof.Machine.execMctpControl s
  | .coldReset => Sys2Proof.Machine.execColdReset s
  | .warmReset => Sys2Proof.Machine.execWarmReset s

end Sys2Proof.Machine
end

