-- ==== Sys2Proof/Machine/Pick.lean ====
section
/-! DEFINITION. Turns (R171 to R173, R425): what a track or a Lodge thread does when it is its turn, which engine goes next, and what
every step counts. The order of the turns is the model's (log 2). -/

namespace Sys2Proof.Machine

open Sys2Proof

/-! A track's cycle (R172, R173). -/

/-- What a track does in a cycle. -/
inductive Sel where
  /-- nothing is ready -/
  | idle
  /-- a user interrupt is delivered to the warp (R394) -/
  | divert (s : State) (place : Nat)
  /-- the warp's next issue takes a loss notice (R451) -/
  | notice (s : State) (place : Nat)
  /-- a word issues; `cur` names its issue -/
  | issue (s : State) (x : Instr)
  /-- the fetch parked or trapped -/
  | done (s : State)

/-- A group's issue is its warp's next: RUN, the last group and cycle, and the rotation that is now spent (R172). -/
def noteGroup (w : Warp) (now : Nat) (g : Dword × Mask) (others : Bool) : Warp :=
  { w with
    run := if !others || (w.forced.isSome && w.forced == leadOf g) then 0
      else if w.lastLead = leadOf g then w.run + 1 else 1
    lastLead := leadOf g
    lastIssue := Vector.ofFn (fun l => if g.2.has l then now else w.lastIssue[l])
    forced := none
    waitc := 0 }

/-- The track has picked a warp: the others that were ready have waited one cycle more, and a pick by priority is dated
(R173). -/
def notePick (s : State) (core track pl : Nat) (prio : Bool) : State :=
  let others := ((trackWarps s core track).filter (fun e => e.1 != pl && warpReady s e)).map Prod.fst
  let s := others.foldl (fun s p => modWarp s p (fun w => { w with waitc := w.waitc + 1 })) s
  let s := modTrack s core track (fun t => { t with cycle := t.cycle + 1, last := s.now })
  if prio then modWarp s pl (fun w => { w with lastPrio := (trackSt s core track).cycle, waitc := 0 }) else s

/-- The issue of one group of a warp: a loss notice comes first; then its word is fetched. -/
def issueGroup (s : State) (pl : Nat) (w : Warp) (g : Dword × Mask) : Sel :=
  if !isLodge pl && (nextNotice s w.ctx).isSome then .notice { s with cur := some ⟨pl, g.2, g.1, 1⟩ } pl
  else
    match groupFetch s pl w g.1 g.2 with
    | (s, .word x len) => .issue { s with cur := some ⟨pl, g.2, g.1, len⟩ } x
    | (s, .park c) => .done (modWarp s pl (fun w => parkLanes w c g.2 true))
    | (s, .trap t len) => .done (takeTrap s pl g.2 g.1 len t)

/-- The issue of a warp: rotation, the choice of its group, its counts (R172). -/
def issueWarp (s : State) (pl : Nat) : Sel :=
  let s := markRotation s pl
  match warp? s pl with
  | none => .idle
  | some w =>
    let rs := readyGroups s pl w
    match chooseGroup w rs with
    | none => .idle
    | some g =>
      let s := modWarp s pl (fun w => noteGroup w s.now g (rs.any (fun h => h != g)))
      issueGroup s pl w g

/-- The warp a track picks, and whether by priority 1 or 2: a handler warp with an interrupt, a ready warp that has waited, the
oldest ready warp (R173). -/
def pickWarp (s : State) (core track : Nat) : Option (Nat × Bool) :=
  match waitcPick s core track with
  | some e => some (e.1, true)
  | none => (oldestPick s core track).map (fun e => (e.1, false))

/-- A track's cycle. -/
def select (s : State) (core track : Nat) : Sel :=
  match handlerPick s core track with
  | some e => .divert (notePick s core track e.1 true) e.1
  | none =>
    match pickWarp s core track with
    | some (pl, prio) => issueWarp (notePick s core track pl prio) pl
    | none => .idle

/-- The Lodge considers one thread in each of its cycles, of which each is two steps: thread n mod 64 in cycle n (R424). -/
def lodgeSlot (s : State) (j : Nat) : Bool := s.now % 2 == 1 && s.lodgeCycle % 64 == j

/-- A Lodge thread's cycle (R424, R425). -/
def selectLodge (s : State) (j : Nat) : Sel :=
  match warp? s (lodgePlace j) with
  | some w => if lodgeSlot s j && warpReady s (lodgePlace j, w) then issueWarp s (lodgePlace j) else .idle
  | none => .idle

/-- Runs a choice. -/
def runSel (s : State) (x : Sel) : Host.Outcome State Fault Refusal :=
  match x with
  | .idle => .next s
  | .divert s pl => exec (.uiDiversion pl) s
  | .notice s pl => exec (.expanderLostNotice pl) s
  | .issue s i => exec i s
  | .done s => .next s

/-- The turn of track `track` of a core; core 72 is the Lodge, its tracks the threads. -/
def turnOf (s : State) (core track : Nat) : Sel := if core = 72 then selectLodge s track else select s core track

/-! Engines. -/

/-- The step at which a request in flight completes. -/
def pendStep (e : Nat × Pend) : List Instr :=
  match e.2.kind with
  | .load => [.loadComplete e.1]
  | .atomic => [.atomicComplete e.1]
  | .long => [.longComplete e.1]
  | .store => [.writeAcknowledged e.1]
  | .matrix => []

/-- Steps of the warps. -/
def warpSteps (e : Nat × Warp) : List Instr :=
  [.warpEnd e.1, .spillRestore e.1] ++
    (e.2.waits.filter (fun x => x.kind == .waitv)).flatMap (fun x =>
      (x.mask &&& ~~~x.done).lanes.map (fun l => .waitvReread e.1 l))

/-- Steps of a core. -/
def coreSteps (e : Nat × Core) : List Instr :=
  e.2.lines.map (fun l => .lineAgeTrigger e.1 l.1) ++ (if e.2.lines.isEmpty then [] else [.lineDispatch e.1]) ++ [.swap e.1]

/-- Steps of a track: those of its matrix unit. -/
def trackSteps (e : Nat × Track) : List Instr :=
  if e.2.queue.isEmpty then [] else [.kStepComplete (e.1 / 8) (e.1 % 8 / 2), .matrixComplete (e.1 / 8) (e.1 % 8)]

/-- Steps of a workgroup. -/
def wgSteps (g : Nat) : List Instr := [.recordStart g, .workgroupEnd g, .sliceEnd g, .drainTimeout g]

/-- Steps of a partition. -/
def partSteps (p : Nat) : List Instr :=
  [.faultTableAdmit p, .pageIn p, .tlbinvDone p] ++ (List.range 8).map (fun q => .candidateRead p q) ++
    [.workgroupPlace p, .workgroupRestore p, .fenceCore p, .checkpointUnit p, .lodgeRecordWrite p false, .lodgeRecordWrite p true]

/-- A key slot that retires is acknowledged by one engine after another (R430). -/
def slotSteps (e : Nat × KeySlot) : List Instr :=
  if e.2.state = .retiring then (List.range killEngines).map (fun n => .keykillAck e.1 n) else []

/-- The steps that the engines might take now. Chairlift works from boot stage 4 on (R455). -/
def engineSteps (s : State) : List Instr :=
  s.pend.flatMap pendStep ++ s.xfers.flatMap (fun e => [if e.2.entry.isSome then .stagingComplete e.1 else .copyComplete e.1]) ++
    s.warps.flatMap warpSteps ++ s.cores.flatMap coreSteps ++ s.tracks.flatMap trackSteps ++
    s.patrol.slots.flatMap slotSteps ++ s.tasks.map (fun t => .taskLanding t.part t.sess) ++
    (if s.boot < 4 then [] else s.wgs.flatMap (fun e => wgSteps e.1) ++
      s.parts.flatMap (fun e => e.2.joins.map (fun j => .joinDecrement j.launch)) ++ s.parts.flatMap (fun e => partSteps e.1))

/-- Steps taken when nothing else is due. -/
def idleSteps (s : State) : List Instr :=
  (if s.boot < 6 ∧ !s.bootFailed then [.bootstage true 0] else []) ++
  ((s.dctl.map (fun e => (e.1 - 0x00800000) / 0x40)).filter (fun k => decide (k < 512))).dedup.map (fun k => .sparingRowCopy k) ++
    s.refreshing.map (fun e => .directedRefresh e.1 e.2.1 e.2.2) ++ s.cores.map (fun e => .clockGate e.1) ++
    (s.scrub.filter (fun e => decide (e.2.next < granules e.1))).map (fun e => .scrubGranule e.1)

/-- A step that would change the machine. -/
def changes (s : State) (e : Instr) : Bool :=
  match exec e s with
  | .next t => t != s
  | _ => false

/-- The engine step taken now: the first, from a place in the list that moves with the clock, that changes the machine. -/
def firstStep (s : State) (es : List Instr) : Option Instr := (es.rotateLeft (s.now % (es.length + 1))).find? (changes s)

/-! Whose turn it is. -/

/-- A track has something to do. -/
def trackReady (s : State) (core track : Nat) : Bool :=
  (handlerPick s core track).isSome || (oldestPick s core track).isSome

/-- The tracks that have something to do. -/
def readyTracks (s : State) : List (Nat × Nat) :=
  (((s.warps.map (fun e => (placeCore e.1, placeTrack e.1))).dedup).filter (fun c => decide (c.1 < 72))).filter
    (fun c => trackReady s c.1 c.2)

/-- The track that has been idle longest. -/
def nextTrack (s : State) : Option (Nat × Nat) :=
  (readyTracks s).foldl (fun b c =>
    match b with
    | none => some c
    | some d => if (trackSt s c.1 c.2).last < (trackSt s d.1 d.2).last then some c else some d) none

/-- The Lodge thread of this cycle has something to do. -/
def lodgeTurn (s : State) : Option Turn :=
  let j := s.lodgeCycle % 64
  match warp? s (lodgePlace j) with
  | some w => if warpReady s (lodgePlace j, w) then some (.track 72 j) else none
  | none => none

/-- The turn taken when none is named: engines and issue first by turns, and the idle steps last. -/
def defaultTurn (s : State) : Option Turn :=
  let engine := (firstStep s (engineSteps s)).map Turn.event
  let issue := (if s.now % 2 = 1 then lodgeTurn s else none).orElse (fun _ => (nextTrack s).map (fun c => .track c.1 c.2))
  let busy := if s.now % 2 = 0 then engine.orElse (fun _ => issue) else issue.orElse (fun _ => engine)
  busy.orElse (fun _ => (firstStep s (idleSteps s)).map Turn.event)

/-- A turn: a track's cycle, or another agent's step. An instruction word is no agent's step. -/
def takeTurn (s : State) (t : Turn) : Host.Outcome State Fault Refusal :=
  match t with
  | .track core track => if s.fatal then .next s else runSel s (turnOf s core track)
  | .event e => if formOf e = .event then exec e s else .next s

/-! What every step counts. -/

/-- The lanes that stand in a wait: at UIWAIT, its whole group (R172). -/
def waitLanes (w : Warp) : Mask := w.waits.foldl (fun m x => m ||| (if x.kind = .uiwait then uiGroup w x else x.mask)) 0#32

/-- Every thread of a workgroup that has not exited stands in one of the five waits (R355); a spill changes none of them (R359). -/
def wgStalled (s : State) (g : Nat) (x : Wg) : Bool :=
  let ws := wgWarps s g
  x.phase == .running && !ws.isEmpty && !filed s g && ws.all (fun e =>
    e.2.parks.isEmpty && Mask.sub e.2.conv (waitLanes e.2))

/-- A workgroup has no ready group on its core (R185). -/
def wgIdle (s : State) (g : Nat) : Bool := !(wgWarps s g).any (warpReady s)

/-- The stall counts of R355. -/
def tickStalls (s : State) : State :=
  { s with wgs := s.wgs.map (fun e => (e.1, { e.2 with stall := if wgStalled s e.1 e.2 then e.2.stall + 1 else 0 })) }

/-- The counts of candidates passed over (R348, R354). -/
def tickPassed (s : State) : State :=
  { s with launches := s.launches.map (fun e => (e.1, { e.2 with
      passed := if decide (e.2.next < e.2.stop) && (chooseCore s e.1 e.2).isNone then e.2.passed + 1 else 0 })) }

/-- The triggers of a lift line that hold now (R185). -/
def tickLine (s : State) (core : Nat) (l : LiftLine) : LiftLine :=
  let l := if lineAged s core l then raiseTrig .age l else l
  if l.trig.isNone && !l.entries.isEmpty && wgIdle s l.wg then raiseTrig .idle l else l

/-- The age and idle triggers of lift lines (R185). -/
def tickLines (s : State) : State :=
  { s with cores := s.cores.map (fun e => (e.1, { e.2 with lines := e.2.lines.map (fun l => (l.1, tickLine s e.1 l.2)) })) }

/-- A track that has picked no warp in this step and has nothing ready has an idle cycle: it counts where a handler warp waits out its 63
cycles (R173). -/
def tickTracks (s : State) : State :=
  { s with tracks := s.tracks.map (fun e =>
      let ws := trackWarps s (e.1 / 8) (e.1 % 8)
      (e.1, if e.2.last != s.now && ws.any (fun x => !prioFree e.2 x.2 && claimNames s x.1 x.2) && !ws.any (warpReady s) then { e.2 with cycle := e.2.cycle + 1 }
        else e.2)) }

/-- What every step counts: the clock, the Lodge's clock at half its rate, and the counts above. -/
def tick (s : State) : State :=
  let s := tickTracks (tickLines (tickPassed (tickStalls s)))
  { s with
    now := s.now + 1
    lodgeCycle := if s.now % 2 = 0 then s.lodgeCycle + 1 else s.lodgeCycle }

/-- The clock ticks after a step that goes on. -/
def ticked (o : Host.Outcome State Fault Refusal) : Host.Outcome State Fault Refusal :=
  match o with
  | .next s => .next (tick s)
  | .fault r => .fault r
  | .refused r => .refused r

/-- The entries of register pools that a step has freed go to those that wait for them (R177). -/
def pooled (old : State) (o : Host.Outcome State Fault Refusal) : Host.Outcome State Fault Refusal :=
  match o with
  | .next s => .next (givePool old s)
  | .fault r => .fault r
  | .refused r => .refused r

/-- The turn a step takes, and the state without it. -/
def nextTurn (s : State) : State × Option Turn :=
  match s.agenda with
  | t :: r => ({ s with agenda := r }, some t)
  | [] => (s, defaultTurn s)

end Sys2Proof.Machine
end

