-- ==== Sys2Proof/Machine/Load.lean ====
section
/-! DEFINITION. A program put in place from outside: what a fetch needs so that track 0 of core 0 issues a given word next. It stands
for the boot, the partition, the page tables and the launch that a host makes (log 5). -/

namespace Sys2Proof.Machine

open Sys2Proof

/-- The address, virtual and physical, at which the word is put. -/
def loadPc : Nat := 0x10000

/-- Partition 0 as the load makes it: one core, pseudo-channel 0, context 0. -/
def loadDesc : Desc :=
  { Desc.empty with valid := true, cores := 1, pch := 1, ctxCnt := 1 }

/-- The memory of the load: context block 0 with its table at 0x1000, two levels of pointers, a leaf of 1 GiB that maps address
0 to itself with every permission, and the word. -/
def loadCells (m : List Host.Cell) (nbits w : Nat) : List Host.Cell :=
  let m := memPuts m 0 (bytesOfNat 64 (2 ^ 63 + 1 * 2 ^ 140))
  let m := memPuts m 0x1000 (bytesOfNat 8 (0x2000 + 1))
  let m := memPuts m 0x2000 (bytesOfNat 8 (0x3000 + 1))
  let m := memPuts m 0x3000 (bytesOfNat 8 0x1F)
  memPuts m loadPc (bytesOfNat 16 (w % 2 ^ nbits))

/-- The workgroup of the load: it runs on core 0. -/
def loadWg : Wg := { blankWg 0 0 with kept := some (0, 0, []) }

/-- The warp of the load: 32 lanes at the word. -/
def loadWarp : Warp := newWarp loadWg 0 1 0 false (launchTids 0) (BitVec.allOnes 32) (BitVec.ofNat 64 loadPc)

/-- Puts the word in place. -/
def loadWord (s : State) (nbits w : Nat) : State :=
  { s with
    parts := FMap.ins s.parts 0 { Part.empty with desc := loadDesc }
    scrub := FMap.ins s.scrub 0 ⟨granules 0, [], none⟩
    mem := loadCells s.mem nbits w
    wgs := FMap.ins s.wgs 0 loadWg
    warps := FMap.ins s.warps 0 loadWarp
    tlb := []
    cores := FMap.ins s.cores 0 Core.empty
    fatal := false
    agenda := [.track 0 0] }

end Sys2Proof.Machine
end

