-- ==== Sys2Proof/Machine/Step.lean ====
section
/-! DEFINITION. One step of the machine: the turn that is due, and what every step counts. -/

namespace Sys2Proof.Machine

open Sys2Proof

/-- One step: the turn at the head of the agenda, or the turn that is due when the agenda names none. -/
def step (s : State) : Host.Outcome State Fault Refusal :=
  match nextTurn s with
  | (s, some t) => ticked (pooled s (takeTurn s t))
  | (s, none) => ticked (.next s)

/-- The state with an instruction word, the bits above nbits zero, stored where the next step fetches it. -/
def State.withFetchWord (s : State) (nbits w : Nat) : State := loadWord s nbits w

end Sys2Proof.Machine
end

