-- ==== Sys2Proof/Safety.lean ====
section
/-! DEFINITION. The terms in which statements speak of a run: what a step answers, when a word issues cleanly, the state after a
word, and the invariant of memory. -/

namespace Sys2Proof.Machine

open Sys2Proof

/-- Memory is in its canonical form: equal memories are equal data. -/
def MemOk (s : State) : Prop := Memory.wf s.mem = true

/-- A word of s has an issue in progress, seen as i, and neither the loop it ends, an operand, a STALE nor a LEASE keeps it from
acting; its new registers fit the pool (R24 to R28, R156, R171, R176). -/
structure Acts (x : Instr) (s : State) (i : Iss) : Prop where
  iss : issOf s (guardOfInstr x) = some i
  lend : lendWait i = false
  full : operandsWait i.w x = false
  stale : staleTrap i x = none
  lease : leaseTrap i x = none
  room : (i.l == 0#32 || poolRoom s i.place i.pc (release i.w i.whole (lastUses x) (destsOf x).1) (destsOf x).1) = true

/-- A word that acts, and whose sources carry no poison in its lanes (R366). -/
structure Clean (x : Instr) (s : State) (i : Iss) : Prop extends Acts x s i where
  clean : poisonTrap i (sourcesOf x) = none

/-- The state in which a word's effect acts: its last uses are released (R24). -/
def wordState (s : State) (i : Iss) (x : Instr) : State :=
  setWarp s i.place (release i.w i.whole (lastUses x) (destsOf x).1)

/-- The state after a word whose effect changes only its warp, by f: its lanes have moved on. -/
def wordDone (s : State) (i : Iss) (x : Instr) (f : Warp → Warp) : State :=
  retired (modWarp (modWarp (wordState s i x) i.place f) i.place (fun w => advance w i.a (8 * i.len))) i

/-- The state after a word whose effect changes only its warp, PCs included. -/
def wordMoved (s : State) (i : Iss) (x : Instr) (f : Warp → Warp) : State :=
  retired (modWarp (wordState s i x) i.place f) i

/-- The state after a word that raises a precise trap. -/
def wordTraps (s : State) (i : Iss) (t : Trap) : State := takeTrap s i.place i.a i.pc i.len t

/-- Two states agree on everything that lies outside the cores: memory and its poison, caches of L2, translations, partitions,
ports, hosts, DRAM and device registers. -/
structure SameOutside (s t : State) : Prop where
  mem : t.mem = s.mem
  poison : t.poison = s.poison
  far : t.far = s.far
  scrub : t.scrub = s.scrub
  l2 : t.l2 = s.l2
  tlb : t.tlb = s.tlb
  parts : t.parts = s.parts
  launches : t.launches = s.launches
  ports : t.ports = s.ports
  used : t.used = s.used
  notices : t.notices = s.notices
  snoop : t.snoop = s.snoop
  bisnp : t.bisnp = s.bisnp
  outbox : t.outbox = s.outbox
  tasks : t.tasks = s.tasks
  pevents : t.pevents = s.pevents
  oseq : t.oseq = s.oseq
  cairn : t.cairn = s.cairn
  cairnwp : t.cairnwp = s.cairnwp
  dctl : t.dctl = s.dctl
  rows : t.rows = s.rows
  refreshing : t.refreshing = s.refreshing
  cerr : t.cerr = s.cerr
  uerr : t.uerr = s.uerr
  spared : t.spared = s.spared
  walks : t.walks = s.walks
  uisys : t.uisys = s.uisys
  patrol : t.patrol = s.patrol
  fuse : t.fuse = s.fuse
  boot : t.boot = s.boot
  lodgeRun : t.lodgeRun = s.lodgeRun
  fatal : t.fatal = s.fatal

/-- The registers that belong to a warp's control, not to its data: traps, loops, rounding, configuration, interrupts, age. -/
structure SameControl (w u : Warp) : Prop where
  part : u.part = w.part
  ctx : u.ctx = w.ctx
  wg : u.wg = w.wg
  tid : u.tid = w.tid
  conv : u.conv = w.conv
  fpEn : u.fpEn = w.fpEn
  ftz : u.ftz = w.ftz
  rm : u.rm = w.rm
  stale : u.stale = w.stale
  intrap : u.intrap = w.intrap
  trapvec : u.trapvec = w.trapvec
  trappc : u.trappc = w.trappc
  trapcause : u.trapcause = w.trapcause
  tmask : u.tmask = w.tmask
  refage : u.refage = w.refage
  loops : u.loops = w.loops
  tcfg : u.tcfg = w.tcfg
  uivec : u.uivec = w.uivec
  uiepc : u.uiepc = w.uiepc
  uiin : u.uiin = w.uiin
  uentry : u.uentry = w.uentry
  claim : u.claim = w.claim
  svclane : u.svclane = w.svclane
  svcpend : u.svcpend = w.svcpend
  arrived : u.arrived = w.arrived
  openb : u.openb = w.openb

/-! Shapes of a word's result. -/

/-- The exact result, or SatT of it under .SAT (R102). -/
def satIf (f : WordF) (x : Int) : Int := if isSat f then satT (tyInt f) x else x

/-- Every word mk f that issues cleanly writes v in each lane whose guard holds, and its lanes go on to the next word. -/
def Writes (mk : WordF → Instr) (wide : WordF → Bool) (v : WordF → State → Iss → Lane → Nat) : Prop :=
  ∀ f s i, Clean (mk f) s i →
    exec (mk f) s = .next (wordDone s i (mk f) (fun w => writeDst w i.l f.dst (wide f) (v f s i)))

/-- The word's type is 64 bits wide. -/
def is64 (f : WordF) : Bool := (tyInt f).bits == 64

/-- The word writes g of its sources at its type, in the type's encoding (R50, R51). -/
def WritesTyped (mk : WordF → Instr) (g : WordF → Int → Int → Int → Int) : Prop :=
  Writes mk is64 (fun f s i l =>
    (tyInt f).enc (g f (intArg s i (tyInt f) f.a l) (intArg s i (tyInt f) f.b l) (intArg s i (tyInt f) f.c l)))

/-- The word writes g of its n-bit sources a and b and of its third source, where n is the width of its type. -/
def WritesBits (mk : WordF → Instr) (wide : WordF → Bool) (g : WordF → Nat → Nat → Nat → Nat → Nat)
    (a3 : WordF → State → Iss → Lane → Nat) : Prop :=
  Writes mk wide (fun f s i l =>
    g f (tyInt f).bits (srcVal s i (.int (tyInt f).bits) f.a l) (srcVal s i (.int (tyInt f).bits) f.b l) (a3 f s i l))

/-- Every word mk f that issues cleanly changes its warp by u, and its lanes go on to the next word. -/
def Changes (mk : WordF → Instr) (u : WordF → State → Iss → Warp → Warp) : Prop :=
  ∀ f s i, Clean (mk f) s i → exec (mk f) s = .next (wordDone s i (mk f) (u f s i))

/-- As Changes, for a word that consumes none of the sources it carries: it needs no clean sources (R103, R365). -/
def Carries (mk : WordF → Instr) (u : WordF → State → Iss → Warp → Warp) : Prop :=
  ∀ f s i, Acts (mk f) s i → exec (mk f) s = .next (wordDone s i (mk f) (u f s i))

/-- The state after a word whose effect has made t of the state in which it acts: its lanes go on to the next word. -/
def wordAfter (i : Iss) (t : State) : State := retired (modWarp t i.place (fun w => advance w i.a (8 * i.len))) i

/-- A short floating-point word: it writes the values that v gives and merges the flags that v gives (R30, R125). -/
def WritesFp (mk : WordF → Instr) (wide : WordF → Bool) (v : WordF → State → Iss → Lane → Nat × Flags) : Prop :=
  Changes mk (fun f s i w => mergeFlags i (dstCode f.dst) (fun l => (v f s i l).2)
    (writeDst w i.l f.dst (wide f) (fun l => (v f s i l).1)))

/-- A destination of the format of the word is 64 bits wide. -/
def isF64 (f : WordF) : Bool := tyFp f == .f64

/-- As WritesFp, for an operation on up to three sources of the word's format, under its rounding mode and FTZ. -/
def WritesFp3 (mk : WordF → Instr) (op : FType → WordF → RMode → Bool → Nat → Nat → Nat → Nat × Flags) : Prop :=
  WritesFp mk isF64 (fun f s i l => op (tyFp f) f (wordMode i f) i.w.ftz (fpArg s i (tyFp f) f.a l) (fpArg s i (tyFp f) f.b l)
    (fpArg s i (tyFp f) f.c l))

/-- The lanes whose values a result delivered later carries: one lane for an s register. -/
def deliveredLanes (i : Iss) (o : Opd) : Mask :=
  match o with
  | .src (.s _) _ _ => Mask.one (i.l.low?.getD 0)
  | _ => i.l

/-- A long word marks its destination empty and sends a request that carries values and flags; without an active lane it does
nothing (R126). -/
def Delivers (mk : WordF → Instr) (wide : WordF → Bool) (v : WordF → State → Iss → Lane → Nat × Flags) : Prop :=
  ∀ f s i, Clean (mk f) s i →
    exec (mk f) s = .next (wordAfter i (if i.l = 0#32 then wordState s i (mk f)
      else addPend (modWarp (wordState s i (mk f)) i.place (fun w => pushRes w
          (resOf i.w s.nextId false i.l (fun l => (v f s i l).2.toNat) i.pc (dstCode f.dst) false))) i.place .long i.l
        (fillsOf f.dst (if wide f then 2 else 1) (deliveredLanes i f.dst)
          (fun k l => Val.clean (BitVec.ofNat 32 ((v f s i l).1 / 2 ^ (32 * k)))))))

/-- Byte a of memory as an access under a key reads it: the model's own read of one byte. -/
def readByte (s : State) (key : Option Nat) (a : Nat) : Byte := (physRead s none key a 1).2.1.getD 0 0#8

/-- An access of n bytes at a lies in one 32-byte sector that it reaches. -/
def Reaches (s : State) (a n : Nat) : Prop := paReach s none a = true ∧ paLost s a = false ∧ a % 32 + n ≤ 32

/-- A word of format M, of n bytes a lane, whose lanes have passed every check of R258: u is the state after its translations, items
are its accesses, none of them to the control block (R423), and no host holds a line it needs (R441). -/
structure Granted (x : Instr) (m : WordM) (n : Nat) (acc : Access) (t3 wr data : Bool) (s : State) (i : Iss) (u : State)
    (items : List Item) : Prop extends Acts x s i where
  lanes : i.l ≠ 0#32
  go : checkGlobal (wordState s i x) i (addressRefs x data) (sourcesOf x) (accUnit m n) acc t3 5 (accList (wordState s i x) i m n) = .go u items
  plain : ∀ y ∈ items, pteTier y.leaf ≠ 3
  free : snoopHold u i wr items = none

/-- A scratchpad word whose lanes have passed every check and whose chunks are present (R258, R299). -/
structure SpadGranted (x : Instr) (m : WordM) (n align : Nat) (data : Bool) (s : State) (i : Iss) (g : Wg)
    (l : List (Lane × Nat)) : Prop extends Acts x s i where
  lanes : i.l ≠ 0#32
  go : checkSpad (wordState s i x) i m (addressRefs x data) (sourcesOf x) n align = .go g l

/-- A word on a barrier object at offset o that passes its checks (R292), and finds the object's chunk present: u is the state after
the staging its use starts (R307), g the workgroup there, the object unpoisoned and no matrix transfer of it owed (R252, R325). -/
structure AtBarrier (x : Instr) (s : State) (i : Iss) (o : Nat) (u : State) (g : Wg) : Prop extends Clean x s i where
  lanes : i.l ≠ 0#32
  checked : objChecks (wordState s i x) i o = none
  roused : u = rouseFor (wordState s i x) i (chunksAt o 8)
  here : missing u i.w.wg (chunksAt o 8) = []
  group : wg? u i.w.wg = some g
  idle : matOwes u i.w.wg u.nextId (o, 8) = false
  sound : spadMark g o = none

/-- A matrix word whose binding and queue have room, and whose accumulator no queued instruction leases unless it waits for it
(R317, R322, R325): it traps by its own checks, or takes a free binding and has its effect. -/
def Queues (mk : WordF → Instr) (acc : Bool) (chk : WordF → State → Iss → Option Trap) (eff : WordF → State → Iss → State) :
    Prop :=
  ∀ f s i, Clean (mk f) s i → i.l ≠ 0#32 → matWait s i = false →
    (acc = true → (issTrack s i).bind ≠ none → accWaits f = false → accLeased (issTrack s i) (accC f) = false) →
    exec (mk f) s = .next (match chk f (wordState s i (mk f)) i with
      | some t => wordTraps s i t
      | none => wordAfter i (eff f (takeBinding (wordState s i (mk f)) i) i))

/-! Rounding (R52, R60 to R64). -/

/-- The rational number that a finite value stands for (R52). -/
def ratOf : FVal → ℚ
  | .fin s m e => (if s then -1 else 1) * (m : ℚ) * 2 ^ e
  | _ => 0

/-- The value is finite. -/
def FiniteVal (v : FVal) : Prop := v.isNan = false ∧ v.isInf = false

/-- y is a value of the format's precision whose last place weighs no less than 2^low, or anything where `low` is none; its exponent
has no upper bound (R60, R61). -/
def OnGrid (f : Fmt) (low : Option Int) (y : ℚ) : Prop :=
  ∃ n e : Int, (∀ l, low = some l → l ≤ e) ∧ n.natAbs < 2 ^ (f.fb + 1) ∧ y = n * 2 ^ e

/-- The significand of y has an even last place (R60). -/
def EvenPlace (f : Fmt) (low : Option Int) (y : ℚ) : Prop :=
  ∃ n e : Int, (∀ l, low = some l → l ≤ e) ∧ n.natAbs < 2 ^ (f.fb + 1) ∧ (low = some e ∨ 2 ^ f.fb ≤ n.natAbs) ∧ 2 ∣ n ∧
    y = n * 2 ^ e

/-- y is x rounded in a mode, as the table of R60 says. -/
def RoundsTo (f : Fmt) (low : Option Int) (mode : RMode) (x y : ℚ) : Prop :=
  OnGrid f low y ∧
    match mode with
    | .rne => (∀ z, OnGrid f low z → |x - y| ≤ |x - z|) ∧
        ∀ z, OnGrid f low z → z ≠ y → |x - z| = |x - y| → EvenPlace f low y
    | .rtz => 0 ≤ x * y ∧ |y| ≤ |x| ∧ ∀ z, OnGrid f low z → |z| ≤ |x| → |z| ≤ |y|
    | .rup => x ≤ y ∧ ∀ z, OnGrid f low z → x ≤ z → y ≤ z
    | .rdn => y ≤ x ∧ ∀ z, OnGrid f low z → z ≤ x → z ≤ y

/-- The encoding c stands for the finite value y with a sign. -/
def Stands (f : Fmt) (sign : Bool) (y : ℚ) (c : Nat) : Prop := ∃ m e, f.unpack c = .fin sign m e ∧ ratOf (.fin sign m e) = y

/-- Encoding and flags are those of the nonzero exact result x rounded once to a format that overflows by the table of R61: with y
rounded to the format, and u with an unbounded exponent, a tiny result is flushed under FTZ with UF and NX, one past the largest finite
value is an infinity or that value with OF and NX, and any other is y, with NX where it differs from x, and UF where it also is tiny
(R60 to R64). -/
def RoundedOnce (f : Fmt) (mode : RMode) (ftz : Bool) (x : ℚ) (r : Nat × Flags) : Prop :=
  ∃ y u : ℚ, RoundsTo f (some (f.emin - f.fb)) mode x y ∧ RoundsTo f none mode x u ∧
    let tiny : Prop := |u| < 2 ^ f.emin
    let top : ℚ := f.maxSig * 2 ^ (f.maxExp - f.fb)
    let flushed : Prop := tiny ∧ ftz = true
    let toInf : Bool := match mode with
      | .rne => true
      | .rtz => false
      | .rup => decide (0 < x)
      | .rdn => decide (x < 0)
    (flushed → Stands f (decide (x < 0)) 0 r.1 ∧ r.2 = flagUF ||| flagNX) ∧
    (¬ tiny → top < |y| → r.2 = flagOF ||| flagNX ∧
      (toInf = true → f.unpack r.1 = .inf (decide (x < 0))) ∧
      (toInf = false → Stands f (decide (x < 0)) (if x < 0 then -top else top) r.1)) ∧
    (¬ flushed → (tiny ∨ |y| ≤ top) → Stands f (decide (x < 0)) y r.1 ∧
      (y = x → r.2 = 0) ∧ (y ≠ x → tiny → r.2 = flagUF ||| flagNX) ∧ (y ≠ x → ¬ tiny → r.2 = flagNX))

/-! Combining lanes in a fixed order (R72, R199). -/

/-- Node i of level j of the tree of R72: the lower-numbered subtree is operand A, and an absent one passes the other upward. -/
def treeNode (op : Nat → Nat → Nat × Flags) (leaf : Nat → Option (Nat × Flags)) : Nat → Nat → Option (Nat × Flags)
  | 0, i => leaf i
  | j + 1, i =>
    match treeNode op leaf j (2 * i), treeNode op leaf j (2 * i + 1) with
    | some a, some b => some ((op a.1 b.1).1, a.2 ||| b.2 ||| (op a.1 b.1).2)
    | some a, none => some a
    | none, b => b

/-- The fold of R199 over the lanes below n: the running value is operand A. -/
def laneFold (op : Nat → Nat → Nat × Flags) (arg : Nat → Option Nat) : Nat → Option (Nat × Flags)
  | 0 => none
  | n + 1 =>
    match laneFold op arg n, arg n with
    | some a, some b => some ((op a.1 b).1, a.2 ||| (op a.1 b).2)
    | none, some b => some (b, 0)
    | a, none => a

/-! The block of a context's user interrupts (R385, R397). -/

/-- A context's block is named, lies in memory that the device reaches, scrubbed, apart from the context's own block, and nothing that
is pending elsewhere, an uncorrectable error or a host's write, is still to reach a byte of memory. -/
structure BlockPlain (s : State) (p c : Nat) : Prop where
  named : uibAddr s p c ≠ 0
  aligned : uibAddr s p c % 64 = 0
  reach : ∀ o, o < 0x300 → paReach s (some p) (uibAddr s p c + o) = true ∧ paLost s (uibAddr s p c + o) = false
  apart : uibAddr s p c + 0x300 ≤ ctxAddr s p c ∨ ctxAddr s p c + 64 ≤ uibAddr s p c
  scrubbed : ∀ a, scrubAt s a = s
  sound : s.uerr = []
  home : s.far = []
  mem : MemOk s

/-! The control block. -/

/-- Words of a partition's control block that hold RW fields alone, with the bits of those fields (R226, R375, R376, R414, R425, R430,
R452). -/
def plainWords : List (Nat × Nat) :=
  [(0x128, 2 ^ 64 - 1), (0x500, 0xF000000F), (0x508, (2 ^ 54 - 1) * 2 ^ 3), (0x520, 0xFFFF0000000F), (0x600, 0x3F3F),
    (0x708, 2 ^ 64 - 1), (0xB08, 2 ^ 29 - 1)]

/-- The 64-bit word at an offset of the control block has a field that takes a write (R218, R219, R223, R226, R228, R344, R345, R353,
R375, R376, R404, R414, R425, R430, R437, R440, R444, R452). -/
def writableWord (o : Nat) : Bool :=
  [0x100, 0x110, 0x120, 0x128, 0x300, 0x310, 0x500, 0x508, 0x510, 0x518, 0x520, 0x600, 0x700, 0x708, 0xB00, 0xB08].contains o ||
    decide (0x140 ≤ o ∧ o < 0x170) || decide (0x200 ≤ o ∧ o < 0x280) || decide (0x400 ≤ o ∧ o < 0x4C0) ||
    decide (0xA00 ≤ o ∧ o < 0xA60 ∧ o % 16 = 0) || decide (0x1000 ≤ o ∧ o < 0x1800 ∧ o % 32 ≠ 8) ||
    decide (0x2000 ≤ o ∧ o < 0x3000 ∧ (o % 64 = 8 ∨ o % 64 = 32)) || decide (0x3000 ≤ o ∧ o < 0x3800 ∧ o % 32 < 24) ||
    decide (0x3800 ≤ o ∧ o < 0x3C00 ∧ o % 16 = 8)

/-! The frame of a word that computes. -/

/-- Short words that write a register result and raise no flag, with whether the result is 64 bits wide. -/
def computeWords : List ((WordF → Instr) × (WordF → Bool)) :=
  ([.iadd, .isub, .imul, .imulh, .imad, .iabs, .ineg, .imin, .imax, .isad, .iclamp, .idiv, .irem, .and, .or, .xor, .andn, .orn,
    .shl, .shr, .sar, .rot, .fsh, .bfe, .bfi, .brev, .cvti, .mov, .sel] : List (WordF → Instr)).map (fun k => (k, is64)) ++
  ([.imadw, .lea, .movl] : List (WordF → Instr)).map (fun k => (k, fun _ => true)) ++
  ([.idp4, .idp2, .popc, .clz, .ctz, .bswz, .p2v] : List (WordF → Instr)).map (fun k => (k, fun _ => false)) ++
  [(.blut, fun f => f.mod.toNat % 2 == 1)]

/-- Short floating-point words that write a register result, with whether the result is 64 bits wide. -/
def floatWords : List ((WordF → Instr) × (WordF → Bool)) :=
  ([.fadd, .fsub, .fmul, .ffma, .fmin, .fmax, .fminm, .fmaxm, .fsgn, .frnd, .fscale, .fcvt, .itof, .fgetm, .rngf] :
    List (WordF → Instr)).map (fun k => (k, isF64)) ++
  ([.fclass, .fadd2, .fmul2, .ffma2, .fdot2, .fdot4, .fcvtsr, .fgete] : List (WordF → Instr)).map (fun k => (k, fun _ => false)) ++
  [(.ftoi, fun f => (ityOf (extVal f.c)).bits == 64)]

/-- What a computing word leaves: everything outside the cores; every other warp; of its own warp the control registers, the
predicates, the registers that it neither writes nor releases, and the lanes of its result that do not execute it; its lanes move to
the next word. -/
structure ComputeFrame (x : Instr) (f : WordF) (span : Nat) (s : State) (i : Iss) (t : State) (u : Warp) : Prop where
  outside : SameOutside s t
  others : ∀ pl, pl ≠ i.place → warp? t pl = warp? s pl
  own : warp? t i.place = some u
  control : SameControl i.w u
  preds : ∀ p, pMask u p = pMask i.w p
  vregs : ∀ r, r ∉ lastUses x → r ∉ (regsFrom f.dst span).1 → FMap.get? u.v r = FMap.get? i.w.v r
  lanes : ∀ r (l : Lane), r ∉ lastUses x → i.l.has l = false → vRead u r l = vRead i.w r l
  sregs : ∀ n, n ∉ (regsFrom f.dst span).2 → sRead u n = sRead i.w n
  pcs : ∀ l : Lane, u.pc[l] = if i.a.has l then i.w.pc[l] + BitVec.ofNat 64 (8 * i.len) else i.w.pc[l]
  tracks : t.tracks = s.tracks
  copies : t.xfers = s.xfers
  requests : t.pend = s.pend
  spads : ∀ g a, (wg? t g).map (fun y => FMap.get? y.spad a) = (wg? s g).map (fun y => FMap.get? y.spad a)

end Sys2Proof.Machine
end

