-- ==== Sys2Proof/Certificates/Slice0/Obligations.lean ====
section
/-! DEFINITION. The statements for the provers: what each family of instructions does, what the machine does around them, and the
invariants of a step. -/

open Sys2Proof Sys2Proof.Machine

/-! Group 0x0: integer arithmetic. -/

/-- R105, R107, R118: sums, differences, products, absolute values, least and greatest values and clamps are exact, then reduced
modulo 2^n or saturated, and written as R51 states. -/
def Claim.IntegerArithmeticResults : Prop :=
  WritesTyped .iadd (fun f a b _ => satIf f (a + b)) ∧
  WritesTyped .isub (fun f a b _ => satIf f (a - b)) ∧
  WritesTyped .imul (fun f a b _ => satIf f (a * b)) ∧
  WritesTyped .imad (fun f a b c => satIf f (a * b + c)) ∧
  WritesTyped .imulh (fun f a b _ => a * b / 2 ^ (tyInt f).bits) ∧
  WritesTyped .iabs (fun f a _ _ => satIf f (if a < 0 then -a else a)) ∧
  WritesTyped .ineg (fun f a _ _ => satIf f (-a)) ∧
  WritesTyped .imin (fun _ a b _ => if a ≤ b then a else b) ∧
  WritesTyped .imax (fun _ a b _ => if a ≤ b then b else a) ∧
  WritesTyped .isad (fun _ a b c => (if a ≤ b then b - a else a - b) + c) ∧
  WritesTyped .iclamp (fun _ a lo hi => if hi ≤ max a lo then hi else max a lo)

/-- R108: the quotient and the remainder, and what they are for a divisor of zero and for the signed overflow. -/
def Claim.DivisionResults : Prop :=
  WritesTyped .idiv (fun f a b _ =>
    if b = 0 then 2 ^ (tyInt f).bits - 1
    else if (tyInt f).signed = true ∧ a = -(2 ^ ((tyInt f).bits - 1)) ∧ b = -1 then a
    else a.tdiv b) ∧
  WritesTyped .irem (fun f a b _ =>
    if b = 0 then a
    else if (tyInt f).signed = true ∧ a = -(2 ^ ((tyInt f).bits - 1)) ∧ b = -1 then 0
    else a - a.tdiv b * b)

/-- R108: where the divisor is not zero, quotient and remainder give the dividend back, the remainder is smaller than the divisor
and takes the dividend's sign, for every pair of values of a type but the overflow. -/
def Claim.DivisionIdentity : Prop :=
  ∀ (t : IType) (x y : Nat), t.val y ≠ 0 → ¬ (t.signed = true ∧ t.val x = t.lo ∧ t.val y = -1) →
    quotient t (t.val x) (t.val y) * t.val y + remainder t (t.val x) (t.val y) = t.val x ∧
    (remainder t (t.val x) (t.val y)).natAbs < (t.val y).natAbs ∧
    (0 ≤ t.val x → 0 ≤ remainder t (t.val x) (t.val y)) ∧ (t.val x ≤ 0 → remainder t (t.val x) (t.val y) ≤ 0) ∧
    t.val (t.enc (quotient t (t.val x) (t.val y))) = quotient t (t.val x) (t.val y) ∧
    t.val (t.enc (remainder t (t.val x) (t.val y))) = remainder t (t.val x) (t.val y)

/-- R106: the sum with carry in, or the difference with borrow in, modulo 2^(n+1): its low n bits go to the destination, its bit n
to the predicate. -/
def Claim.CarryChainResults : Prop :=
  Changes .iaddc (fun f s i w =>
    let n := (tyInt f).bits
    let sum (l : Lane) : Nat :=
      (srcVal s i (.int n) f.a l + srcVal s i (.int n) f.b l + if predVal i f.c l then 1 else 0) % 2 ^ (n + 1)
    writePred (writeDst w i.l f.dst (is64 f) (fun l => sum l % 2 ^ n)) i.l f.c (fun l => (sum l).testBit n)) ∧
  Changes .isubb (fun f s i w =>
    let n := (tyInt f).bits
    let dif (l : Lane) : Nat :=
      (srcVal s i (.int n) f.a l + 2 ^ (n + 1) - srcVal s i (.int n) f.b l % 2 ^ n - if predVal i f.c l then 1 else 0) %
        2 ^ (n + 1)
    writePred (writeDst w i.l f.dst (is64 f) (fun l => dif l % 2 ^ n)) i.l f.c (fun l => (dif l).testBit n))

/-- R106: limbs of n bits chain: destination and carry are the sum exactly; for the difference the borrow is 1 just when a < b + k. -/
def Claim.CarryIdentity : Prop :=
  ∀ n a b k : Nat, a < 2 ^ n → b < 2 ^ n → k ≤ 1 →
    carrySum false n a b k % 2 ^ n + 2 ^ n * (if (carrySum false n a b k).testBit n then 1 else 0) = a + b + k ∧
    ((carrySum true n a b k).testBit n = true ↔ a < b + k) ∧
    (carrySum true n a b k % 2 ^ n : Nat) + b + k = a + 2 ^ n * (if (carrySum true n a b k).testBit n then 1 else 0)

/-- R107, R109, R110: the widening multiply-add, the address computation and the dot products. -/
def Claim.WideAndDotResults : Prop :=
  Writes .imadw (fun _ => true) (fun f s i l =>
    ofInt 64 (intArg s i (tyInt f) f.a l * intArg s i (tyInt f) f.b l + (srcVal s i (.int 64) f.c l : Int))) ∧
  Writes .lea (fun _ => true) (fun f s i l =>
    ofInt 64 ((srcVal s i (.int 64) f.a l : Int) + intArg s i (tyInt f) f.b l * 2 ^ subOp f)) ∧
  Writes .idp4 (fun _ => false) (fun f s i l =>
    dotValue 8 4 (tyInt f).signed (subOp f % 2 == 1) (subOp f / 2 % 2 == 1) (u32Arg s i f.a l) (u32Arg s i f.b l)
      (u32Arg s i f.c l)) ∧
  Writes .idp2 (fun _ => false) (fun f s i l =>
    dotValue 16 2 (tyInt f).signed (subOp f % 2 == 1) (subOp f / 2 % 2 == 1) (u32Arg s i f.a l) (u32Arg s i f.b l)
      (u32Arg s i f.c l))

/-! Group 0x1: logic and bits. -/

/-- R111, R112: the bitwise instructions; bit j of a BLUT's result is the table's bit at x + 2y + 4z. -/
def Claim.LogicResults : Prop :=
  WritesBits .and is64 (fun _ _ a b _ => a &&& b) (fun _ _ _ _ => 0) ∧
  WritesBits .or is64 (fun _ _ a b _ => a ||| b) (fun _ _ _ _ => 0) ∧
  WritesBits .xor is64 (fun _ _ a b _ => a ^^^ b) (fun _ _ _ _ => 0) ∧
  WritesBits .andn is64 (fun _ n a b _ => a &&& (2 ^ n - 1 - b % 2 ^ n)) (fun _ _ _ _ => 0) ∧
  WritesBits .orn is64 (fun _ n a b _ => a ||| (2 ^ n - 1 - b % 2 ^ n)) (fun _ _ _ _ => 0) ∧
  (∀ f s i, Clean (.blut f) s i →
    exec (.blut f) s = .next (wordDone s i (.blut f) (fun w =>
      writeDst w i.l f.dst (f.mod.toNat % 2 == 1) (fun l =>
        let n := if f.mod.toNat % 2 = 1 then 64 else 32
        lutN n (lutTable f) (srcVal s i (.int n) f.a l) (srcVal s i (.int n) f.b l) (srcVal s i (.int n) f.c l)))))

/-- R112: the lookup acts bit by bit, with a as the least significant bit of the index. -/
def Claim.LutIsBitwise : Prop :=
  ∀ n tt a b c j : Nat, j < n → a < 2 ^ n → b < 2 ^ n → c < 2 ^ n →
    (lutN n tt a b c).testBit j =
      tt.testBit ((if a.testBit j then 1 else 0) + (if b.testBit j then 2 else 0) + (if c.testBit j then 4 else 0))

/-- R113: shifts and rotates, for amounts below the width and at or past it, with and without .WRAP and .R. -/
def Claim.ShiftResults : Prop :=
  let amount (f : WordF) (n k : Nat) : Nat := if subOp f % 2 = 1 then k % n else k
  let b (f : WordF) (s : State) (i : Iss) (l : Lane) : Nat := u32Arg s i f.b l
  WritesBits .shl is64 (fun f n a _ k =>
    if amount f n k < n then a * 2 ^ amount f n k % 2 ^ n else 0) b ∧
  WritesBits .shr is64 (fun f n a _ k => if amount f n k < n then a / 2 ^ amount f n k else 0) b ∧
  WritesBits .sar is64 (fun f n a _ k =>
    if amount f n k < n then ofInt n (toSigned n a / 2 ^ amount f n k)
    else if toSigned n a < 0 then 2 ^ n - 1 else 0) b ∧
  WritesBits .rot is64 (fun f n a _ k =>
    let r := if subOp f % 2 = 1 then (n - k % n) % n else k % n
    if r = 0 then a else (a * 2 ^ r ||| a / 2 ^ (n - r)) % 2 ^ n) b

/-- R113: at every width the shifts are those of bit vectors: zero fill, sign fill, and rotation. -/
def Claim.ShiftsAreBitVectorShifts : Prop :=
  ∀ (n k : Nat) (a : BitVec n), 0 < n →
    shlN n a.toNat k = (a <<< k).toNat ∧ shrN n a.toNat k = (a >>> k).toNat ∧ sarN n a.toNat k = (a.sshiftRight k).toNat ∧
    rotN n a.toNat k = (a.rotateLeft k).toNat

/-- R114, R115: the funnel shift, and the extraction and insertion of fields. -/
def Claim.FieldResults : Prop :=
  WritesBits .fsh is64 (fun f n a b c =>
    let k := if subOp f / 2 % 2 = 1 then c % n else min c n
    if subOp f % 2 = 1 then (a * 2 ^ n + b) * 2 ^ k / 2 ^ n % 2 ^ n else (a * 2 ^ n + b) / 2 ^ k % 2 ^ n)
    (fun f s i l => u32Arg s i f.c l) ∧
  WritesBits .bfe is64 (fun f n a _ ctl =>
    let pos := ctl % 256
    let len := ctl / 256 % 256
    if len = 0 ∨ n ≤ pos then 0
    else
      let m := min len (n - pos)
      if (tyInt f).signed then ofInt n (toSigned m (a / 2 ^ pos % 2 ^ m)) else a / 2 ^ pos % 2 ^ m)
    (fun f s i l => u32Arg s i f.b l) ∧
  WritesBits .bfi is64 (fun _ n a b ctl =>
    let pos := ctl % 256
    let len := ctl / 256 % 256
    if len = 0 ∨ n ≤ pos then b
    else
      let m := min len (n - pos)
      b - b / 2 ^ pos % 2 ^ m * 2 ^ pos + a % 2 ^ m * 2 ^ pos)
    (fun f s i l => u32Arg s i f.c l)

/-- R116, R117: the counts, the bit reversal and the byte permutation. -/
def Claim.CountAndSwizzleResults : Prop :=
  let none3 (_ : WordF) (_ : State) (_ : Iss) (_ : Lane) : Nat := 0
  WritesBits .popc (fun _ => false) (fun _ n a _ _ => ((List.range n).filter (fun j => a.testBit j)).length) none3 ∧
  WritesBits .clz (fun _ => false) (fun _ n a _ _ => if a % 2 ^ n = 0 then n else n - 1 - Nat.log2 (a % 2 ^ n)) none3 ∧
  WritesBits .ctz (fun _ => false) (fun _ n a _ _ => ((List.range n).find? (fun j => a.testBit j)).getD n) none3 ∧
  WritesBits .brev is64 (fun _ n a _ _ => brevN n a) none3 ∧
  (∀ n a j, j < n → (brevN n a).testBit j = a.testBit (n - 1 - j)) ∧
  Writes .bswz (fun _ => false) (fun f s i l =>
    let x := u32Arg s i f.a l + u32Arg s i f.b l * 2 ^ 32
    ((List.range 4).map (fun j =>
      let sel := u32Arg s i f.c l / 2 ^ (8 * j) % 256
      let k := x / 2 ^ (8 * (sel % 8)) % 256
      (match sel / 16 % 4 with
        | 0 => k
        | 1 => 0
        | 2 => if 128 ≤ k then 255 else 0
        | _ => brevN 8 k) * 2 ^ (8 * j))).sum)

/-! Group 0x2: compare, select, move. -/

/-- R101, R119, R120, R121, R122, R112: compares and predicate words, moves that carry their poison marks, and conversions. -/
def Claim.SelectAndMoveResults : Prop :=
  Changes .icmp (fun f s i w => writePred w i.l f.dst (fun l =>
    intCond (subOp f) (intArg s i (tyInt f) f.a l) (intArg s i (tyInt f) f.b l) && predVal i f.c l)) ∧
  Changes .plut (fun f _ i w => writePred w i.l f.dst (fun l =>
    (lutTable f).testBit ((if predVal i f.a l then 1 else 0) + (if predVal i f.b l then 2 else 0) +
      (if predVal i f.c l then 4 else 0)))) ∧
  Changes .v2p (fun f s i w => (List.range 7).foldl (fun w p =>
    pWrite w p (Mask.ofFn (fun l => i.l.has l && (u32Arg s i f.b l).testBit p))
      (Mask.ofFn (fun l => (u32Arg s i f.a l).testBit p))) w) ∧
  Writes .p2v (fun _ => false) (fun _ _ i l =>
    ((List.range 8).map (fun p => if pRead i.w p l then 2 ^ p else 0)).sum) ∧
  Writes .cvti is64 (fun f s i l =>
    let x := intArg s i (ityOf (subOp f)) f.a l
    (tyInt f).enc (if extVal f.c = 1 then satT (tyInt f) x else x)) ∧
  Carries .mov (fun f s i w => writeCarried w i.l f.dst (is64 f) (carried s i (.int (tyInt f).bits) f.a)) ∧
  Carries .movl (fun f s i w => writeCarried w i.l f.dst true
    (fun k l => carried s i (.int 32) (if k = 0 then f.a else f.b) 0 l)) ∧
  Carries .sel (fun f s i w => writeCarried w i.l f.dst (is64 f)
    (fun k l => carried s i (.int (tyInt f).bits) (if predVal i f.c l then f.a else f.b) k l))

/-! Groups 0x3 and 0x4: floating point, conversions, random numbers, and the paired word. -/

/-- R68, R129 to R137: the short arithmetic words round once, write their result and merge its flags. -/
def Claim.FloatArithmeticResults : Prop :=
  WritesFp3 .fadd (fun t _ r z a b _ => fpAdd t r z false a b) ∧
  WritesFp3 .fsub (fun t _ r z a b _ => fpAdd t r z true a b) ∧
  WritesFp3 .fmul (fun t _ r z a b _ => fpMul t r z a b) ∧
  WritesFp3 .ffma (fun t _ r z a b c => fpFma t r z a b c) ∧
  WritesFp3 .fmin (fun t _ _ z a b _ => fpMinMax t .min z a b) ∧
  WritesFp3 .fmax (fun t _ _ z a b _ => fpMinMax t .max z a b) ∧
  WritesFp3 .fminm (fun t _ _ z a b _ => fpMinMax t .minm z a b) ∧
  WritesFp3 .fmaxm (fun t _ _ z a b _ => fpMinMax t .maxm z a b) ∧
  WritesFp3 .fsgn (fun t f _ _ a b _ => (fpSgn t (extVal f.c) a b, 0)) ∧
  WritesFp3 .frnd (fun t _ r z a _ _ => fpRnd t r z a) ∧
  WritesFp .fscale isF64 (fun f s i l =>
    fpScale (tyFp f) (wordMode i f) i.w.ftz (fpArg s i (tyFp f) f.a l) (intArg s i .s32 f.b l)) ∧
  WritesFp .fclass (fun _ => false) (fun f s i l => (fpClass (tyFp f) (fpArg s i (tyFp f) f.a l), 0)) ∧
  Changes .fcmp (fun f s i w =>
    let c (l : Lane) : Bool × Flags :=
      fpCmp (tyFp f) (extVal f.c) i.w.ftz (fpArg s i (tyFp f) f.a l) (fpArg s i (tyFp f) f.b l)
    mergeFlags i (dstCode f.dst) (fun l => (c l).2) (writePred w i.l f.dst (fun l => (c l).1)))

/-- R131, R132: packed pairs and dot products. -/
def Claim.PackedFloatResults : Prop :=
  let el (f : WordF) (s : State) (i : Iss) (o : Opd) (l : Lane) (j : Nat) : Nat :=
    fpElem (tyFp f) (packArg s i (tyFp f) o l) j
  WritesFp .fadd2 (fun _ => false) (fun f s i l =>
    fpPacked (fun j => fpAdd (tyFp f) (wordMode i f) i.w.ftz false (el f s i f.a l j) (el f s i f.b l j))) ∧
  WritesFp .fmul2 (fun _ => false) (fun f s i l =>
    fpPacked (fun j => fpMul (tyFp f) (wordMode i f) i.w.ftz (el f s i f.a l j) (el f s i f.b l j))) ∧
  WritesFp .ffma2 (fun _ => false) (fun f s i l =>
    fpPacked (fun j => fpFma (tyFp f) (wordMode i f) i.w.ftz (el f s i f.a l j) (el f s i f.b l j) (el f s i f.c l j))) ∧
  WritesFp .fdot2 (fun _ => false) (fun f s i l =>
    fpDot (tyFp f) 2 (wordMode i f) i.w.ftz (packArg s i (tyFp f) f.a l) (packArg s i (tyFp f) f.b l)
      (fpArg s i .f32 f.c l)) ∧
  WritesFp .fdot4 (fun _ => false) (fun f s i l =>
    fpDot (tyFp f) 4 (wordMode i f) i.w.ftz (packArg s i (tyFp f) f.a l) (packArg s i (tyFp f) f.b l)
      (fpArg s i .f32 f.c l))

/-- R142 to R146, R149: the short conversions and RNGF. -/
def Claim.ConversionResults : Prop :=
  WritesFp .fcvt isF64 (fun f s i l =>
    let src := ftyOf (extVal f.c % 8)
    fpCvt (tyFp f) src (extVal f.c / 8 % 2 == 1) (wordMode i f) i.w.ftz (fpArg s i src f.a l)) ∧
  WritesFp .ftoi (fun f => (ityOf (extVal f.c)).bits == 64) (fun f s i l =>
    fpToInt (tyFp f) (ityOf (extVal f.c)) (wordMode i f) i.w.ftz (fpArg s i (tyFp f) f.a l)) ∧
  WritesFp .itof isF64 (fun f s i l =>
    let src := ityOf (extVal f.c)
    intToFp (tyFp f) src (wordMode i f) i.w.ftz (srcVal s i (.int src.bits) f.a l)) ∧
  WritesFp .fcvtsr (fun _ => false) (fun f s i l =>
    fpSRound (tyFp f) (extVal f.c == 1) i.w.ftz (fpArg s i .f32 f.a l) (u32Arg s i f.b l)) ∧
  WritesFp .fgete (fun _ => false) (fun f s i l => fpGetE (tyFp f) i.w.ftz (fpArg s i (tyFp f) f.a l)) ∧
  WritesFp .fgetm isF64 (fun f s i l => fpGetM (tyFp f) i.w.ftz (fpArg s i (tyFp f) f.a l)) ∧
  WritesFp .rngf isF64 (fun f s i l => (rngToFp (tyFp f) (u32Arg s i f.a l), 0))

/-- R126, R138 to R140, R147, R148: a long word marks its destination empty; its request carries the results and flags of all
lanes whose guard holds. -/
def Claim.LongWordsDeliver : Prop :=
  let fn (k : FFun) (f : WordF) (s : State) (i : Iss) (l : Lane) : Nat × Flags :=
    fpFun k (tyFp f) (wordMode i f) i.w.ftz (fpArg s i (tyFp f) f.a l)
  Delivers .frcp isF64 (fn .rcp) ∧ Delivers .frsq isF64 (fn .rsq) ∧ Delivers .fsqrt isF64 (fn .sqrt) ∧
  Delivers .fexp2 isF64 (fn .exp2) ∧ Delivers .flog2 isF64 (fn .log2) ∧ Delivers .fsinpi isF64 (fn .sinpi) ∧
  Delivers .fcospi isF64 (fn .cospi) ∧ Delivers .ftanh isF64 (fn .tanh) ∧
  Delivers .fdiv isF64 (fun f s i l =>
    fpDiv (tyFp f) (wordMode i f) i.w.ftz (fpArg s i (tyFp f) f.a l) (fpArg s i (tyFp f) f.b l)) ∧
  (∀ f s i, Clean (.rngpx f) s i →
    exec (.rngpx f) s = .next (wordAfter i (if i.l = 0#32 then wordState s i (.rngpx f)
      else addPend (wordState s i (.rngpx f)) i.place .long i.l
        (fillsOf f.dst 4 (deliveredLanes i f.dst) (fun k l => Val.clean (BitVec.ofNat 32
          ((philox (groupReg i f.a 4 0 l) (groupReg i f.a 4 1 l) (groupReg i f.a 4 2 l) (groupReg i f.a 4 3 l)
            (groupReg i f.b 2 0 l) (groupReg i f.b 2 1 l)).getD k 0)))))))

/-- R27, R126, R260, R261, R264: when a request in flight completes, it is gone, and each v register of it that still awaits it holds
the request's values in its lanes, keeps the others, and is full; each s register that awaits it holds the value of the request's lowest
lane, and is full. A pair, a group of four and a wide load are requests of several registers. -/
def Claim.RequestsComplete : Prop :=
  ∀ (s : State) (id : Nat) (p : Pend) (x : Instr), FMap.get? s.pend id = some p →
    ((x = .loadComplete id ∧ p.kind = .load) ∨ (x = .atomicComplete id ∧ p.kind = .atomic) ∨
      (x = .writeAcknowledged id ∧ p.kind = .store) ∨ (x = .longComplete id ∧ p.kind = .long)) →
    ∃ t, exec x s = .next t ∧ FMap.get? t.pend id = none ∧
      (∀ w, warp? s p.place = some w → w.spilled = false → ∃ w', warp? t p.place = some w' ∧ w'.pc = w.pc ∧ w'.p = w.p ∧
        ((p.fills.map Fill.code).Nodup → ∀ fill ∈ p.fills,
          (fill.code < 256 → ∀ r, FMap.get? w.v fill.code = some r → r.busy = some id → vBusy w' fill.code = false ∧
            ∀ l, vRead w' fill.code l = if Mask.has fill.mask l then fill.vals[l] else r.lanes[l]) ∧
          (256 < fill.code → ∀ u, FMap.get? w.s (fill.code - 256) = some u → u.busy = some id →
            sBusy w' (fill.code - 256) = false ∧
            ∀ l, Mask.low? fill.mask = some l → sRead w' (fill.code - 256) = fill.vals[l])))

/-- R88 to R91: both halves of a paired word read before either writes; each writes its register, the high half's flags first. -/
def Claim.PairedWordResults : Prop :=
  ∀ hi lo s i, Clean (.pairedWord hi lo) s i →
    exec (.pairedWord hi lo) s = .next (wordDone s i (.pairedWord hi lo) (fun w =>
      halfWrite s i lo true (halfWrite s i hi false w)))

/-- R60 to R65, R130, R132, R139, R142, R144: for finite operands, a sum, difference, product, fused product, dot product, quotient,
conversion between formats and conversion from an integer deliver the exact result, rounded once, with the flags of R64, in each of the
four formats of arithmetic; an exact zero takes its sign from R65. -/
def Claim.FloatsRoundOnce : Prop :=
  ∀ (t : FType) (mode : RMode) (ftz : Bool) (a b c : Nat), t.fmt.flushed = true →
    let x := t.fmt.read ftz a
    let y := t.fmt.read ftz b
    let z := t.fmt.read ftz c
    let zero (p q : Bool) (r : Nat × Flags) : Prop := Stands t.fmt (if p = q then p else mode == .rdn) 0 r.1 ∧ r.2 = 0
    (FiniteVal x → FiniteVal y →
      (ratOf x + ratOf y ≠ 0 → RoundedOnce t.fmt mode ftz (ratOf x + ratOf y) (fpAdd t mode ftz false a b)) ∧
      (ratOf x + ratOf y = 0 → zero x.sign y.sign (fpAdd t mode ftz false a b)) ∧
      (ratOf x - ratOf y ≠ 0 → RoundedOnce t.fmt mode ftz (ratOf x - ratOf y) (fpAdd t mode ftz true a b)) ∧
      (ratOf x - ratOf y = 0 → zero x.sign (!y.sign) (fpAdd t mode ftz true a b)) ∧
      (ratOf x * ratOf y ≠ 0 → RoundedOnce t.fmt mode ftz (ratOf x * ratOf y) (fpMul t mode ftz a b)) ∧
      (ratOf x * ratOf y = 0 → zero (x.sign != y.sign) (x.sign != y.sign) (fpMul t mode ftz a b)) ∧
      (ratOf x ≠ 0 → ratOf y ≠ 0 → RoundedOnce t.fmt mode ftz (ratOf x / ratOf y) (fpDiv t mode ftz a b)) ∧
      (FiniteVal z →
        (ratOf x * ratOf y + ratOf z ≠ 0 →
          RoundedOnce t.fmt mode ftz (ratOf x * ratOf y + ratOf z) (fpFma t mode ftz a b c)) ∧
        (ratOf x * ratOf y + ratOf z = 0 → zero (x.sign != y.sign) z.sign (fpFma t mode ftz a b c)))) ∧
    (∀ (u : FType) (n : Nat), let g := FType.f32.fmt
      let el (v k : Nat) : FVal := u.fmt.read ftz (fpElem u v k)
      (∀ k, k < n → FiniteVal (el a k) ∧ FiniteVal (el b k)) → FiniteVal (g.read ftz c) →
      let s := ((List.range n).map (fun k => ratOf (el a k) * ratOf (el b k))).sum + ratOf (g.read ftz c)
      s ≠ 0 → RoundedOnce g mode ftz s (fpDot u n mode ftz a b c)) ∧
    (∀ (u : FType) (nsat : Bool), u ≠ t → FiniteVal (u.fmt.read ftz a) → ratOf (u.fmt.read ftz a) ≠ 0 →
      RoundedOnce t.fmt mode ftz (ratOf (u.fmt.read ftz a)) (fpCvt t u nsat mode ftz a)) ∧
    (∀ i : IType, i.val a ≠ 0 → RoundedOnce t.fmt mode ftz (i.val a : ℚ) (intToFp t i mode ftz a))

/-- R65, R68: FMIN and FMAX deliver the lesser and the greater operand as read, with -0 below +0, and no flag for numbers; of a number
and a NaN the two number forms deliver the number, and the others the NaN, quieted; a signalling NaN raises NV. -/
def Claim.MinMaxPicks : Prop :=
  ∀ (t : FType) (k : MinMax) (ftz : Bool) (a b : Nat),
    let x := t.fmt.read ftz a
    let y := t.fmt.read ftz b
    let r := fpMinMax t k ftz a b
    let low : Bool := k == .min || k == .minm
    let number : Bool := k == .min || k == .max
    (x.isNan = false → y.isNan = false → r.2 = 0 ∧ (r.1 = fpKeep t ftz a ∨ r.1 = fpKeep t ftz b)) ∧
    (FiniteVal x → FiniteVal y →
      ratOf (t.fmt.read ftz r.1) = (if low then min (ratOf x) (ratOf y) else max (ratOf x) (ratOf y)) ∧
      (x.isZero = true → y.isZero = true →
        (t.fmt.read ftz r.1).sign = (if low then x.sign || y.sign else x.sign && y.sign))) ∧
    (number = true → x.isNan = true → y.isNan = false → r.1 = fpKeep t ftz b) ∧
    (number = true → x.isNan = false → y.isNan = true → r.1 = fpKeep t ftz a) ∧
    ((x.isNan = true ∧ y.isNan = true) ∨ (number = false ∧ (x.isNan = true ∨ y.isNan = true)) →
      (t.fmt.unpack r.1).isNan = true ∧ (t.fmt.unpack r.1).isSignal = false ∧
      (t.fmt.unpack r.1).sign = if x.isNan then x.sign else y.sign) ∧
    (x.isNan = true ∨ y.isNan = true → r.2 = if x.isSignal || y.isSignal then flagNV else 0)

/-- R134: FCLASS writes exactly one bit, chosen from sign, exponent and fraction of the encoding, whatever FTZ says, and raises no
flag. -/
def Claim.ClassByEncoding : Prop :=
  WritesFp .fclass (fun _ => false) (fun f s i l =>
    let t := tyFp f
    let a := fpArg s i t f.a l
    let neg := a.testBit (t.bits - 1)
    let e := a / 2 ^ t.fmt.fb % 2 ^ t.fmt.eb
    let m := a % 2 ^ t.fmt.fb
    (2 ^ (if t.fmt.hasInf = true ∧ e = 2 ^ t.fmt.eb - 1 then
        (if m = 0 then (if neg then 0 else 7) else if m.testBit (t.fmt.fb - 1) then 9 else 8)
      else if t = .e4m3 ∧ e = 15 ∧ m = 7 then 9
      else if e = 0 then (if m = 0 then (if neg then 3 else 4) else if neg then 2 else 5)
      else if neg then 1 else 6), 0))

/-- R135: FSGN changes no bit but the sign, which it forms as its field says. -/
def Claim.SignReplaced : Prop :=
  ∀ (t : FType) (a b : Nat), a < 2 ^ t.bits → b < 2 ^ t.bits → ∀ op : Nat, op ≤ 2 →
    fpSgn t op a b < 2 ^ t.bits ∧ fpSgn t op a b % 2 ^ (t.bits - 1) = a % 2 ^ (t.bits - 1) ∧
    (fpSgn t op a b).testBit (t.bits - 1) =
      (if op = 0 then b.testBit (t.bits - 1) else if op = 1 then !b.testBit (t.bits - 1)
       else (a.testBit (t.bits - 1) ^^ b.testBit (t.bits - 1)))

/-! Group 0x5: control. -/

/-- R153: a branch, call or return moves every active lane, writes the return pair in the lanes whose guard holds, and raises
MISALIGN, with nothing moved, where a target is not a multiple of 8. -/
def Claim.BranchesTransfer : Prop :=
  let transfers (mk : WordB → Instr) (ret : WordB → Option Nat) (target : WordB → State → Iss → Lane → Dword) : Prop :=
    ∀ b s i, Clean (mk b) s i → atLend i = false →
      let bad := Mask.ofFn (fun l => i.l.has l && (target b s i l).toNat % 8 != 0)
      exec (mk b) s = .next (if bad = 0#32
        then wordMoved s i (mk b) (fun w =>
          let w := match ret b with
            | some r => vWrite (vWrite w r i.l (fun _ => Val.clean (i.next.setWidth 32))) (r + 1) i.l
                (fun _ => Val.clean ((i.next >>> 32).setWidth 32))
            | none => w
          jump w i.a (fun l => if i.l.has l then target b s i l else i.next))
        else wordTraps s i ⟨5, 0, 1, false, bad, []⟩)
  let pcRelative (b : WordB) (_ : State) (i : Iss) (_ : Lane) : Dword := i.pc + 8 * b.disp.signExtend 64
  let register (b : WordB) (s : State) (i : Iss) (l : Lane) : Dword := BitVec.ofNat 64 (srcVal s i (.int 64) b.ct l)
  let link (b : WordB) : Option Nat := some (b.bmod.toNat / 32 % 256)
  transfers .bra (fun _ => none) pcRelative ∧ transfers .brx (fun _ => none) register ∧
  transfers .call link pcRelative ∧ transfers .callx link register ∧ transfers .ret (fun _ => none) register

/-- R155, R158, R22: a LOOP with no lane only moves on; one with a count opens a level for the lanes whose guard holds; one whose count
is zero sends them past the word at the body's end, whose length it reads as a fetch, and traps or parks as that fetch does. An LBRK
does the same past the outermost level that it leaves; its lanes are gone from the levels it leaves, and an empty level ends. -/
def Claim.LoopsOpenAndBreak : Prop :=
  let past (x : Instr) (s : State) (i : Iss) (last : Dword) (leave : Warp → Warp) : Prop :=
    (∀ d, fetchDenied i.w i.a i.pc = some d → exec x s = .next (wordTraps s i ⟨6, d.kind, 0, false, d.mask &&& i.a, []⟩)) ∧
    (fetchDenied i.w i.a i.pc = none →
      let r := fetchAt (wordState s i x) i.place i.w last
      (∀ d, r.2 = .word d → exec x s = .next (retired (modWarp r.1 i.place (fun w =>
        jump (leave w) i.a (fun l => if i.l.has l then last + BitVec.ofNat 64 (8 * wordLength d) else i.next))) i)) ∧
      (∀ c w, r.2 = .park c → warp? s i.place = some w →
        exec x s = .next (endIssue (setWarp r.1 i.place (parkLanes w c i.a true)))) ∧
      (∀ c k o, r.2 = .trap c k o → exec x s = .next (wordTraps s i ⟨c, k, o, false, i.a, []⟩)))
  (∀ b s i, Clean (.loop b) s i → loopBad b s i = none →
    let k := uniVal s i (.int 32) b.ct
    (i.l = 0#32 → exec (.loop b) s = .next (wordAfter i (wordState s i (.loop b)))) ∧
    (i.l ≠ 0#32 → k ≠ 0 → exec (.loop b) s = .next (wordDone s i (.loop b) (fun w =>
      { w with loops := w.loops ++ [⟨i.next, dispTarget i b, BitVec.ofNat 32 k, i.l⟩] }))) ∧
    (i.l ≠ 0#32 → k = 0 → past (.loop b) s i (dispTarget i b) id)) ∧
  (∀ b s i, Acts (.lbrk b) s i → lbrkBad b s i = none →
    (i.l = 0#32 → exec (.lbrk b) s = .next (wordAfter i (wordState s i (.lbrk b)))) ∧
    (i.l ≠ 0#32 → ∀ v, i.w.loops[i.w.loops.length - (b.bmod.toNat % 4 + 1)]? = some v →
      past (.lbrk b) s i v.last (fun w => leaveLevels w (b.bmod.toNat % 4 + 1) i.l))) ∧
  (∀ w n m, (leaveLevels w n m).pc = w.pc ∧ (leaveLevels w n m).conv = w.conv ∧ (leaveLevels w n m).v = w.v ∧
    ∀ v, v ∈ (leaveLevels w n m).loops ↔ v.lanes ≠ 0#32 ∧ (v ∈ w.loops.take (w.loops.length - n) ∨
      ∃ u ∈ w.loops.drop (w.loops.length - n), v = { u with lanes := u.lanes &&& ~~~m }))

/-- R156: after the word at LEND the level's lanes go back to LSTA while its count lasts; then the level ends, and the lanes stay where
the word left them. -/
def Claim.BackEdgeTaken : Prop :=
  (∀ (s : State) (c : Issue) (w : Warp) (v : LoopLevel), s.cur = some c → warp? s c.place = some w →
    w.loops.getLast? = some v → v.last = c.pc →
    (1 < v.count.toNat → exec .issueAtLend s = .next (endIssue (modWarp s c.place (fun w => { w with
      loops := w.loops.dropLast ++ [{ v with count := v.count - 1 }]
      pc := Vector.ofFn (fun l => if v.lanes.has l then v.start else w.pc[l]) })))) ∧
    (v.count.toNat ≤ 1 → exec .issueAtLend s =
      .next (endIssue (modWarp s c.place (fun w => { w with loops := w.loops.dropLast }))))) ∧
  (∀ s, s.cur = none → exec .issueAtLend s = .next s) ∧
  (∀ s c w, s.cur = some c → warp? s c.place = some w → (∀ v, w.loops.getLast? = some v → v.last ≠ c.pc) →
    ∃ t, exec .issueAtLend s = .next t ∧ warp? t c.place = some w ∧ t.cur = none)

/-- R161: NOP has no effect but on the PC, whatever its guard. -/
def Claim.NopOnlyMoves : Prop :=
  ∀ f s i, Acts (.nop f) s i → exec (.nop f) s = .next (wordAfter i (wordState s i (.nop f)))

/-- R160: EXIT takes the lanes whose guard holds out of the convergent mask and of every loop level; the others go on. -/
def Claim.ExitRemovesLanes : Prop :=
  (∀ f s i, Acts (.exit f) s i → exitBad s i = none →
    exec (.exit f) s = .next (retired (barCheck (modWarp (wordState s i (.exit f)) i.place (fun w =>
      exitLanes (advance w (i.a &&& ~~~i.l) (8 * i.len)) i.l)) i.w.wg) i)) ∧
  (∀ w m, (exitLanes w m).conv = w.conv &&& ~~~m ∧ (exitLanes w m).pc = w.pc ∧ (exitLanes w m).v = w.v ∧
    ∀ v ∈ (exitLanes w m).loops, v.lanes &&& m = 0#32 ∧ v.lanes ≠ 0#32)

/-- R164: TRAP and BKPT raise the user trap in the lanes whose guard holds, with the low 16 bits of their code; without such a lane
they only move the PC. -/
def Claim.UserTrapsRaise : Prop :=
  let raises (mk : WordF → Instr) (code : Nat) : Prop :=
    ∀ f s i, Clean (mk f) s i → atLend i = false →
      exec (mk f) s = .next (if i.l = 0#32 then wordAfter i (wordState s i (mk f))
        else wordTraps s i ⟨code, uniVal s i (.int 32) f.a % 65536, 0, false, i.l, []⟩)
  raises .trap 0x07 ∧ raises .bkpt 0x0B

/-- R166: ILLEG raises ILLEGAL with DETAIL 0 and OPND 0 in all active lanes whenever it issues. -/
def Claim.IllegRaises : Prop :=
  ∀ low s i, Acts (.illeg low) s i → exec (.illeg low) s = .next (wordTraps s i ⟨1, 0, 0, false, i.a, []⟩)

/-- R162, R20: a precise trap outside a handler, with a handler set, enters it: TRAPPC, TRAPCAUSE, the entry mask and INTRAP, and
the PC of every active lane; no register of the warp changes, and then only lanes of the entry mask may issue. -/
def Claim.TrapEntersHandler : Prop :=
  ∀ (s : State) (pl : Nat) (a : Mask) (pc : Dword) (len : Nat) (t : Trap) (w : Warp), warp? s pl = some w →
    w.intrap = false → w.trapvec ≠ 0#64 → w.svclane = none → isLodge pl = false →
    ∃ w', warp? (takeTrap s pl a pc len t) pl = some w' ∧ w'.trappc = pc ∧ w'.trapcause = BitVec.ofNat 64 t.cause ∧
      w'.tmask = a ∧ w'.intrap = true ∧ (∀ l : Lane, w'.pc[l] = if a.has l then w.trapvec else w.pc[l]) ∧
      w'.v = w.v ∧ w'.s = w.s ∧ w'.p = w.p ∧ w'.loops = w.loops ∧ w'.trapvec = w.trapvec ∧
      (takeTrap s pl a pc len t).cur = none ∧ ∀ l : Lane, (eligible w').has l = true → a.has l = true

/-- R163: TRET waits for the whole entry mask; then every lane of it takes TRAPPC and INTRAP falls; a guard that holds in no lane
only moves the PCs; a TRAPPC that is not a multiple of 8 raises MISALIGN. -/
def Claim.TrapReturnResumes : Prop :=
  (∀ f s i, issOf s f.guard = some i → i.w.intrap = true → i.w.svclane = none → Mask.sub i.w.tmask i.a = false →
    exec (.tret f) s = .next s) ∧
  (∀ f s i, Acts (.tret f) s i → tretWait s i = false → tretBad s i = none →
    exec (.tret f) s = .next (if i.l = 0#32 then wordAfter i (wordState s i (.tret f))
      else if i.w.trappc.toNat % 8 ≠ 0 then wordTraps s i ⟨5, 0, 0, false, i.l, []⟩
      else wordMoved s i (.tret f) (fun w =>
        { jump w w.tmask (fun _ => w.trappc) with intrap := false, tmask := 0#32 })))

/-- R162, R163: entering a handler and leaving it at once brings every lane back to where it stood when its word trapped, and
leaves TRAPCAUSE. -/
def Claim.HandlerRoundTrip : Prop :=
  ∀ (w : Warp) (a : Mask) (pc : Dword) (t : Trap), (∀ l : Lane, a.has l = true → w.pc[l] = pc) →
    (leaveHandler (enterHandler w a pc t)).pc = w.pc ∧ (leaveHandler (enterHandler w a pc t)).intrap = false ∧
    (leaveHandler (enterHandler w a pc t)).trapcause = BitVec.ofNat 64 t.cause ∧
    (leaveHandler (enterHandler w a pc t)).v = w.v ∧ (leaveHandler (enterHandler w a pc t)).s = w.s ∧
    (leaveHandler (enterHandler w a pc t)).p = w.p

/-- R167, R397: MOVX reads a control register into an s register, or writes one from its source; without a lane it makes no access. -/
def Claim.MovxAccesses : Prop :=
  (∀ f s i, Acts (.movxRead f) s i → movxWait false f s i = false →
    let u := if i.l = 0#32 then wordState s i (.movxRead f) else ctlAccess (wordState s i (.movxRead f)) i.w (extVal f.b)
    exec (.movxRead f) s = .next (wordAfter i (modWarp u i.place (fun w =>
      writeDst w i.l f.dst (movxWide f) (fun _ => ctlRead u i.w (extVal f.b)))))) ∧
  (∀ f s i, Clean (.movxWrite f) s i → movxWait true f s i = false →
    exec (.movxWrite f) s = .next (wordAfter i (if i.l = 0#32 then wordState s i (.movxWrite f)
      else ctlRegWrite (wordState s i (.movxWrite f)) i.place i.w (extVal f.b)
        (uniVal s i (.int (if movxWide f then 64 else 32)) f.a))))

/-- R7, R16 to R22, R318, R397: what a control register of the warp reads after a write of it: its writable bits take the value,
REFAGE no less than 16, a 1 at XREC2.V clears the exception record, and a register that is read only keeps its value. Where the context
has a block that memory holds, UIMASK takes the value, and UIPEND loses the vectors that are written with 1; without one they read zero
and a write does nothing. -/
def Claim.ControlRegistersReadBack : Prop :=
  ∀ (s : State) (pl : Nat) (w : Warp) (x : Nat), warp? s pl = some w →
    let reads (idx r : Nat) : Prop :=
      ∃ w', warp? (ctlRegWrite s pl w idx x) pl = some w' ∧ ctlRead (ctlRegWrite s pl w idx x) w' idx = r
    reads 0x00 ((x &&& 0x1F1F07) + if w.xrec.v then 2 ^ 23 else 0) ∧
    reads 0x06 (if x.testBit 31 then 0 else xrec2 w) ∧
    (uibAddr s w.part w.ctx = 0 → ctlRead s w 0x10 = 0 ∧ ctlRead s w 0x11 = 0 ∧ reads 0x10 0 ∧
      (∀ k, ctlRead (ctlRegWrite s pl w 0x11 x) w k = ctlRead s w k)) ∧
    (BlockPlain s w.part w.ctx →
      (uiDeliverable (uibSet s w.part w.ctx 0x10 x) w.part w.ctx = 0 ∨ bits (uibWord s w.part w.ctx 0) 63 1 = 1 →
        reads 0x10 (x % 2 ^ 64)) ∧
      reads 0x11 (uibWord s w.part w.ctx 8 &&& not64 x)) ∧
    reads 0x01 (w.loops.length * 65536 + (if w.deferred = 0#256 then 0 else 512) + (if w.intrap then 256 else 0) + x % 2) ∧
    reads 0x08 (x / 8 * 8 % 2 ^ 64) ∧ reads 0x09 (x % 2 ^ 64) ∧ reads 0x12 (x / 8 * 8 % 2 ^ 64) ∧
    reads 0x13 (x / 8 * 8 % 2 ^ 64 + if w.uiin then 1 else 0) ∧ reads 0x20 (max 16 (x % 65536)) ∧
    (∀ k, k < 8 → reads (0x18 + k) ((x &&& 0xFCFFFFFF) % 2 ^ 32)) ∧
    (∀ idx, idx = 0x04 ∨ idx = 0x05 ∨ idx = 0x07 ∨ idx = 0x0A ∨ idx = 0x21 ∨ idx = 0x22 ∨ 0x30 ≤ idx →
      ctlRegWrite s pl w idx x = s)

/-! Group 0x6: cross-lane words. -/

/-- R192, R193, R200 to R203: the present set is read from the members, the active mask and the guard; each lane receives what the
word's rule gives it, with its poison marks where it is moved, and MISS goes to the predicate that q names. -/
def Claim.LaneWordResults : Prop :=
  (∀ f s i, Acts (.shfl f) s i → poisonTrap i (sideSources (.shfl f)) = none →
    exec (.shfl f) s = .next (wordDone s i (.shfl f) (fun w =>
      pWrite (writeCarried w i.l f.dst (laneWide f) (fun k l => (shflLane s i f k l).1)) (f.mod.toNat % 8) i.l
        (Mask.ofFn (fun l => (shflLane s i f 0 l).2))))) ∧
  (∀ f s i, Acts (.bcast f) s i → poisonTrap i (sideSources (.bcast f)) = none →
    ∃ j : Lane, (f.mod.getLsbD 4 = true → i.l ≠ 0#32 → Mask.low? i.l = some j) ∧
      (f.mod.getLsbD 4 = false → j.val = uniVal s i (.int 32) f.b % 32) ∧
      exec (.bcast f) s = .next (wordDone s i (.bcast f) (fun w =>
        pWrite (writeCarried w i.l f.dst (laneWide f) (fun k _ =>
            if i.l.has j then carried s i (.int (if laneWide f then 64 else 32)) f.a k j else Val.clean 0))
          (f.mod.toNat % 8) i.l (Mask.ofFn (fun _ => !i.l.has j))))) ∧
  Changes .vote (fun f s i w =>
    let p := memberMask s i f.c &&& i.l
    let yes := Mask.ofFn (fun l => p.has l && predVal i f.a l)
    pWrite (match f.mod.toNat / 8 with
        | 0 => writePred w i.l f.dst (fun _ => yes == p)
        | 1 => writePred w i.l f.dst (fun _ => yes != 0#32)
        | _ => writeDst w i.l f.dst false (fun _ => yes.toNat))
      (f.mod.toNat % 8) i.l (Mask.ofFn (fun _ => memberMask s i f.c &&& ~~~i.l != 0#32))) ∧
  Changes .matchx (fun f s i w =>
    pWrite (writeDst w i.l f.dst false (fun l => (matchLane s i f l).toNat)) (f.mod.toNat % 8) i.l
      (Mask.ofFn (fun _ => memberMask s i f.c &&& ~~~i.l != 0#32)))

/-- R197 to R199: a reduction writes one value to every lane, a scan each lane's prefix, with their flags and MISS. -/
def Claim.ReduceAndScanResults : Prop :=
  Changes .redx (fun f s i w => writeCombined s i f (fun _ => redxValue s i f) w) ∧
  Changes .scanx (fun f s i w => writeCombined s i f (scanLane s i f) w)

/-- R197, R198: the integer reductions over the present lanes: the sum modulo 2^n, the identity where none is present; each bit of
AND, OR and XOR is that of every lane, of some lane, of an odd number of lanes. -/
def Claim.ReductionsOverPresentLanes : Prop :=
  ∀ (s : State) (i : Iss) (f : WordF),
    let ls := (Mask.lanes (presentSet s i f.c))
    let v (l : Lane) : Nat := srcVal s i (.int (tyInt f).bits) f.a l
    (∀ l, v l < 2 ^ (tyInt f).bits) →
    (f.sub = 0 → (redxValue s i f).1 = (ls.map v).sum % 2 ^ (tyInt f).bits) ∧
    (f.sub = 3 → ∀ j, j < (tyInt f).bits → ((redxValue s i f).1.testBit j = true ↔ ∀ l ∈ ls, (v l).testBit j = true)) ∧
    (f.sub = 4 → ∀ j, ((redxValue s i f).1.testBit j = true ↔ ∃ l ∈ ls, (v l).testBit j = true)) ∧
    (f.sub = 5 → ∀ j, (redxValue s i f).1.testBit j = decide ((ls.filter (fun l => (v l).testBit j)).length % 2 = 1)) ∧
    (f.sub = 1 → (ls = [] → (tyInt f).val (redxValue s i f).1 = (tyInt f).hi) ∧
      (ls ≠ [] → (∃ l ∈ ls, (tyInt f).val (redxValue s i f).1 = (tyInt f).val (v l)) ∧
        ∀ l ∈ ls, (tyInt f).val (redxValue s i f).1 ≤ (tyInt f).val (v l))) ∧
    (f.sub = 2 → (ls = [] → (tyInt f).val (redxValue s i f).1 = (tyInt f).lo) ∧
      (ls ≠ [] → (∃ l ∈ ls, (tyInt f).val (redxValue s i f).1 = (tyInt f).val (v l)) ∧
        ∀ l ∈ ls, (tyInt f).val (v l) ≤ (tyInt f).val (redxValue s i f).1))

/-- R72, R197 to R199: every reduction, those of floating point with their flags, is the tree of R72 over the present lanes, and every
scan the fold of R199 in order of lanes, up to its lane or strictly below it; without a present lane each gives the identity of R197 and
no flag. A floating-point sum adds in the word's mode, a minimum or maximum is the variant that the word names, and a value is read as
FRead reads it. -/
def Claim.TreesAndFolds : Prop :=
  ∀ (s : State) (i : Iss) (f : WordF),
    let p := presentSet s i f.c
    let arg (k : Nat) : Option Nat := if h : k < 32 then (if p.has ⟨k, h⟩ then some (combineArg s i f ⟨k, h⟩) else none) else none
    redxValue s i f = (treeNode (combine i f) (fun k => (arg k).map (fun x => (x, 0))) 5 0).getD (identityOf f, 0) ∧
    (∀ l : Lane, scanLane s i f l =
      (laneFold (combine i f) arg (if (extVal f.b).testBit 5 then l.val else l.val + 1)).getD (identityOf f, 0)) ∧
    (f.sub.toNat = 6 → (∀ a b, combine i f a b = fpAdd (tyFp f) (modeOf i.w (extVal f.b % 8)) i.w.ftz false a b) ∧
      (tyFp f).fmt.unpack (identityOf f) = .fin false 0 ((tyFp f).fmt.emin - (tyFp f).fmt.fb)) ∧
    (f.sub.toNat = 7 → (∀ a b, combine i f a b = fpMinMax (tyFp f) (match extVal f.b / 8 % 4 with
        | 0 => .min
        | 1 => .max
        | 2 => .minm
        | _ => .maxm) i.w.ftz a b) ∧
      ((tyFp f).fmt.hasInf = true → (tyFp f).fmt.unpack (identityOf f) = .inf (decide (extVal f.b / 8 % 2 = 1)))) ∧
    (6 ≤ f.sub.toNat → ∀ l,
      let x := (tyFp f).fmt.read i.w.ftz (combineArg s i f l)
      let y := (tyFp f).fmt.read i.w.ftz (fpArg s i (tyFp f) f.a l)
      x.sign = y.sign ∧ ratOf x = ratOf y ∧ x.isNan = y.isNan ∧ x.isInf = y.isInf)

/-- R199: an exclusive scan's lane holds the sum of the present lanes below it, an inclusive scan's the sum up to it. -/
def Claim.ScanIsPrefixSum : Prop :=
  ∀ (s : State) (i : Iss) (f : WordF) (l : Lane), f.sub = 0 →
    let v (l : Lane) : Nat := srcVal s i (.int (tyInt f).bits) f.a l
    (∀ l, v l < 2 ^ (tyInt f).bits) →
    (scanLane s i f l).1 = (((Mask.lanes (presentSet s i f.c)).filter (fun j =>
      if (extVal f.b).testBit 5 then decide (j < l) else decide (j ≤ l))).map v).sum % 2 ^ (tyInt f).bits

/-- R204, R206, R207: WSYNC waits, whatever its guard, until its group holds every member lane of the convergent mask, and then goes on;
BAR's lanes arrive, and all move on once every expected thread has arrived; a pending FPE is raised first (R31). -/
def Claim.BarriersSynchronise : Prop :=
  (∀ f s i, issOf s f.guard = some i → inService i = false → Mask.sub (memberMask s i f.a &&& i.w.conv) i.a = false →
    exec (.wsync f) s = .next s) ∧
  (∀ f s i, Clean (.wsync f) s i → wsyncBad f s i = none → Mask.sub (memberMask s i f.a &&& i.w.conv) i.a = true →
    exec (.wsync f) s = .next (wordAfter i (wordState s i (.wsync f)))) ∧
  (∀ f s i, Acts (.bar f) s i → fpOutstanding i.w = false → barBad f s i = none →
    exec (.bar f) s = .next (if i.w.xrec.v then wordTraps s i ⟨9, 0, 0, false, i.w.xrec.elanes, []⟩
      else endIssue (counted (barCheck (modWarp (wordState s i (.bar f)) i.place (fun w =>
        { w with
          arrived := w.arrived ||| i.a
          barEdges := if !i.w.intrap && atLend i then i.pc :: w.barEdges else w.barEdges })) i.w.wg) i)))

/-- R206: a barrier that completes moves every lane that had arrived to the next word, and no lane waits any more; outside loops no
other lane moves. -/
def Claim.BarrierReleasesAll : Prop :=
  ∀ (s : State) (g : Nat), barComplete s g = true → ∀ pl w, warp? s pl = some w → isLodge pl = false → w.wg = g →
    ∃ w', warp? (barCheck s g) pl = some w' ∧ w'.arrived = 0#32 ∧ w'.v = w.v ∧ w'.p = w.p ∧
      (w.loops = [] → ∀ l : Lane, w'.pc[l] = if w.arrived.has l then w.pc[l] + 8 else w.pc[l])

/-- R182 to R184, R205: REFORM files the lanes whose guard holds, as many as its line has room for, and those lanes leave the warp;
the entry keeps thread, predicates and registers. Where it files no lane, its lanes stay at it. In a stale warp an unmapped register that
it carries raises STALE, with the lowest such register, and files nothing. -/
def Claim.ReformFilesLanes : Prop :=
  ∀ b s i n, Acts (.reform b) s i → reformWait b s i = false → reformBad s i = none →
    reformLine (wordState s i (.reform b)) i b = some n →
    let line := reformState (wordState s i (.reform b)) i b n
    let ls := i.l.lanes.take (32 - line.entries.length)
    let m := Mask.ofFn (fun l => ls.contains l)
    let entries := line.entries ++ ls.map (lineEntry (wordState s i (.reform b)) i b)
    let new : LiftLine :=
      ⟨line.wg, line.label, entries, if entries.length = 32 then some .full else line.trig⟩
    let carries (r : Nat) : Prop := r < b.bmod.toNat % 64
    (∀ r, i.w.stale = true → carries r → vMapped i.w r = false → (∀ q, q < r → vMapped i.w q = true) →
      exec (.reform b) s = .next (wordTraps s i ⟨3, r, 6, false, m, []⟩)) ∧
    ((∀ r, i.w.stale = true → carries r → vMapped i.w r = true) →
      (m ≠ 0#32 → exec (.reform b) s = .next (endIssue (counted (barCheck (modWarp
        (modCore (wordState s i (.reform b)) (placeCore i.place) (fun c => { c with lines := FMap.ins c.lines n new }))
        i.place (fun w => exitLanes w m)) i.w.wg) i))) ∧
      (m = 0#32 → exec (.reform b) s = .next (endIssue (counted (wordState s i (.reform b)) i))))

/-! Groups 0x7 to 0x9: memory. -/

/-- R258, R260: a load reads the bytes of each lane's address and sends them to its destination, marked empty; with an acquire
it then acquires at its scope. Without a lane it does nothing. -/
def Claim.LoadsDeliver : Prop :=
  (∀ m s i, Acts (.ld m) s i → i.l = 0#32 → exec (.ld m) s = .next (wordAfter i (wordState s i (.ld m)))) ∧
  (∀ m s i u items,
    Granted (.ld m) m (szBytes m.sub.toNat) .load (m.sub.toNat == 4 || m.sub.toNat == 5) false false s i u items →
    let r := loadItems u i m.cls (ordAcq m.ord && wideScope m.scp) (accUnit m (szBytes m.sub.toNat)) items
    exec (.ld m) s = .next (wordAfter i (deliver (if ordAcq m.ord then acquire r.1 i m.scp else r.1) i m
      (szBytes m.sub.toNat) (joinLanes (r.2.map (fun e => (e.1.l, e.2)))) items))) ∧
  (∀ m s i g l, SpadGranted (.lds m) m (szBytes m.sub.toNat) (accUnit m (szBytes m.sub.toNat)) false s i g l →
    exec (.lds m) s = .next (wordAfter i (deliver (wordState s i (.lds m)) i m (szBytes m.sub.toNat)
      (l.map (fun a => (a.1, spadBytes g a.2 (szBytes m.sub.toNat), spadMarks g a.2 (szBytes m.sub.toNat)))))))

/-- R258, R259, R261: a store writes each lane's data at its address, releases at its scope if it carries a release, and its request
stays in flight; a scratchpad store writes its allocation at once, with the marks of its data at every scope (R237, log 119). -/
def Claim.StoresPerform : Prop :=
  (∀ m s i, Acts (.st m) s i → i.l = 0#32 → exec (.st m) s = .next (wordAfter i (wordState s i (.st m)))) ∧
  (∀ m s i u items,
    Granted (.st m) m (szBytes m.sub.toNat) .store (m.sub.toNat == 4 || m.sub.toNat == 5) true false s i u items →
    let data := items.map (fun x => (x, itemData u i m (szBytes m.sub.toNat) x))
    offDevice i m data = none →
    let t := storeItems u i m.cls (accUnit m (szBytes m.sub.toNat)) data
    exec (.st m) s = .next (wordAfter i (addPend (if ordRel m.ord then releaseAt t i m.scp else t) i.place .store i.l []
      (reachOf i m items)))) ∧
  (∀ m s i g l, SpadGranted (.sts m) m (szBytes m.sub.toNat) (accUnit m (szBytes m.sub.toNat)) false s i g l →
    (l.any (fun a => matOwes (wordState s i (.sts m)) i.w.wg (wordState s i (.sts m)).nextId (a.2, szBytes m.sub.toNat))) =
      false →
    exec (.sts m) s = .next (wordAfter i (modWg (wordState s i (.sts m)) i.w.wg (fun g => spadStores g (l.flatMap (fun a =>
      splitStores 3 a.2 (storeData (wordState s i (.sts m)) i m (szBytes m.sub.toNat) a.1).1
        (storeData (wordState s i (.sts m)) i m (szBytes m.sub.toNat) a.1).2))))))

/-- R260, R261: what a global access leaves alone, while no atom holds an error that the code cannot correct and no byte of a host's is
newer at its home than here: a load changes no byte of memory; a store no byte outside the sectors that its lanes' accesses touch, under
every key. Where a host has written such a byte, an acquiring load or the eviction of its line brings it in (R442, log 115). -/
def Claim.MemoryFrame : Prop :=
  (∀ m s i u items t, s.uerr = [] → s.far = [] →
    Granted (.ld m) m (szBytes m.sub.toNat) .load (m.sub.toNat == 4 || m.sub.toNat == 5) false false s i u items →
    exec (.ld m) s = .next t → ∀ key a, readByte t key a = readByte s key a) ∧
  (∀ m s i u items t, s.uerr = [] → s.far = [] →
    Granted (.st m) m (szBytes m.sub.toNat) .store (m.sub.toNat == 4 || m.sub.toNat == 5) true false s i u items →
    offDevice i m (items.map (fun x => (x, itemData u i m (szBytes m.sub.toNat) x))) = none →
    exec (.st m) s = .next t → ∀ key a,
      (∀ x ∈ items, a / 32 < x.pa / 32 ∨ (x.pa + accUnit m (szBytes m.sub.toNat) - 1) / 32 < a / 32) →
      readByte t key a = readByte s key a)

/-- R261, R364, R427: at one store within a sector, while no atom holds an error that the code cannot correct, under a key or none, a
read back gives the stored bytes, every other byte of an unpoisoned sector and every byte of the other sectors reads as before. -/
def Claim.StoreThenLoad : Prop :=
  ∀ (s : State) (key : Option Nat) (pa : Nat) (l : List Byte), Reaches s pa l.length → 0 < l.length →
    FMap.get? s.poison (pa / 32) = none → s.uerr = [] →
    let t := physStores s none key [⟨pa, l, none⟩]
    MemOk s →
    (∀ j, j < l.length → readByte t key (pa + j) = l.getD j 0#8) ∧
    (∀ a, a / 32 = pa / 32 → (a < pa ∨ pa + l.length ≤ a) → readByte t key a = readByte s key a) ∧
    (∀ a key', a / 32 ≠ pa / 32 → readByte t key' a = readByte s key' a)

/-- R258, R259, R263, R264: an atomic without a lane only moves on. One whose lanes pass the checks reads each old value and applies its
operation in lane order, and delivers the old values (ATOM, ATOMS) or nothing (RED, which counts the lanes that a poisoned target
dropped); poisoned data that may not leave the device raise POISON. -/
def Claim.AtomicsPerform : Prop :=
  let base (m : WordM) (i : Iss) (u : State) (items : List Item) (keep : Bool) :
      State × List (Lane × List Byte × List (Option Mark)) × Nat :=
    let r := rmwItems (atomicRequests (if ordRel m.ord then releaseAt u i m.scp else u) i m items) i m keep items
    (if ordAcq m.ord then acquire r.1 i m.scp else r.1, r.2)
  let data (m : WordM) (i : Iss) (u : State) (items : List Item) : List (Item × List Byte × Option Mark) :=
    items.map (fun y => (y, [], atomicMark u i m y.l))
  let olds (m : WordM) (i : Iss) (l : List (Lane × List Byte × List (Option Mark))) : List Fill :=
    fillsOf m.data (wideBits m / 32) (deliveredLanes i m.data) (laneResult (if wideBits m = 64 then 5 else 4) (wideBits m / 8) l)
  (∀ m s i, i.l = 0#32 →
    (Acts (.atom m) s i → exec (.atom m) s = .next (wordAfter i (wordState s i (.atom m)))) ∧
    (Acts (.red m) s i → exec (.red m) s = .next (wordAfter i (wordState s i (.red m)))) ∧
    (Acts (.atoms m) s i → exec (.atoms m) s = .next (wordAfter i (wordState s i (.atoms m))))) ∧
  (∀ m s i u items, Granted (.atom m) m (wideBits m / 8) .atomic false true (m.sub.toNat != 8) s i u items →
    (∀ t, offDevice i m (data m i u items) = some t → exec (.atom m) s = .next (wordTraps s i t)) ∧
    (offDevice i m (data m i u items) = none → let r := base m i u items true
      exec (.atom m) s = .next (wordAfter i (addPend r.1 i.place .atomic i.l (olds m i r.2.1) (reachOf i m items))))) ∧
  (∀ m s i u items, Granted (.red m) m (wideBits m / 8) .red false true (m.sub.toNat != 8) s i u items →
    (∀ t, offDevice i m (data m i u items) = some t → exec (.red m) s = .next (wordTraps s i t)) ∧
    (offDevice i m (data m i u items) = none → let r := base m i u items false
      exec (.red m) s = .next (wordAfter i (addPend (if r.2.2 = 0 then r.1
        else modExcsum r.1 i.w.part i.w.ctx (satAdd 32 16 r.2.2)) i.place .atomic i.l [] (reachOf i m items))))) ∧
  (∀ m s i g l, SpadGranted (.atoms m) m (wideBits m / 8) (wideBits m / 8) (m.sub.toNat != 8) s i g l →
    let u := wordState s i (.atoms m)
    let w := wideBits m / 32
    let done := l.foldl (fun (r : Wg × List (Lane × List Byte × List (Option Mark))) a =>
      let x := spadRmw r.1 m.sub.toNat (wideBits m) a.2 (dataNat u i (wideBits m == 64) m.data 0 w a.1)
        (if m.sub.toNat = 9 then dataNat u i (wideBits m == 64) m.data w w a.1 else 0) (atomicMark u i m a.1)
      (x.1, r.2 ++ [(a.1, bytesOfNat (wideBits m / 8) x.2.1, List.replicate (wideBits m / 8) x.2.2)])) (g, [])
    l.any (fun a => matOwes u i.w.wg u.nextId (a.2, wideBits m / 8)) = false →
      exec (.atoms m) s = .next (wordAfter i (addPend (modWg u i.w.wg (fun _ => done.1)) i.place .atomic i.l
        (olds m i done.2)))) ∧
  (∀ g aop n o b c mark, spadMark g o = none → let old := natOfBytes (spadBytes g o (n / 8))
    (∀ v, atomicNew aop n old b c = some v → spadRmw g aop n o b c mark = (spadStores g [⟨o, bytesOfNat (n / 8) v, mark⟩], old, none)) ∧
    (atomicNew aop n old b c = none → spadRmw g aop n o b c mark = (g, old, none)))

/-- R263, R264: one read-modify-write on memory that no poison marks, while no atom there holds an error that the code cannot correct:
the old value comes back, and memory then holds the new one, under the key of the access. -/
def Claim.AtomicReadsThenWrites : Prop :=
  ∀ (s : State) (i : Iss) (x : Item) (aop n b c : Nat) (keep : Bool), n = 32 ∨ n = 64 → MemOk s → Reaches s x.pa (n / 8) →
    FMap.get? s.poison (x.pa / 32) = none → s.uerr = [] → ptePom x.leaf = false → pteHome x.leaf = false →
    let key := ctxKey s i.w.ctx false
    let old := natOfBytes ((List.range (n / 8)).map (fun j => readByte s key (x.pa + j)))
    let r := rmw s i x aop n b c none keep
    r.2.1 = old ∧ r.2.2.1 = none ∧ r.2.2.2 = false ∧
    ∀ j, j < n / 8 → readByte r.1 key (x.pa + j) =
      (bytesOfNat (n / 8) ((atomicNew aop n old b c).getD old)).getD j 0#8

/-- R263: the operations of the atomics on n-bit values: sums wrap, minima and maxima follow the signedness, the bitwise ones act bit by
bit, XCHG writes the data, CAS writes where the old value is the one expected, INC and DEC wrap at their bound, and the floating-point
ones round to nearest even without flushing. -/
def Claim.AtomicOperations : Prop :=
  ∀ n old b c : Nat, n = 32 ∨ n = 64 → old < 2 ^ n → b < 2 ^ n → c < 2 ^ n →
    let ty : FType := if n = 64 then .f64 else .f32
    (∀ aop v, aop ≤ 11 → atomicNew aop n old b c = some v → v < 2 ^ n) ∧
    atomicNew 0 n old b c = some ((old + b) % 2 ^ n) ∧
    (∃ v, atomicNew 1 n old b c = some v ∧ (v = old ∨ v = b) ∧ toSigned n v = min (toSigned n old) (toSigned n b)) ∧
    (∃ v, atomicNew 2 n old b c = some v ∧ (v = old ∨ v = b) ∧ toSigned n v = max (toSigned n old) (toSigned n b)) ∧
    atomicNew 3 n old b c = some (min old b) ∧ atomicNew 4 n old b c = some (max old b) ∧
    (∃ v, atomicNew 5 n old b c = some v ∧ ∀ j, v.testBit j = (old.testBit j && b.testBit j)) ∧
    (∃ v, atomicNew 6 n old b c = some v ∧ ∀ j, v.testBit j = (old.testBit j || b.testBit j)) ∧
    (∃ v, atomicNew 7 n old b c = some v ∧ ∀ j, v.testBit j = (old.testBit j ^^ b.testBit j)) ∧
    atomicNew 8 n old b c = some b ∧
    atomicNew 9 n old b c = (if old = b then some c else none) ∧
    atomicNew 10 n old b c = some (if b ≤ old then 0 else old + 1) ∧
    atomicNew 11 n old b c = some (if old = 0 ∨ b < old then b else old - 1) ∧
    atomicNew 12 n old b c = some (fpAdd ty .rne false false old b).1 ∧
    atomicNew 13 n old b c = some (fpMinMax ty .min false old b).1 ∧
    atomicNew 14 n old b c = some (fpMinMax ty .max false old b).1

/-- R213, R266, R271: prefetches and cache control act on the lines of the lanes that their checks do not drop, and their lanes go
on. -/
def Claim.PrefetchAndCacheControl : Prop :=
  (∀ m s i, Acts (.pref m) s i →
    let q := quietItems i (.pref m) m (wordState s i (.pref m))
    let lines := q.2.map (fun x => { x with pa := x.pa / 128 * 128, va := x.va / 128 * 128 })
    let v := l2Requests q.1 i.w.part i.w.ctx m.cls true (lineReqs lines 128 (fun _ => false) false)
    let u := lines.foldl (fun s x => (List.range 4).foldl (fun s j => prefFill s (x.pa + 32 * j)) s) v
    exec (.pref m) s = .next (wordAfter i (if m.xm.toNat % 2 = 1 ∧ m.cls ≠ .evictFirst ∧ !isLodge i.place then
      lines.foldl (fun s x => (List.range 4).foldl (fun s j =>
        if prefAble s (x.pa + 32 * j) then (loadSector s (placeCore i.place) i.w.ctx [] true x.leaf (x.pa + 32 * j) 32).1
        else s) s) u else u))) ∧
  (∀ m s i, Acts (.cctlIinv m) s i → isLodge i.place = false → i.l ≠ 0#32 →
    exec (.cctlIinv m) s = .next (wordAfter i (modCore (wordState s i (.cctlIinv m)) (placeCore i.place)
      (fun c => { c with icache := [] })))) ∧
  (∀ m s i, Acts (.cctlL1inv m) s i → isLodge i.place = false →
    let q := quietItems i (.cctlL1inv m) m (wordState s i (.cctlL1inv m))
    exec (.cctlL1inv m) s = .next (wordAfter i (q.2.foldl (fun s x => l1DropLine s (placeCore i.place) x.pa) q.1))) ∧
  (∀ m s i, Acts (.cctlClean m) s i →
    let q := quietItems i (.cctlClean m) m (wordState s i (.cctlClean m))
    exec (.cctlClean m) s = .next (wordAfter i (q.2.foldl (fun s x => cleanPa s x.pa) q.1))) ∧
  (∀ m s i, Acts (.cctlDemote m) s i →
    let q := quietItems i (.cctlDemote m) m (wordState s i (.cctlDemote m))
    exec (.cctlDemote m) s = .next (wordAfter i (q.2.foldl (fun s x => demotePa s x.pa) q.1)))

/-- R267, R268: a WAITV whose lanes' reads all satisfy its condition completes, with its ordering; otherwise its group stands in the
wait, and each later read of a lane that satisfies it completes that lane. -/
def Claim.WaitvCompletesOrWaits : Prop :=
  (∀ m s i u items, Granted (.waitv m) m (wideBits m / 8) .load false false true s i u items → waitvWait s i = false →
    (i.w.waits.all (fun x => x.kind != .waitv || x.mask &&& i.a == 0#32)) = true →
    let r := waitReads u i m items
    exec (.waitv m) s = .next (if Mask.sub i.l r.2 then wordAfter i (waitvEnd r.1 i m)
      else endIssue (modWarp (setWarp r.1 i.place ((warp? s i.place).getD i.w)) i.place (fun w =>
        enterWait w .waitv i.a r.2 (.waitv m))))) ∧
  (∀ s pl l w x m i y u, warp? s pl = some w →
    w.waits.find? (fun x => x.kind == .waitv && x.mask.has l && !x.done.has l) = some x → x.word = .waitv m →
    waitIssue s pl w x m.guard = some i → i.l.has l = true →
    lookup i .load false s l (accMask i m l) (globalAddr s i m l) = (u, .item y) → snoopHold u i false [y] = none →
    exec (.waitvReread pl l) s = .next (modWarp (waitReads u i m [y]).1 pl (fun w =>
      { w with waits := w.waits.map (fun z =>
        if z = x then { z with done := z.done ||| (waitReads u i m [y]).2 } else z) })))

/-- R31, R270: a FENCE whose waits are over raises a pending FPE, or releases and acquires at its scope as its ordering says. -/
def Claim.FenceOrders : Prop :=
  ∀ f s i, Acts (.fence f) s i → fenceWait f s i = false →
    let s1 := if ordRel (fenceOrd f) then releaseAt (wordState s i (.fence f)) i (fenceScope f) else wordState s i (.fence f)
    exec (.fence f) s = .next (if i.w.xrec.v then wordTraps s i ⟨9, 0, 0, false, i.w.xrec.elanes, []⟩
      else wordAfter i (if i.l = 0#32 then wordState s i (.fence f)
        else if ordAcq (fenceOrd f) then acquire s1 i (fenceScope f) else s1))

/-- R272: RETAIN and UNPIN write their status; RETAIN with status 0 takes the retention register for its context and range, UNPIN with
status 0 gives an enabled one back. -/
def Claim.RetentionResults : Prop :=
  (∀ f s i, Clean (.retain f) s i → i.l ≠ 0#32 →
    let u := wordState s i (.retain f)
    let a := uniVal s i (.int 64) f.a
    let b := uniVal s i (.int 64) f.b
    let n := uniVal s i (.int 32) f.c
    let p := i.w.part
    exec (.retain f) s = .next (wordAfter i (modWarp (if retainStatus u i n (some (a, b)) ≠ 0 then u
        else modPart (if (retReg (part u p) n).en then dropIndex u p n else u) p (fun q =>
          retRegSet q n ⟨true, i.w.ctx, a / 4096, b / 4096⟩))
      i.place (fun w => writeDst w i.l f.dst false (fun _ => retainStatus u i n (some (a, b))))))) ∧
  (∀ f s i, Clean (.unpin f) s i → i.l ≠ 0#32 →
    let u := wordState s i (.unpin f)
    let n := uniVal s i (.int 32) f.a
    exec (.unpin f) s = .next (wordAfter i (modWarp
      (if retainStatus u i n none = 0 ∧ (retReg (part u i.w.part) n).en then unpinReg u i.w.part n else u)
      i.place (fun w => writeDst w i.l f.dst false (fun _ => retainStatus u i n none)))))

/-! Group 0xA: copies, regions and barrier objects. -/

/-- R292, R294, R301: COPY and COPYO hand their copy to the core's engine in the open batch, once every check has passed; COPYO's
object must be valid. A copy inward waits for queued matrix transfers of its window (R252, R295). -/
def Claim.CopiesIssue : Prop :=
  (∀ f s i, Clean (.copy f) s i → i.l ≠ 0#32 → engineFull (.copy f) s i = false →
    let u := wordState s i (.copy f)
    (f.mod.getLsbD 0 = false → windowHeld u i (groupVal i f.a) = false) →
    exec (.copy f) s = .next (match copyChecks i (spadSize u i) (groupVal i f.a) none with
      | some t => wordTraps s i t
      | none => wordAfter i (issueCopy u i (groupVal i f.a) (f.mod.getLsbD 0) none))) ∧
  (∀ f s i u g, Clean (.copyo f) s i → i.l ≠ 0#32 → engineFull (.copyo f) s i = false →
    let o := uArg (wordState s i (.copyo f)) i f.b
    copyChecks i (spadSize (wordState s i (.copyo f)) i) (groupVal i f.a) (some o) = none →
    u = rouseFor (wordState s i (.copyo f)) i (chunksAt o 8) → missing u i.w.wg (chunksAt o 8) = [] →
    wg? u i.w.wg = some g → (objWord g o).testBit 63 = true →
    (f.mod.getLsbD 0 = false → windowHeld u i (groupVal i f.a) = false) →
    exec (.copyo f) s = .next (wordAfter i (issueCopy u i (groupVal i f.a) (f.mod.getLsbD 0) (some o))))

/-- R249, R294, R296, R298: a chunk of an inward transfer that may move lands with what its elements read before, at the issue for all
whose pages translated then and whose line no host held, and the others as they read once they can; a transfer to which a DENY has come
fails with the record's KIND. -/
def Claim.ChunksLand : Prop :=
  let landed (s : State) (id k : Nat) (x : Xfer) (l : List (List Byte × Option Mark)) : State :=
    landChunks (modXfer (moveIn' s id x k l) id (fun x => { x with landed := x.landed ++ [k] })) x.wg [k]
  ∀ s id k x, FMap.get? s.xfers id = some x → x.pause = none → x.landed.contains k = false → dHas x.desc k = true →
    (∀ d rest, x.denied = d :: rest → exec (.chunkPresent id k) s = .next (failXfer s id x 6 d.2)) ∧
    (x.denied = [] → x.out = false → moveReady s id x k = true →
      (∀ l : Nat → List Byte × Option Mark, (∀ n, n ∈ chunkElems x.desc k → FMap.get? x.got n = some (l n)) →
        exec (.chunkPresent id k) s = .next (landed s id k x ((chunkElems x.desc k).map l))) ∧
      (∀ u items, enginePages s (xferFaulter x) [] .engineRead ((unreadElems x k).map (fun n => (dGlobal x.desc n).toNat)) =
          (u, .ok items) →
        items.filterMap (snoopNeeds u false) = [] →
        exec (.chunkPresent id k) s = .next (landed (chunkData u x k items).1 id k x (chunkData u x k items).2)))

/-- R294, R297, R308: when nothing of a transfer is left it ends: a copy is gone from the engine, a staging's entry has none in flight
or, if it was cleared meanwhile, is gone too (R306). -/
def Claim.TransfersEnd : Prop :=
  (∀ s id x, FMap.get? s.xfers id = some x → x.entry = none → x.bar = none → x.pause = none →
    (chunkList x.desc).all (fun k => x.landed.contains k) = true →
    exec (.copyComplete id) s = .next { s with xfers := FMap.del s.xfers id }) ∧
  (∀ s id x e g r, FMap.get? s.xfers id = some x → x.entry = some e → x.pause = none →
    (chunkList x.desc).all (fun k => x.landed.contains k) = true → wg? s x.wg = some g → FMap.get? g.regions e = some r →
    exec (.stagingComplete id) s = .next (modWg { s with xfers := FMap.del s.xfers id } x.wg (fun x =>
      if r.cleared then { x with regions := FMap.del x.regions e }
      else { x with regions := FMap.ins x.regions e { r with flight := none } }))) ∧
  (∀ s id x, FMap.get? s.xfers id = some x →
    (x.entry = none → exec (.copyComplete id) s = .next (moveAll s id)) ∧
    (x.entry ≠ none → exec (.stagingComplete id) s = .next (moveAll s id)))

/-- R304 to R307: REGION writes its status and, with status 0, replaces its entry; RGNCLR clears and TOUCH stages the entries of a
mask. -/
def Claim.RegionResults : Prop :=
  (∀ f s i g, Clean (.region f) s i → i.l ≠ 0#32 → wg? s i.w.wg = some g →
    let u := wordState s i (.region f)
    let n := uArg u i f.a
    let d := groupVal i f.b
    (dV d = true → descBad d (spadSize u i) true = none) →
    (regionStatus g n d = 0 → dV d = true → windowHeld u i d = false) →
    let c := clearRegion u i.w.wg n
    exec (.region f) s = .next (wordAfter i (modWarp (if regionStatus g n d ≠ 0 then u
        else if dV d then installRegion c i.w.wg n d (placeCore i.place) (placeTrack i.place) (supMode i.place i.w) else c)
      i.place (fun w => writeDst w i.l f.dst false (fun _ => regionStatus g n d))))) ∧
  (∀ f s i, Clean (.rgnclr f) s i → i.l ≠ 0#32 →
    let u := wordState s i (.rgnclr f)
    exec (.rgnclr f) s = .next (wordAfter i ((maskEntries (uArg u i f.a)).foldl (fun s e => clearRegion s i.w.wg e) u))) ∧
  (∀ f s i, Clean (.touch f) s i → i.l ≠ 0#32 →
    let u := wordState s i (.touch f)
    exec (.touch f) s = .next (wordAfter i ((maskEntries (uArg u i f.a)).foldl (fun s e =>
      startStaging s i.w.wg e (placeCore i.place) (placeTrack i.place) (supMode i.place i.w)) u)))

/-- R297, R299, R301 to R303: CSEAL gives the batch it seals; CWAIT passes when every batch it covers is complete, reporting the oldest
failure; CTEST writes whether they are; WAITP passes when its chunks are present. A batch that is not sealed is ILLEGAL. -/
def Claim.BatchesAndPresence : Prop :=
  (∀ f s i, Clean (.cseal f) s i → i.l ≠ 0#32 →
    exec (.cseal f) s = .next (wordDone s i (.cseal f) (fun w =>
      { writeDst w i.l f.dst false (fun _ => i.w.openb.toNat) with openb := i.w.openb + 1 }))) ∧
  (∀ f s i, Clean (.cwait f) s i → i.l ≠ 0#32 →
    let n := BitVec.ofNat 32 (uArg s i f.a)
    (batchSealed i.w n = false → cwaitWait f s i = false → exec (.cwait f) s = .next (wordTraps s i (illegalTrap i 0x21))) ∧
    (batchSealed i.w n = true → batchesDone (wordState s i (.cwait f)) i.place i.w n = true → cwaitWait f s i = false →
      exec (.cwait f) s = .next (match failedBatch i.w n with
        | none => wordDone s i (.cwait f) (fun w => endWaits w i.a)
        | some c => wordTraps (modWarp s i.place (fun w => { w with fails := w.fails.filter (fun x => x.batch != c.batch) })) i
            (issueTrap i c.code c.detail 0 false)))) ∧
  (∀ f s i, Clean (.ctest f) s i → i.l ≠ 0#32 →
    let n := BitVec.ofNat 32 (uArg s i f.a)
    exec (.ctest f) s = .next (if batchSealed i.w n then wordDone s i (.ctest f) (fun w =>
        writePred w i.l f.dst (fun _ => batchesDone (wordState s i (.ctest f)) i.place i.w n))
      else wordTraps s i (illegalTrap i 0x21))) ∧
  (∀ f s i, Clean (.waitp f) s i → i.l ≠ 0#32 → waitpWait f s i = false →
    let u := wordState s i (.waitp f)
    let ks := waitpChunks u i f
    (∀ k ∈ ks, 512 * k + 512 ≤ spadSize u i) → missing (rouseFor u i ks) i.w.wg ks = [] →
    exec (.waitp f) s = .next (wordAfter i (modWarp (rouseFor u i ks) i.place (fun w => endWaits w i.a))))

/-- R310, R313: BARI writes V = 1, OVF = 0, PH = 0, EXP = PEND = e and zero in the reserved bits; BARCNT reads the whole word. -/
def Claim.BarrierObjectWords : Prop :=
  (∀ f s i u g, AtBarrier (.bari f) s i (uArg (wordState s i (.bari f)) i f.a) u g →
    let e := uArg u i f.b
    1 ≤ e → e ≤ 65535 →
    exec (.bari f) s = .next (wordAfter i (modWg u i.w.wg (fun w =>
      spadStores w [⟨uArg (wordState s i (.bari f)) i f.a, bytesOfNat 8 (2 ^ 63 + e * 2 ^ 16 + e), none⟩])))) ∧
  (∀ f s i u g, AtBarrier (.barcnt f) s i (uArg (wordState s i (.barcnt f)) i f.a) u g →
    let x := natOfBytes (spadBytes g (uArg (wordState s i (.barcnt f)) i f.a) 8)
    exec (.barcnt f) s = .next (wordAfter i (modWarp u i.place (fun w =>
      writeVals (writeVals w i.l f.dst 0 (fun _ => Val.clean (BitVec.ofNat 32 x))) i.l f.dst 1
        (fun _ => Val.clean (BitVec.ofNat 32 (x / 2 ^ 32)))))))

/-- R311, R312: an arrival counts its lanes, or once under .W, against the object, and writes the parity it found; a wait passes, and a
test writes 1, just where the parity differs from the one given. A word that BARI has not made is ILLEGAL. -/
def Claim.BarrierArrivalsAndWaits : Prop :=
  (∀ f s i u g, AtBarrier (.bara f) s i (uArg (wordState s i (.bara f)) i f.a) u g →
    let o := uArg (wordState s i (.bara f)) i f.a
    let k := uArg u i f.b % 65536
    exec (.bara f) s = .next (if (objWord g o).testBit 63 then
        wordAfter i (modWarp (arriveAt u i.w.wg o (if f.mod.getLsbD 0 then k else i.l.count * k)) i.place (fun w =>
          writeDst w i.l f.dst false (fun _ => bits (objWord g o) 32 1)))
      else wordTraps s i (illegalTrap i 0x20))) ∧
  (∀ f s i u g, AtBarrier (.barw f) s i (uArg (wordState s i (.barw f)) i f.a) u g → barwWait f s i = false →
    i.w.xrec.v = false →
    let o := uArg (wordState s i (.barw f)) i f.a
    (objWord g o).testBit 63 = true → bits (objWord g o) 32 1 ≠ uArg u i f.b % 2 →
    exec (.barw f) s = .next (wordAfter i (modWarp u i.place (fun w => endWaits w i.a)))) ∧
  (∀ f s i u g, AtBarrier (.bart f) s i (uArg (wordState s i (.bart f)) i f.a) u g →
    let o := uArg (wordState s i (.bart f)) i f.a
    exec (.bart f) s = .next (if (objWord g o).testBit 63 then
        wordAfter i (modWarp u i.place (fun w => writePred w i.l f.dst (fun _ => bits (objWord g o) 32 1 != uArg u i f.b % 2)))
      else wordTraps s i (illegalTrap i 0x20)))

/-- R309, R311: what an arrival of count a makes of the object word: nothing for 0; PEND falls by a; or the phase turns, PEND reloads
from EXP, and OVF records an excess. V and EXP stay. -/
def Claim.ArrivalOnObjectWord : Prop :=
  ∀ x a : Nat, x < 2 ^ 64 →
    let pend := x % 2 ^ 16
    let expd := x / 2 ^ 16 % 2 ^ 16
    (a = 0 → arrive x a = x) ∧
    (0 < a → a < pend → arrive x a = x - a) ∧
    (0 < a → pend ≤ a → arrive x a % 2 ^ 16 = expd ∧ (arrive x a).testBit 32 = !x.testBit 32 ∧
      (arrive x a).testBit 62 = (x.testBit 62 || decide (pend < a))) ∧
    arrive x a / 2 ^ 16 % 2 ^ 16 = expd ∧ (arrive x a).testBit 63 = x.testBit 63

/-! Group 0xB: the matrix unit. -/

/-- R317, R325, R329 to R333, R336, R339: a matrix word is checked, takes a free binding, and enters the track's queue with the
operands it read; a loop of no step enters nothing. -/
def Claim.MatrixWordsQueue : Prop :=
  let oneTile (f : WordF) (_ : State) (i : Iss) : Option Trap := need i (useOk (cfgOf i (tileA f))) 0x28
  Queues .tld false moveChecks (fun f s i => enqueue s i (.tld f) [uArg s i f.b, uArg s i f.c]) ∧
  Queues .tst false moveChecks (fun f s i => enqueue s i (.tst f) [uArg s i f.b, uArg s i f.c]) ∧
  Queues .tzero false oneTile (fun f s i => enqueue s i (.tzero f) []) ∧
  Queues .mgenIdent false oneTile (fun f s i => enqueue s i (.mgenIdent f) []) ∧
  Queues .mgenOnes false oneTile (fun f s i => enqueue s i (.mgenOnes f) []) ∧
  Queues .mgenPerm false (fun f _ i => need i (useOk (cfgOf i (tileA f)) && useOk (cfgOf i (tileB f))) 0x28)
    (fun f s i => enqueue s i (.mgenPerm f) []) ∧
  Queues .mma true (fun f s i => pairChecks s i f (cfgOf i (tileA f)) (cfgOf i (tileB f)))
    (fun f s i => enqueue s i (.mma f) []) ∧
  Queues .mloop true loopChecks (fun f s i =>
    if uArg s i f.a = 0 then s else enqueue s i (.mloop f) (uArg s i f.a :: g4 i f.b)) ∧
  Queues .mvloop true mvChecks (fun f s i =>
    if uArg s i f.b % 256 = 0 then s
    else enqueue s i (.mvloop f) [uniVal s i (.int 64) f.a, uArg s i f.b / 256, uArg s i f.b % 256]) ∧
  Queues .accz true (fun _ _ _ => none) (fun f s i => enqueue s i (.accz f) []) ∧
  Queues .accld true accChecks (fun f s i => enqueue s i (.accld f) [uArg s i f.a]) ∧
  Queues .accst true accChecks (fun f s i => enqueue s i (.accst f) [uArg s i f.a]) ∧
  Queues .accrd true (fun f s i => needMode s i f (extOf f.b / 8 % 2 == 1)) (fun f s i =>
    let q := { enqueue s i (.accrd f) [uArg s i f.a] with nextId := s.nextId }
    let q := if extOf f.b / 8 % 2 = 1 then q
      else modWarp q i.place (fun w => pushRes w
        ⟨s.nextId, false, 0, 0, 0, i.pc, BitVec.ofNat 9 (dstCode f.dst), false⟩)
    addPend q i.place .matrix i.l (fillsOf f.dst (2 ^ (extOf f.b % 4)) i.l (fun _ _ => Val.clean 0)))

/-- R322: a matrix word that does not wait for its accumulator while a queued instruction writes it raises LEASE with OPND 3. -/
def Claim.AccumulatorLease : Prop :=
  ∀ (mk : WordF → Instr), mk = .mma ∨ mk = .mloop ∨ mk = .mvloop ∨ mk = .accz ∨ mk = .accld ∨ mk = .accst ∨ mk = .accrd →
    ∀ f s i, Acts (mk f) s i → matWait s i = false → (issTrack s i).bind ≠ none → accWaits f = false →
      accLeased (issTrack s i) (accC f) = true → exec (mk f) s = .next (wordTraps s i ⟨2, 0, 3, false, i.a, []⟩)

/-- R338, R341: MWAIT passes once no covered instruction of its warp is queued; the first failure recorded against an accumulator it
names is reported and its record cleared. -/
def Claim.MwaitPassesOrReports : Prop :=
  ∀ f s i, Clean (.mwait f) s i → i.l ≠ 0#32 → mwaitWait f s i = false →
    let m := uArg s i f.a
    exec (.mwait f) s = .next (match i.w.mvfail.find? (fun c => m.testBit c.acc) with
      | none => wordAfter i (takeBinding (wordState s i (.mwait f)) i)
      | some c => wordTraps (modWarp s i.place (fun w => { w with mvfail := w.mvfail.filter (fun x => x.acc != c.acc) })) i
          ⟨c.code, c.detail, 0, false, i.a, []⟩)

/-- R325, R334: a unit's multiplier does one K-step of the track whose turn it is, and remembers the track; an MMA at the head adds
its product to its accumulator and has done its one K-step. -/
def Claim.KStepsAccumulate : Prop :=
  ∀ s core unit t, let u := rouseHead (rouseHead s core (2 * unit)) core (2 * unit + 1)
    kTrack u core unit = some t →
    exec (.kStepComplete core unit) s = .next { kStep u core t with lastK := FMap.ins u.lastK (core * 4 + unit) t } ∧
    ∀ m q f g, (trackSt u core t).queue = m :: q → m.word = .mma f → (trackSt u core t).bind.bind (wg? u) = some g →
      let tr := trackSt u core t
      let a := mmaStep tr (accC f) (m.cfg (tileA f)) (m.cfg (tileB f)) (tileOf tr (tileA f)) (tileOf tr (tileB f))
      accOf (trackSt (kStep u core t) core t) (accC f) = accOf a (accC f) ∧
      (trackSt (kStep u core t) core t).queue = { m with kdone := 1 } :: q

/-- R71, R332: an integer MMA adds to every accumulator element the exact product of A's row and B's column, modulo 2^64. -/
def Claim.IntegerProductExact : Prop :=
  ∀ (t : Track) (n ca cb : Nat) (a b : Tile) (i j : Nat), i < 32 → j < 48 → intType (tType ca) = true →
    0 < tCols ca / tK (tType ca) →
    accGet (accOf (mmaStep t n ca cb a b) n) (48 * i + j) =
      ofInt 64 (toSigned 64 (accGet (accOf t n) (48 * i + j)) +
        ((List.range (tCols ca / tK (tType ca) * tK (tType ca))).map (fun q =>
          intOf (tType ca) (elemRaw a ca i q) * intOf (tType cb) (elemRaw b cb q j))).sum)

/-- R325, R329 to R331, R339: the head of a queue that is done has its effect and leaves the queue. -/
def Claim.MatrixHeadCompletes : Prop :=
  ∀ s core track m q g, let u := rouseHead s core track
    (trackSt u core track).queue = m :: q → (trackSt u core track).bind = some g → headDone u core track = true →
    exec (.matrixComplete core track) s = .next (modTrack (headEffect u core track g m) core track (fun t =>
      { t with queue := t.queue.filter (fun x => x.id != m.id) })) ∧
    ∀ x f, wg? u g = some x → (m.word = .tzero f → tileOf (trackSt (headEffect u core track g m) core track) (tileA f) =
        Tile.zero) ∧
      (m.word = .accz f → accOf (trackSt (headEffect u core track g m) core track) (accC f) = ⟨f.mod.getLsbD 0, [], []⟩)

/-! Group 0xC and 0xD words, and the steps of warps and tracks. -/

/-- R378 to R380: SVC puts its lanes in service, the lowest first, with its number and the return address in v61 to v63; SRET ends a
lane's service at its target and the next pending lane enters; each is PRIV in the wrong mode. -/
def Claim.ServiceCalls : Prop :=
  (∀ f s i, Clean (.svc f) s i → isLodge i.place = false → i.l ≠ 0#32 →
    exec (.svc f) s = .next (if i.w.svclane.isSome then wordTraps s i ⟨6, 0x13, 0, false, i.a, []⟩
      else if svcVec (part s i.w.part) = 0 then wordTraps s i ⟨6, 0x12, 0, false, i.a, []⟩
      else retired (serve (modWarp (wordState s i (.svc f)) i.place (svcEnter (uniVal s i (.int 32) f.a) i)) i.place) i)) ∧
  (∀ f s i, Clean (.sret f) s i → isLodge i.place = false → i.l ≠ 0#32 →
    let t (l : Lane) : Dword := BitVec.ofNat 64 (srcVal s i (.int 64) f.a l)
    let bad := Mask.ofFn (fun l => i.l.has l && (t l).toNat % 8 != 0)
    exec (.sret f) s = .next (if i.w.svclane.isNone then wordTraps s i ⟨6, 0x10, 0, false, i.a, []⟩
      else if bad ≠ 0#32 then wordTraps s i ⟨5, 0, 1, false, bad, []⟩
      else retired (serve (modWarp (wordState s i (.sret f)) i.place (fun w => jump { w with svclane := none } i.l t))
        i.place) i)) ∧
  (∀ s pl w l, warp? s pl = some w → Mask.low? w.svcpend = some l →
    ∃ w', warp? (serve s pl) pl = some w' ∧ w'.svclane = some l ∧ w'.svcpend = w.svcpend &&& ~~~Mask.one l ∧
      w'.pc[l] = BitVec.ofNat 64 (svcVec (part s w.part)) ∧
      (∀ k : Lane, k ≠ l → w'.pc[k] = w.pc[k] ∧ (eligible w').has k = false))

/-- R382: ERRINJ, in supervisor mode or with INJEN, poisons its register, its sectors of memory or scratchpad, or leaves a correctable
error; otherwise it is PRIV. -/
def Claim.ErrorInjection : Prop :=
  let allowed (s : State) (i : Iss) : Bool := supMode i.place i.w || injEn (part s i.w.part)
  (∀ f s i, Clean (.errinjReg f) s i → i.l ≠ 0#32 → allowed s i = true →
    exec (.errinjReg f) s = .next (wordDone s i (.errinjReg f) (fun w => markReg w i.l f.dst))) ∧
  (∀ f s i u items, Clean (.errinjMem f) s i → i.l ≠ 0#32 → allowed s i = true →
    checkGlobal (wordState s i (.errinjMem f)) i (sourcesOf (.errinjMem f)) (sourcesOf (.errinjMem f)) 1 .store false 1
      (i.l.lanes.map (fun l => (l, Mask.one l, srcVal s i (.int 64) f.a l))) = .go u items →
    (∀ y ∈ items, pteHome y.leaf = false ∧ pteTier y.leaf ≠ 2) →
    exec (.errinjMem f) s = .next (wordAfter i (items.foldl (fun s y => injPoison s y.pa) u))) ∧
  (∀ f s i u items, Clean (.errinjCe f) s i → i.l ≠ 0#32 → allowed s i = true →
    checkGlobal (wordState s i (.errinjCe f)) i (sourcesOf (.errinjCe f)) (sourcesOf (.errinjCe f)) 1 .store false 1
      (i.l.lanes.map (fun l => (l, Mask.one l, srcVal s i (.int 64) f.a l))) = .go u items →
    (∀ y ∈ items, pteHome y.leaf = false ∧ pteTier y.leaf ≠ 2) →
    exec (.errinjCe f) s = .next (wordAfter i (items.foldl (fun s y => injCorrectable s y.pa) u))) ∧
  (∀ f s i, Clean (.errinjSpad f) s i → i.l ≠ 0#32 → allowed s i = true →
    let u := wordState s i (.errinjSpad f)
    let as := i.l.lanes.map (fun l => (l, srcVal u i (.int 32) f.a l))
    let ks := (as.map (fun a => a.2 / 512)).dedup
    (∀ a ∈ as, a.2 + 1 ≤ spadSize u i) → missing (rouseFor u i ks) i.w.wg ks = [] →
    exec (.errinjSpad f) s = .next (wordAfter i (modWg (rouseFor u i ks) i.w.wg (fun g => { g with
      spadPoison := as.foldl (fun m a => FMap.ins m (a.2 / 32) .anon) g.spadPoison })))) ∧
  (∀ f s i, i.l ≠ 0#32 → allowed s i = false →
    (Clean (.errinjReg f) s i → exec (.errinjReg f) s = .next (wordTraps s i ⟨6, 0x11, 0, false, i.a, []⟩)) ∧
    (Clean (.errinjMem f) s i → exec (.errinjMem f) s = .next (wordTraps s i ⟨6, 0x11, 0, false, i.a, []⟩)) ∧
    (Clean (.errinjCe f) s i → exec (.errinjCe f) s = .next (wordTraps s i ⟨6, 0x11, 0, false, i.a, []⟩)) ∧
    (Clean (.errinjSpad f) s i → exec (.errinjSpad f) s = .next (wordTraps s i ⟨6, 0x11, 0, false, i.a, []⟩)))

/-- R393, R394, R399 to R402: UISEND sends; UIWAIT reports a context without a block, and a claim that another warp holds; else its
warp claims the handler and takes the vector accepted first, or waits, or reports none under its no-wait form; UIRET returns every lane
of the interrupted group; a diversion enters UIVEC, and a group that waits at a UIWAIT and has been notified, or stands ready there,
completes it instead, with every lane that has reached its PC. -/
def Claim.UserInterrupts : Prop :=
  (∀ f s i, Clean (.uisend f) s i → i.l ≠ 0#32 →
    exec (.uisend f) s = .next (wordAfter i (uiSend (wordState s i (.uisend f)) i.place i.w (uniVal s i (.int 32) f.a)
      (uniVal s i (.int 32) f.b) (uniVal s i (.int 64) f.c)))) ∧
  (∀ f s i, Acts (.uiwait f) s i → isLodge i.place = false → uiWaiting i = false → i.l ≠ 0#32 →
    let p := i.w.part
    let c := i.w.ctx
    let u := uibAccess (wordState s i (.uiwait f)) p c 0
    let gives (t : State) (n : Nat) : Prop := exec (.uiwait f) s = .next (wordAfter i (modWarp t i.place (fun w =>
      writeDst (endWaits w i.a) i.l f.dst false (fun _ => n))))
    let held : Prop := bits (uibWord u p c 0) 63 1 = 1
    (uibAddr u p c = 0 → gives u 0x03000000) ∧
    (uibAddr u p c ≠ 0 → held → claimNames u i.place i.w = false → gives u 0x02000000) ∧
    (uibAddr u p c ≠ 0 → (held → claimNames u i.place i.w = true) →
      let v := if bits (uibWord u p c 0) 63 1 = 1 then u else uiClaim u i.place i.w
      (∀ n, uiFirst v p c = some n → gives (uiDelivered (uiTake v p c n).1 i.place p ((uiSys v c).testBit n))
        ((uiTake v p c n).2 * 256 + n)) ∧
      (uiFirst v p c = none → f.mod.getLsbD 0 = true → gives v 0x01000000) ∧
      (∀ w, uiFirst v p c = none → f.mod.getLsbD 0 = false → warp? s i.place = some w →
        exec (.uiwait f) s = .next (endIssue (setWarp v i.place (enterWait w .uiwait i.a 0#32 (.uiwait f))))))) ∧
  (∀ f s i, Acts (.uiret f) s i → isLodge i.place = false → i.w.uiin = true → i.w.intrap = false →
    Mask.sub i.w.uentry i.a = true →
    exec (.uiret f) s = .next (if i.l = 0#32 then wordAfter i (wordState s i (.uiret f))
      else wordMoved s i (.uiret f) (fun w => { jump w w.uentry (fun _ => w.uiepc) with uiin := false, uentry := 0#32 }))) ∧
  (∀ s pl w g v, warp? s pl = some w → deliverable s pl w = true → uiWaitOf w = none → divertGroup s pl w = some g →
    uiFirst s w.part w.ctx = some v → (∀ f n, (groupFetch s pl w g.1 g.2).2 ≠ .word (.uiwait f) n) →
    exec (.uiDiversion pl) s = .next (modWarp (uiDelivered (uiTake s w.part w.ctx v).1 pl w.part ((uiSys s w.ctx).testBit v)) pl
      (fun w => { jump (endWaits w g.2) g.2 (fun _ => w.uivec) with uiepc := g.1, uiin := true, uentry := g.2 }))) ∧
  (∀ s pl w g v f n, warp? s pl = some w → deliverable s pl w = true → uiWaitOf w = none → divertGroup s pl w = some g →
    uiFirst s w.part w.ctx = some v → (groupFetch s pl w g.1 g.2).2 = .word (.uiwait f) n →
    exec (.uiDiversion pl) s = exec (.uiwait f) { s with cur := some ⟨pl, g.2, g.1, n⟩ }) ∧
  (∀ s pl w x f l, warp? s pl = some w → deliverable s pl w = true → uiWaitOf w = some x → x.word = .uiwait f →
    x.mask.low? = some l →
    exec (.uiDiversion pl) s = exec (.uiwait f) { s with cur := some ⟨pl, x.mask ||| lanesAt w (eligible w) w.pc[l], w.pc[l], 1⟩ }) ∧
  (∀ w, w.uiin = true → ∀ l : Lane, (uiLeave w).pc[l] = if w.uentry.has l then w.uiepc else w.pc[l])

/-- R160, R172, R173, R178, R185 to R187: the steps of warps and lift lines. -/
def Claim.WarpSteps : Prop :=
  (∀ s pl w g, warp? s pl = some w → 256 ≤ w.run → w.forced = none → rotationGroup s pl w = some g →
    exec (.rotation pl) s = .next (modWarp s pl (fun w => { w with forced := leadOf g }))) ∧
  (∀ s core track e, waitcPick s core track = some e →
    exec (.waitcPriority core track) s = .next { s with agenda := .track core track :: s.agenda }) ∧
  (∀ s pl w, warp? s pl = some w → restoreReady s pl w = true →
    exec (.spillRestore pl) s = .next (modWarp (w.v.foldl (fun s e => if e.2.inSlot then moveIn s pl w e.1 else s)
      (blockAccess s w.part (ctxAddr s w.part w.ctx + 40))) pl (fun w => { w with spilled := false }))) ∧
  (∀ s core line l, FMap.get? (coreSt s core).lines line = some l → lineAged s core l = true →
    exec (.lineAgeTrigger core line) s = .next (modCore s core (fun c =>
      { c with lines := FMap.ins c.lines line (raiseTrig .age l) }))) ∧
  (∀ s core n l q x t u k, dispatchOrder s core = (n, l) :: q → wg? s l.wg = some x → x.saving = none →
    lineTrack s core (rFloor x.record) = some t → lineKept s x = (u, some k) →
    exec (.lineDispatch core) s = .next (modCore (fitPool core t 16 (admitWarp u core t (lineWarp u x l k))) core (fun c =>
      { c with lines := FMap.del c.lines n }))) ∧
  (∀ s pl w, warp? s pl = some w → isLodge pl = false → w.conv = 0#32 →
    (w.v.all (fun e => e.2.busy.isNone)) = true → (w.s.all (fun e => e.2.busy.isNone)) = true →
    exec (.warpEnd pl) s = .next (finishWarp s pl w) ∧
    (w.fails = [] → w.mvfail = [] → warp? (endWarp s pl) pl = none ∧ finishWarp s pl w = endWarp s pl))

/-- R186, R187: a line's warp starts at its label with one lane per entry, each with its thread, predicates and registers. -/
def Claim.LineWarpHoldsEntries : Prop :=
  ∀ s x l k seq, l.entries.length ≤ 32 →
    let w := lineWarp s x l k seq
    (∀ i : Lane, w.conv.has i = decide (i.val < l.entries.length) ∧ w.pc[i] = l.label) ∧
    (∀ (i : Lane) e, l.entries[i.val]? = some e → w.tid[i] = e.tid ∧
      (∀ p, p < 7 → pRead w p i = e.p.getLsbD p) ∧
      (∀ r x, e.vals[r]? = some x → vRead w r i = x))

/-! Faults and translation upkeep. -/

/-- R225, R226, R384: an access that waited for a table entry takes one, as a record with its origin's next number, or joins the record
that its page has got meanwhile; FAULTDONE frees the record it names and ends every wait on it, by DENY with the denial of each access
that joined it; one that names none does nothing else. -/
def Claim.FaultRecords : Prop :=
  (∀ p s r rest, (part s p).waiting = r :: rest → r.part = p → (part s p).recs.length < 256 →
    let u := modPart s p (fun q => { q with waiting := rest })
    let page := (part s p).recs.find? (fun x => x.ctx == r.ctx && x.vpage == r.vpage)
    (causeHeld s p (.table r.ctx r.vpage) = false → exec (.faultTableAdmit p) s = .next u) ∧
    (causeHeld s p (.table r.ctx r.vpage) = true →
      (page = none →
        let v := nextOseq u r.origin
        let x : FRec := { r with oseq := v.2 }
        exec (.faultTableAdmit p) s =
          .next (moveCause (pushFault (modPart v.1 p (fun q => { q with recs := q.recs ++ [x] })) p x) p
            (.table r.ctx r.vpage) (.record r.origin v.2))) ∧
      (∀ x, page = some x → exec (.faultTableAdmit p) s =
        .next (moveCause u p (.table r.ctx r.vpage) (.record x.origin x.oseq))))) ∧
  (∀ p o n s r, recordNamed s p o n.toNat = some r →
    exec (.faultdoneRetry p o n) s = .next (endCause (freeRecord s p r) p (.record o n.toNat)) ∧
    exec (.faultdoneDeny p o n) s =
      .next (endCause (denyAll (freeRecord s p r) p (.record o n.toNat) r) p (.record o n.toNat))) ∧
  (∀ p o n s, recordNamed s p o n.toNat = none → debugWarp s p o n.toNat = none → debugSaved s p o n.toNat = none →
    exec (.faultdoneRetry p o n) s = .next s ∧ exec (.faultdoneDeny p o n) s = .next s)

/-- R224, R226: a RETRY leaves no outstanding record of that name, and no warp of the partition waits on it; nothing else of a warp
changes, and memory does not, unless a transfer that waited on the record goes on. -/
def Claim.RetryReleases : Prop :=
  ∀ p o n s r, recordNamed s p o n.toNat = some r →
    ∃ t, exec (.faultdoneRetry p o n) s = .next t ∧ recordNamed t p o n.toNat = none ∧
      ((∀ e ∈ s.xfers, e.2.pause ≠ some (.record o n.toNat)) → t.mem = s.mem) ∧
      (∀ e ∈ t.warps, e.2.part = p → ∀ k ∈ e.2.parks, k.cause ≠ .record o n.toNat) ∧
      t.warps.map (fun e => (e.1, { e.2 with parks := [] })) = s.warps.map (fun e => (e.1, { e.2 with parks := [] }))

/-- R226: after a DENY a warp that had joined the record holds a denial with its record's page and KIND for each of its accesses. -/
def Claim.DenyRecorded : Prop :=
  ∀ p o n s r, recordNamed s p o n.toNat = some r →
    ∃ t, exec (.faultdoneDeny p o n) s = .next t ∧ recordNamed t p o n.toNat = none ∧
      (∀ e ∈ t.warps, e.2.part = p → ∀ k ∈ e.2.parks, k.cause ≠ .record o n.toNat) ∧
      (∀ e ∈ s.warps, ∀ k ∈ e.2.parks, k.cause = .record o n.toNat →
        ∃ e' ∈ t.warps, e'.1 = e.1 ∧ ∃ d ∈ e'.2.denied, d.vpage = r.vpage ∧ d.kind = r.kind ∧ d.mask = k.mask)

/-- R227 to R231, R441: a gondola walks to the leaf of the oldest tier miss as it stands. A page that is no tier miss any more translates
again. Else the page takes the frame at the head of its pool, once hosts have given up its lines; an empty pool, and an entry that names
no frame, make the miss a record of KIND NOPOOL. The leaf that a page-in writes has PI = 0. -/
def Claim.PageIns : Prop :=
  (∀ p s m rest, (part s p).misses = m :: rest →
    let drop (t : State) : State := modPart t p (fun q => { q with misses := rest })
    let u := (freshLeaf s p m.ctx (4096 * m.vpage)).1
    let w := (freshLeaf s p m.ctx (4096 * m.vpage)).2
    ((∀ e lv a, w = .leaf e lv a → ptePI e = false) → exec (.pageIn p) s = .next (endCause (drop u) p (.tier m.ctx m.vpage))) ∧
    ∀ e lv a, w = .leaf e lv a → ptePI e = true →
      let n := leafBytes lv e
      let off := 0x140 + 16 * poolOf n
      let r := ringAt (part u p) off 3
      let slot := r.base + 8 * (r.head % 2 ^ r.size)
      let x := physRead64 (blockLookup u p slot false) (some p) slot
      let v := modPart (drop x.1) p (fun q => ringPop q off)
      let frame := x.2.1 % 2 ^ 48
      ((gondola (part u p) = none ∨ r.count = 0) → exec (.pageIn p) s = .next (noPool (drop u) p m e lv)) ∧
      ∀ g, gondola (part u p) = some g → r.count ≠ 0 →
        (hbmFrame x.1 p frame n = false → exec (.pageIn p) s = .next (noPool v p m e lv)) ∧
        (hbmFrame x.1 p frame n = true →
          (∀ ln inv, pageSnoop x.1 e lv frame = some (ln, inv) → exec (.pageIn p) s = .next (sendSnoop x.1 ln inv)) ∧
          (pageSnoop x.1 e lv frame = none → exec (.pageIn p) s = .next (pageTo v p g m e lv a frame)))) ∧
  (∀ e frame, ptePI (pagedLeaf e frame) = false)

/-- R223: a write of TLBINV enters an invalidation, and waits with its fields while another is in progress; its completion removes
exactly the cached leaves and walker-cache entries in its scope, and no other, and the next write takes effect. -/
def Claim.Invalidations : Prop :=
  (∀ p c v s, exec (.tlbinvPage p c v) s = .next (tlbinvWrite s p 0 (c % 4096) (v % 2 ^ 45)) ∧
    exec (.tlbinvContext p c) s = .next (tlbinvWrite s p 1 (c % 4096) 0) ∧
    exec (.tlbinvPartition p) s = .next (tlbinvWrite s p 2 0 0)) ∧
  (∀ s p sc c v,
    ((part s p).tlbinv = [] → part (tlbinvWrite s p sc c v) p =
      { ctlSet (part s p) 0x110 (sc * 2 ^ 62 + c % 4096 * 2 ^ 50 + v % 2 ^ 45) with tlbinv := [(sc, c, v)] }) ∧
    ((part s p).tlbinv ≠ [] → part (tlbinvWrite s p sc c v) p =
      { part s p with tlbinv := (part s p).tlbinv ++ [(sc, c, v)] })) ∧
  (∀ p s sc c v rest, (part s p).tlbinv = (sc, c, v) :: rest →
    ∃ t, exec (.tlbinvDone p) s = .next t ∧ (part t p).tlbinv = rest ∧ t.mem = s.mem ∧
      (∀ e, e ∈ t.tlb ↔ e ∈ s.tlb ∧ ¬ (partOfCtx s e.ctx = some p ∧
        (sc = 2 ∨ (sc = 1 ∧ e.ctx = c) ∨ (sc = 0 ∧ tlbCovers c v e = true)))) ∧
      (∀ e, e ∈ t.walks ↔ e ∈ s.walks ∧ ¬ (partOfCtx s e.ctx = some p ∧
        (sc = 2 ∨ (sc = 1 ∧ e.ctx = c) ∨ (sc = 0 ∧ walkCovers c v e = true)))) ∧
      (∀ x y z rest', rest = (x, y, z) :: rest' →
        ctlWord (part t p) 0x110 = (x * 2 ^ 62 + y % 4096 * 2 ^ 50 + z % 2 ^ 45) % 2 ^ 64))

/-- R218, R219: L2RCTL holds at most 8 ways, RETREG the fields written; a line in a way that is not reserved any more, and a line of a
register that changed while it was active, lose their index and become class normal. -/
def Claim.RetentionRegisters : Prop :=
  (∀ p v s, exec (.l2rctlWrite p v) s = .next (writeL2rctl p s v.toNat)) ∧
  (∀ p s v, (part (writeL2rctl p s v) p).ctl = (ctlSet (part s p) 0x100 (min 8 (v % 16))).ctl ∧
    (∀ l ∈ (writeL2rctl p s v).l2, ∀ i, l.ret = some (p, i) → 16 - rways (ctlSet (part s p) 0x100 (min 8 (v % 16))) ≤ l.way) ∧
    ∀ l ∈ s.l2, inBanks s p l = true → 16 - rways (part s p) ≤ l.way →
      l.way < 16 - rways (ctlSet (part s p) 0x100 (min 8 (v % 16))) →
      { l with ret := none, sectors := l.sectors.map (fun x => { x with cls := .normal }) } ∈ (writeL2rctl p s v).l2) ∧
  (∀ p i v s, i < 8 → ∃ t, exec (.retregWrite p i v) s = .next t ∧ t.mem = s.mem ∧
    retReg (part t p) i = ⟨v.getLsbD 127, bits v.toNat 112 12, bits v.toNat 12 45, bits v.toNat 64 45⟩ ∧
    ((retReg (part s p) i).en = true → retReg (part t p) i ≠ retReg (part s p) i →
      (∀ l ∈ t.l2, l.ret ≠ some (p, i)) ∧
      ∀ l ∈ s.l2, l.ret = some (p, i) → { l with ret := none, sectors := l.sectors.map (fun x => { x with cls := .normal }) } ∈ t.l2))

/-! Chairlift. -/

/-- R345, R441: a NOTIFY that leaves no more entries than the ring holds sets TAIL and gives each new entry whose SEQ is 0 the next one,
once hosts have given up the lines it writes; another is ignored. -/
def Claim.QueueNotify : Prop :=
  ∀ s p q (t : BitVec 16), q < 8 →
    let r := prioRing (part s p) q
    let n := (t.toNat + 65536 - r.head) % 65536
    (2 ^ r.size < n → exec (.notify p q t) s = .next s) ∧
    (n ≤ 2 ^ r.size → publishSnoops s r (r.head + r.count) (n - r.count) = [] →
      exec (.notify p q t) s = .next ((List.range (n - r.count)).foldl (fun s k => publish p r s (r.head + r.count + k))
        (modPart s p (fun x => ctlSet (ctlSetField x (qctl q + 8) 32 16 t.toNat) (0x480 + 8 * q) t.toNat)))) ∧
    (n ≤ 2 ^ r.size → ∀ lns, publishSnoops s r (r.head + r.count) (n - r.count) = lns → lns ≠ [] →
      exec (.notify p q t) s = .next (lns.foldl (fun s ln => sendSnoop s ln true)
        (modPart s p (fun x => { x with notifies := x.notifies ++ [(q, t.toNat)] }))))

/-- R345, R441, R455: from boot stage 4 on, the entry at HEAD of a ring becomes the ring's candidate, with the fields of its bytes; a
malformed one is dropped, with a BADREC event, and HEAD moves on. A line of it that a host holds is asked for first. An entry that names
a save area counts toward the launch that its header names. -/
def Claim.CandidatesRead : Prop :=
  ∀ s p q, q < 8 → (prioRing (part s p) q).count ≠ 0 → FMap.get? (part s p).heads q = none →
    let a := ringEntry (prioRing (part s p) q) (prioRing (part s p) q).head
    let x := readRecord s (some p) none a
    let ar := areaOf x.1 (rSave x.2.1) (rCtx x.2.1)
    let v := (areaRead (engineLookups x.1 p (rCtx x.2.1) none 0 ar.frame headerBytes false) ar headerBytes).1
    let enters (t : State) (orig : Option Nat) : State :=
      modPart (addLaunch t ⟨p, rCtx x.2.1, a, some q, x.2.1, rSeq x.2.1, rPrio x.2.1, rIlo x.2.1, rIlo x.2.1 + rIcnt x.2.1, 0, orig,
        rSave x.2.1, false, 0, none, [], false, none⟩) p (fun y => { y with heads := FMap.ins y.heads q t.nextId })
    (s.boot < 4 → exec (.candidateRead p q) s = .next s) ∧
    (4 ≤ s.boot → ∀ ln, entrySnoop s a = some ln → exec (.candidateRead p q) s = .next (sendSnoop s ln false)) ∧
    (4 ≤ s.boot → entrySnoop s a = none →
      (x.2.2 = true ∨ malformed x.1 p x.2.1 = true →
        exec (.candidateRead p q) s = .next (modPart (badRec x.1 p a) p (fun y => ringPop y (qctl q)))) ∧
      (x.2.2 = false → malformed x.1 p x.2.1 = false →
        (rSave x.2.1 = 0 → exec (.candidateRead p q) s = .next (enters x.1 none)) ∧
        (rSave x.2.1 ≠ 0 → exec (.candidateRead p q) s = .next (enters v (rootLaunch v p (ar.get v 0x80 8))))))

/-- R348, R370, R455: candidates stand in order of falling PRIO and, within one, of rising SEQ; a partition that is halted has none, nor
has any before boot stage 4. -/
def Claim.CandidateOrder : Prop :=
  (∀ s p, (candidates s p).Pairwise (fun a b => a.2.prio > b.2.prio ∨ (a.2.prio = b.2.prio ∧ a.2.seq ≤ b.2.seq))) ∧
  (∀ s p, ctlField (part s p) 0x500 31 1 = 1 ∨ s.boot < 4 → candidates s p = []) ∧
  (∀ s p e, e ∈ candidates s p → e ∈ s.launches ∧ e.2.part = p ∧ e.2.next < e.2.stop)

/-- R170, R345, R348, R350, R417, R441: the first candidate that fits a core starts its next workgroup there, from the record as the
start reads it, once hosts have given up its lines: a fresh one is placed, a saved one is restored; a killed context's record is dropped.
Where nothing fits, nothing starts. -/
def Claim.WorkgroupsPlaced : Prop :=
  (∀ s p i l c, bestFit s p = some (i, l, c) →
    let u := blockAccess s p (excsumAddr s p l.ctx)
    let x := startRecord u l
    let t := if ctxKilled u p l.ctx then dropLaunch u i
      else match startSnoop u l with
        | some ln => sendSnoop u ln false
        | none =>
          if rSave x.2.1 = 0 then placeFresh { x.1 with
            launches := FMap.modify x.1.launches i (fun l => { l with record := x.2.1 }) } i l x.2.1 c
          else restoreWg x.1 i { l with save := rSave x.2.1 } x.2.1 c
    (l.save = 0 → exec (.workgroupPlace p) s = .next t ∧ exec (.workgroupRestore p) s = .next s) ∧
    (l.save ≠ 0 → exec (.workgroupRestore p) s = .next t ∧ exec (.workgroupPlace p) s = .next s)) ∧
  (∀ s p, bestFit s p = none → exec (.workgroupPlace p) s = .next s ∧ exec (.workgroupRestore p) s = .next s)

/-- R350: the core that a placement takes fits the candidate and is the partition's, and none that fits holds fewer workgroups. -/
def Claim.PlacementCore : Prop :=
  ∀ s i l c, chooseCore s i l = some c →
    fits s i l c = true ∧ (part s l.part).desc.cores.getLsbD c = true ∧
    (∀ d, d ∈ partCores s l.part → fits s i l d = true → (coreWgs s c).length ≤ (coreWgs s d).length)

/-- R254, R304, R351, R478: a start acquires, and then reads. A start whose header, frame and image are read and clean makes its workgroup run: each of its warps holds the
frame's words 1 to 31 in s1 to s31 and the header's two vectors. A denied or lost header or frame, or a poisoned header, fails the start
at once, although other reads wait; else the start waits on every read whose translation failed. -/
def Claim.StartsLoad : Prop :=
  ∀ s g x, wg? s g = some x → x.phase = .reading → x.killed = false → (x.startParks = [] ∨ startDenial x = true) →
    let hd := startRead (startAcquire s x) x (ofInt 64 ((rCode x.record : Int) - 32)) 32
    let fr := startRead hd.1 x (rFrame x.record) 128
    let im := startImage fr.1 x
    (∀ c d, hd.2 = .bad c d → exec (.recordStart g) s = .next (startFail im.1 g x c d [])) ∧
    (∀ hb hm, hd.2 = .bytes hb hm → hm.findSome? id ≠ none →
      exec (.recordStart g) s = .next (startFail im.1 g x 8 0 (hm.filterMap id).dedup)) ∧
    (startBad true hd.2 = none →
      (∀ c d, fr.2 = .bad c d → exec (.recordStart g) s = .next (startFail im.1 g x c d [])) ∧
      (startBad false fr.2 = none →
        let cs := (hd.2 :: fr.2 :: im.2).filterMap startWait
        (cs ≠ [] → exec (.recordStart g) s = .next (modWg im.1 g (fun x => { x with startParks := cs.dedup }))) ∧
        (cs = [] → ∀ hb hm fb fm, hd.2 = .bytes hb hm → fr.2 = .bytes fb fm →
          let k : Dword × Dword × List Val :=
            (clearLow (natOfBytes ((hb.drop 8).take 8)) 3, clearLow (natOfBytes ((hb.drop 16).take 8)) 3, (wordsOf fb fm 32).drop 1)
          let u := modWg (loadRegions im.1 g im.2) g (fun x => { x with phase := .running, kept := some k, slice := im.1.now })
          exec (.recordStart g) s = .next { u with warps := u.warps.map (fun e =>
            if !isLodge e.1 && e.2.wg == g then (e.1, loadKept k e.2) else e) } ∧
          (∀ w, (loadKept k w).trapvec = k.1 ∧ (loadKept k w).uivec = k.2.1))))

/-- R349, R371, R448, R478: a workgroup whose warps, copies and line entries are gone is released and counts toward its record unless it
was killed; the last one ends the record, which then owes its join; a record of which nothing is left to place, to run or to start again
is gone. -/
def Claim.WorkgroupsEnd : Prop :=
  (∀ s g x, wg? s g = some x → wgDone s g x = true →
    let u := unbind (dropLines s g) g
    let v := { u with wgs := FMap.del u.wgs g }
    (x.killed = true → exec (.workgroupEnd g) s = .next (endLaunch { v with
      launches := FMap.modify v.launches x.launch (fun l => { l with killed := true }) } x.launch)) ∧
    (x.killed = false → exec (.workgroupEnd g) s = .next (endLaunch (recordComplete { v with
      launches := FMap.modify v.launches x.launch (fun l => { l with completed := l.completed + 1 }) } x.launch) x.launch))) ∧
  (∀ s i l, FMap.get? s.launches i = some l → l.killed = true → l.stop ≤ l.next →
    (∀ e, e ∈ s.wgs → e.2.launch ≠ i) → (∀ e, e ∈ s.launches → e.2.orig ≠ some i) → endLaunch s i = dropLaunch s i) ∧
  (∀ s g x, wg? s g = some x → wgDone s g x = false → exec (.workgroupEnd g) s = .next s) ∧
  (∀ s i l, FMap.get? s.launches i = some l → rIcnt l.record ≤ l.completed → rJoin l.record ≠ 0 →
    recordComplete s i = dropLaunch (modPart s l.part (fun p => { p with
      joins := p.joins ++ [⟨i, l.ctx, rJoin l.record, none, none, false⟩] })) i)

/-- R264, R265, R352, R442: a join decrements the count of its block, at its home by a far atomic; at 0 it links the continuation, below
0 it writes an event, and a poisoned or absent count is a fault of the join. -/
def Claim.JoinsDecrement : Prop :=
  ∀ s n p j, joinOf s n = some (p, j) → j.pause = none → j.denied = none → j.reading = false →
    let x := translate s p j.ctx 255 false .atomic j.block
    ∀ pa e, x.2 = .ok pa e → snoopNeeds x.1 true ⟨0, j.block, pa, e⟩ = none →
      let u := atomAccess (scrubAt x.1 pa) pa false
      let bad := (FMap.get? u.poison (pa / 32)).isSome = true ∨ ptePom e = true
      (paReach u none pa = false → exec (.joinDecrement n) s = .next (joinFault (outRange u p pa) p j 0)) ∧
      (paReach u none pa = true → bad → exec (.joinDecrement n) s = .next (joinFault u p j 0)) ∧
      (paReach u none pa = true → ¬ bad →
        let key := ctxKey u j.ctx (pteHome e)
        let v := if pteHome e then homeSector u pa
          else engineLookups (engineLookups u p j.ctx (some j.block) e pa 8 false) p j.ctx (some j.block) e pa 8 true
        let old := natOfBytes (((sectorBytes v key (pa / 32)).drop (pa % 32)).take 8)
        let w := physStores v none key [⟨pa, bytesOfNat 8 ((old + 2 ^ 64 - 1) % 2 ^ 64), none⟩]
        let t := if pteHome e then sendAtomic w pa 64 (.fetchAdd (BitVec.allOnes 64)) else w
        (1 < old → old ≤ 2 ^ 63 → exec (.joinDecrement n) s = .next (endJoin t p j.launch)) ∧
        (old = 1 → exec (.joinDecrement n) s =
          .next (joinLink (modJoin t p j.launch (fun j => { j with reading := true })) p { j with reading := true })) ∧
        ((old = 0 ∨ 2 ^ 63 < old) → exec (.joinDecrement n) s = .next (endJoin (cairnWrite t originChairlift 0x0021 p j.block 0) p j.launch)))

/-- R357: SPAWN and SPAWNJ of addresses that pass their checks link the record and write the status, 0 or 1; a malformed record is not
linked and adds nothing to a join's count. -/
def Claim.SpawnsLink : Prop :=
  (∀ f s i u y, Clean (.spawn f) s i → i.l ≠ 0#32 → spawnWait s i = false →
    uniChecks (wordState s i (.spawn f)) i .atomic [⟨uniVal s i (.int 64) f.a, 1, 128, 128⟩] = (u, .inr [y]) →
    exec (.spawn f) s = .next (wordAfter i (modWarp (spawnLink u i y.2 none).1 i.place (fun w =>
      writeDst w i.l f.dst false (fun _ => (spawnLink u i y.2 none).2))))) ∧
  (∀ f s i u y z, Clean (.spawnj f) s i → i.l ≠ 0#32 → spawnWait s i = false →
    uniChecks (wordState s i (.spawnj f)) i .atomic [⟨uniVal s i (.int 64) f.a, 1, 128, 128⟩,
      ⟨uniVal s i (.int 64) f.b, 2, 128, 128⟩] = (u, .inr [y, z]) →
    let v := spawnLink u i y.2 (some (uniVal s i (.int 64) f.b, z.2))
    exec (.spawnj f) s = .next (wordAfter i (modWarp v.1 i.place (fun w => writeDst w i.l f.dst false (fun _ => v.2))))) ∧
  (∀ s i y j, (spawnLink s i y j).2 = 0 ∨ (spawnLink s i y j).2 = 1)

/-- R358, R393: YIELD gives 0 where no candidate waits or no frame is free; else it takes a frame, gives 1 and its workgroup is to be
saved, as a pre-emption saves it; one that issues while another is being applied gives 1 and does no more. -/
def Claim.Yields : Prop :=
  ∀ f s i x, Clean (.yield f) s i → isLodge i.place = false → i.l ≠ 0#32 → wg? s i.w.wg = some x →
    let u := wordState s i (.yield f)
    let done (t : State) (n : Nat) : State := wordAfter i (modWarp t i.place (fun w => writeDst w i.l f.dst false (fun _ => n)))
    (x.saving.any (fun e => e.2) = true → exec (.yield f) s = .next (done u 1)) ∧
    (x.saving.any (fun e => e.2) = false →
      (waiterFor u i.w.wg x = false → exec (.yield f) s = .next (done u 0)) ∧
      (waiterFor u i.w.wg x = true → (freeFrame u x.part).2 = none →
        exec (.yield f) s = .next (done (freeFrame u x.part).1 0)) ∧
      (∀ fr, waiterFor u i.w.wg x = true → (freeFrame u x.part).2 = some fr →
        exec (.yield f) s = .next (done (stopForSave (takeFrame (freeFrame u x.part).1 x.part) i.w.wg fr true) 1))) ∧
    (∀ t g fr, let claims (e : Nat × Warp) : Bool := claimNames t e.1 e.2
      (wgWarps t g).filter claims = [] → stopForSave t g fr true = modWg t g (fun x => { x with saving := some (fr, true), drain := none }))

/-- R405, R406, R408, R409: at the end of its slice a workgroup for which a candidate waits is chosen to leave, and else begins another
slice; a drain that has lasted as long as R408 says chooses again. A workgroup chosen at a slice end that is close to its end drains;
one that is idempotent, and would be large to save or finds no frame, starts again; another is saved in the frame at the pool's head,
or drains where there is none. -/
def Claim.SlicesAndDrains : Prop :=
  let leaves (x : Instr) (s : State) (g : Nat) (w : Wg) (wait : Nat) : Prop :=
    let r := freeFrame s w.part
    let large := 4096 * saveMax (part s w.part) < saveBytes r.1 g
    (rIdem w.record = true → (r.2 = none ∨ large) → exec x s = .next (requeueWg r.1 g)) ∧
    (rIdem w.record = false → r.2 = none →
      exec x s = .next (modWg r.1 g (fun w => { w with drain := some (r.1.now + wait) }))) ∧
    (∀ f, r.2 = some f → (rIdem w.record = true → ¬ large) →
      exec x s = .next (beginSave (takeFrame r.1 w.part) g f false))
  (∀ s g x, wg? s g = some x → preemptible x = true →
    let n := sliceLen (part s x.part)
    let near := rExpect x.record ≠ 0 ∧ drainPct (part s x.part) * rExpect x.record ≤ 100 * x.retired
    ((n = 0 ∨ s.now - x.slice < n) → exec (.sliceEnd g) s = .next s) ∧
    (n ≠ 0 → n ≤ s.now - x.slice →
      (waiterFor s g x = false → exec (.sliceEnd g) s = .next (modWg s g (fun x => { x with slice := s.now }))) ∧
      (waiterFor s g x = true → near → exec (.sliceEnd g) s = .next (modWg s g (fun x => { x with drain := some s.now }))) ∧
      (waiterFor s g x = true → ¬ near → leaves (.sliceEnd g) s g x 0))) ∧
  (∀ s g x t, wg? s g = some x → x.drain = some t →
    (s.now < t + max (sliceLen (part s x.part)) (2 ^ 24) → exec (.drainTimeout g) s = .next s) ∧
    (t + max (sliceLen (part s x.part)) (2 ^ 24) ≤ s.now → leaves (.drainTimeout g) s g x (2 ^ 64))) ∧
  (∀ s g x, wg? s g = some x → x.drain = none → exec (.drainTimeout g) s = .next s) ∧
  (∀ s g x, wg? s g = some x → x.saving ≠ none → exec (.sliceEnd g) s = .next (goSave s g))

/-- R354, R355, R407: while the partition holds no fence, the first candidate passed over for FENCEWAIT cycles that can takes a core:
where no workgroup of lower PRIO runs, it fences the first core of fewest workgroups; else it fences one from which workgroups of lower
PRIO, the lowest first and of those the youngest, are chosen to leave. The swap rule saves the workgroup that has been stalled
longest. -/
def Claim.FencesAndSwaps : Prop :=
  (∀ s p i l pre post, (partCores s p).any (fun c => (coreSt s c).fence.isSome) = false →
    candidates s p = pre ++ (i, l) :: post → fenceWaitLen (part s p) ≤ l.passed →
    (∀ e, e ∈ pre → e.2.passed < fenceWaitLen (part s p) ∨ fenceFor s e.1 e.2 = none) →
    (∀ xs c ys, partCores s l.part = xs ++ c :: ys →
      (∀ d, d ∈ partCores s l.part → ∀ e, e ∈ coreWgs s d → ¬ rPrio e.2.record < l.prio) →
      (∀ d, d ∈ xs → (coreWgs s c).length < (coreWgs s d).length) → (∀ d, d ∈ ys → (coreWgs s c).length ≤ (coreWgs s d).length) →
      exec (.fenceCore p) s = .next (fenceOn s c i)) ∧
    (∀ c gs, (∃ d, d ∈ partCores s l.part ∧ ∃ e, e ∈ coreWgs s d ∧ rPrio e.2.record < l.prio) →
      requestCore s i l = some (c, gs) →
      exec (.fenceCore p) s = .next (gs.foldl (fun s e => choose s e.1 true) (fenceOn s c i)))) ∧
  (∀ s p, ((partCores s p).any (fun c => (coreSt s c).fence.isSome) = true ∨
      ∀ e, e ∈ candidates s p → e.2.passed < fenceWaitLen (part s p) ∨ fenceFor s e.1 e.2 = none) →
    exec (.fenceCore p) s = .next s) ∧
  (∀ s i l c gs, requestCore s i l = some (c, gs) → c ∈ partCores s l.part ∧ (∃ n, gs = (victimOrder s c l.prio).take n) ∧
    fitsWithout (openCore s c) (gs.map Prod.fst) i l c = true ∧
    ∀ k, k + 1 < gs.length → fitsWithout (openCore s c) ((gs.take (k + 1)).map Prod.fst) i l c = false) ∧
  (∀ s c q, (victimOrder s c q).Pairwise (fun a b => rPrio a.2.record < rPrio b.2.record ∨
      (rPrio a.2.record = rPrio b.2.record ∧ rSeq b.2.record ≤ rSeq a.2.record)) ∧
    ∀ e, e ∈ victimOrder s c q ↔ e ∈ coreWgs s c ∧ preemptible e.2 = true ∧ rPrio e.2.record < q) ∧
  (∀ s c pre g x post, coreWgs s c = pre ++ (g, x) :: post → wg? s g = some x → x.saving = none →
    (∀ e, e ∈ pre → e.2.stall < x.stall) → (∀ e, e ∈ post → e.2.stall ≤ x.stall) →
    swapN (part s x.part) ≠ 0 → (∀ e, e ∈ coreWgs s c → swapN (part s x.part) ≤ e.2.stall) →
    (∃ l, l ∈ candidates s x.part ∧ ∃ e, e ∈ coreWgs s c ∧ fitsWithout s [e.1] l.1 l.2 c = true) →
    let r := freeFrame s x.part
    (r.2 = none → exec (.swap c) s = .next r.1) ∧
    (∀ f, r.2 = some f → exec (.swap c) s = .next (beginSave (takeFrame r.1 x.part) g f false))) ∧
  (∀ s c, (coreWgs s c = [] ∨ (∃ e, e ∈ coreWgs s c ∧ e.2.stall = 0)) →
    exec (.swap c) s = .next s)

/-! Messages. -/

/-- R447, R448: TSEND of a record and argument bytes that pass its checks gives 3 for a bad control word, 1 for a session that is not
valid to send, 4 for a lost port, 2 for a record that is not sent, and else sends the record, its JOIN and SEQ zero, with the bytes. -/
def Claim.TsendSends : Prop :=
  ∀ f s i u items, Clean (.tsend f) s i → i.l ≠ 0#32 →
    let c := uniVal s i (.int 32) f.c
    let n := 16 * bits c 16 9
    let e := bits c 0 6
    uniChecks (wordState s i (.tsend f)) i .load (⟨uniVal s i (.int 64) f.a, 1, 128, 128⟩ ::
      if n = 0 then [] else [⟨uniVal s i (.int 64) f.b, 2, 16, n⟩]) = (u, .inr items) →
    let q := part u i.w.part
    let st (t : State) (k : Nat) : State := wordAfter i (modWarp t i.place (fun w => writeDst w i.l f.dst false (fun _ => k)))
    let rd := readPages u (placeCore i.place) i.w.part i.w.ctx ((items.filter (fun y => y.1 == 1)).map Prod.snd) 128
    let ar := readPages rd.1 (placeCore i.place) i.w.part i.w.ctx ((items.filter (fun y => y.1 == 2)).map Prod.snd) n
    let r : Rec := BitVec.ofNat 1024 (natOfBytes rd.2.1)
    (badTsendCtl c = true → exec (.tsend f) s = .next (st u 3)) ∧
    (badTsendCtl c = false → (sessV q e = false ∨ sessTx q e = false) → exec (.tsend f) s = .next (st u 1)) ∧
    (badTsendCtl c = false → sessV q e = true → sessTx q e = true → (port u (sessPort q e)).lost = true →
      exec (.tsend f) s = .next (st u 4)) ∧
    (badTsendCtl c = false → sessV q e = true → sessTx q e = true → (port u (sessPort q e)).lost = false →
      (rd.2.2 ++ ar.2.2).filterMap id = [] →
      (badTsendRecord r = true → exec (.tsend f) s = .next (st ar.1 2)) ∧
      (badTsendRecord r = false → exec (.tsend f) s = .next (st (fabricSend (sysRelease ar.1 i.w.part) i.w.part e true i.w.ctx
        (fun m => { m with record := rset (rset r 128 64 0) 192 64 0, args := ar.2.1 })) 0)))

/-- R445, R446: a message that arrives on a port acts only under a session of that port and its peer, with a tag that verifies and the number
that follows the last; it then sets RXSEQ. Another is dropped with a BADMAC event. R445: a message that is sent carries the session's
next number and a tag under the session's key, in pieces of the port's size. -/
def Claim.MessagesAdmitted : Prop :=
  (∀ k m s, k < 6 → sessionOf s k m = none →
    exec (.fabricUint k m) s = .next (cairnWrite s (0x700 + k) 0x0023 15 k (sessFields m)) ∧
    exec (.fabricTask k m) s = .next (cairnWrite s (0x700 + k) 0x0023 15 k (sessFields m))) ∧
  (∀ k m s i, k < 6 → sessionOf s k m = some i →
    let out := cairnWrite s (0x700 + k) 0x0023 m.dstPart k (sessFields m)
    let late := m.oseq ≠ (sessWord (part s m.dstPart) i 6 + 1) % 2 ^ 64
    (tagOk s i false m = false ∨ late → exec (.fabricUint k m) s = .next out) ∧
    (tagOk s i true m = false ∨ late → exec (.fabricTask k m) s = .next out)) ∧
  (∀ k m s i, k < 6 → sessionOf s k m = some i → m.oseq = (sessWord (part s m.dstPart) i 6 + 1) % 2 ^ 64 →
    let u := modPart s m.dstPart (fun q => ctlSet q (sessOff i 6) m.oseq)
    let put (t : Task) : State := { u with tasks := u.tasks ++ [t] }
    let x : Task := ⟨m.dstPart, i, some m, 0, [], none, none, false⟩
    let y : Task := ⟨m.dstPart, i, none, m.record, m.args, none, none, false⟩
    (tagOk s i false m = true → exec (.fabricUint k m) s = .next (if headTask s m.dstPart i = none
      then landTask (put x) m.dstPart i x else put x)) ∧
    (tagOk s i true m = true → exec (.fabricTask k m) s = .next (if headTask s m.dstPart i = none
      then landTask (put y) m.dstPart i y else put y))) ∧
  (∀ k m s, 6 ≤ k → exec (.fabricUint k m) s = .next s ∧ exec (.fabricTask k m) s = .next s) ∧
  (∀ s i task m, tagOk s i task m = true ↔
    m.tag = Config.hmac (slotKey s (sessKey (part s m.dstPart) i)) (messageHead task m)) ∧
  (∀ s p i task ctx f, let n := (sessWord (part s p) i 7 + 1) % 2 ^ 64
    ∃ m, (fabricSend s p i task ctx f).outbox =
      s.outbox ++ [.fabric (sessPort (part s p) i) (sessPeer (part s p) i) n (messagePieces (messageBytes task m))] ∧
    m.tag = Config.hmac (slotKey s (sessKey (part s p) i)) (messageHead task m) ∧
    sessWord (part (fabricSend s p i task ctx f) p) i 7 = n)

/-- R446, R448: the first message of a session that waits is acted on: a UINT raises its vector in its target context, if that is one of
the session's partition; a TASK with no argument bytes is linked; one whose context the session does not admit is dropped with a BADREC
event; one whose landing slots are all in use waits on. -/
def Claim.TasksLand : Prop :=
  ∀ p i s t, headTask s p i = some t →
    (∀ m, t.uint = some m → exec (.taskLanding p i) s = .next (if partOfCtx s m.target = some p
      then uiAccept (popTask s p i) m.target ⟨0, m.srcDev, m.srcPart, m.srcCtx, .session p i, m.oseq⟩ m.vector m.payload.toNat else popTask s p i)) ∧
    (t.uint = none → t.pause ≠ none → exec (.taskLanding p i) s = .next s) ∧
    (t.uint = none → t.pause = none → (t.denied = true ∨ (t.slot = none ∧ taskRefused s p i t = true)) →
      exec (.taskLanding p i) s = .next (dropTask s p i t)) ∧
    (t.uint = none → t.pause = none → t.denied = false → taskRefused s p i t = false → t.args = [] →
      exec (.taskLanding p i) s = .next (linkTask s p i t none)) ∧
    (t.uint = none → t.pause = none → t.denied = false → t.slot = none → taskRefused s p i t = false → t.args ≠ [] →
      (freeLandingSlot (part s p) i = none → exec (.taskLanding p i) s = .next s) ∧
      (∀ k, freeLandingSlot (part s p) i = some k → exec (.taskLanding p i) s =
        .next (writeArgs (modTask (setLanding s p i k true) p i (fun t => { t with slot := some k })) p i
          { t with slot := some k } k)))

/-- R391, R438: a host's 16-byte write at offset 0 of a context's interrupt page, its reserved bits 0, raises its vector with its
payload; another write to a valid context's page only counts in DROPS; a write to a page of no context of the partition, or of a
partition that owns no HOST port, does nothing. -/
def Claim.HostInterrupts : Prop :=
  ∀ q c off size d s, let p := q.part
    ((hostFunction s p = false ∨ partOfCtx s c ≠ some p) → exec (.hostInterruptWrite q c off size d) s = .next s) ∧
    (hostFunction s p = true → partOfCtx s c = some p → off = 0 → size = 16 → bits d.toNat 70 58 = 0 →
      exec (.hostInterruptWrite q c off size d) s = .next (uiAccept s c ⟨2, 0, p, 0, .host q.origin, q.oseq.toNat⟩ (bits d.toNat 64 6) (bits d.toNat 0 64))) ∧
    (hostFunction s p = true → partOfCtx s c = some p → (off ≠ 0 ∨ size ≠ 16 ∨ bits d.toNat 70 58 ≠ 0) → ctxValid s p c = true →
      exec (.hostInterruptWrite q c off size d) s = .next (uibSet s p c 0x28 (satAdd 0 32 1 (uibWord s p c 0x28))))

/-- R443, R444: an exchange spends a leaf of the identity key; where the peer's report verifies, the session's key slot is loaded, and it
has a valid entry with its peer, and its two sequence numbers at 0; where it does not, nothing else changes. -/
def Claim.SessionsEstablish : Prop :=
  ∀ p i tx rx ks pp pd ps k s, i < 64 → ks < 64 → devNum s ≠ 0 → (part s p).desc.valid = true →
    (part s p).desc.keys.getLsbD ks = true → (keySlot s ks).state = .empty → s.patrol.leaves < lmsLeaves →
    (Config.peerVerifies s.patrol.leaves = false →
      exec (.sessionEstablish p i tx rx ks pp pd ps k) s = .next { s with patrol := { s.patrol with leaves := s.patrol.leaves + 1 } }) ∧
    (Config.peerVerifies s.patrol.leaves = true →
      ∃ t, exec (.sessionEstablish p i tx rx ks pp pd ps k) s = .next t ∧ t.patrol.leaves = s.patrol.leaves + 1 ∧
        (keySlot t ks).state = .loaded ∧ t.mem = s.mem ∧
        sessV (part t p) i = true ∧ sessTx (part t p) i = tx ∧ sessRx (part t p) i = rx ∧ sessKey (part t p) i = ks ∧
        sessPeerDev (part t p) i = pd % 4096 ∧ sessPeer (part t p) i = ps % 64 ∧ sessPort (part t p) i = k % 8 ∧
        sessWord (part t p) i 6 = 0 ∧ sessWord (part t p) i 7 = 0 ∧ sessWord (part t p) i 5 = 0)

/-! Ports, and memory that hosts see. -/

/-- R435, R437, R450, R451: training brings an enabled port that firmware gives a mode up, at a width and rate that a link has; a loss
takes the port's lines out of L2, is written once to Cairn, leaves a notice to every context that has used the port, and completes the
requests in flight there with poison; CLR clears it while the link is up. -/
def Claim.PortsTrainAndFail : Prop :=
  (∀ k w r s, 4 ≤ s.boot → k < 6 → s.fuse.links.getLsbD (32 + k) = true → (port s k).up = false →
    exec (.linkTrain k w r) s = .next (if (port s k).mode ≠ 0 ∧ w ≤ 4 ∧ 1 ≤ r ∧ r ≤ 6
      then modPort s k (fun q => { q with up := true, width := w, rate := r }) else s)) ∧
  (∀ k c s, k < 6 → (port s k).mode ≠ 0 → 1 ≤ c → c ≤ 4 →
    exec (.portLoss k c) s = .next (losePort s k c) ∧ exec (.completionTimeout k) s = .next (losePort s k 4)) ∧
  (∀ s k c, (port s k).lost = false → (∀ e, e ∈ s.pend → ∀ x, x ∈ e.2.reach → inRange (portRange k) x.2 = false) →
    let t := losePort s k c
    (port t k).lost = true ∧ (port t k).cause = c ∧ (port t k).up = ((port s k).up && !(c == 2 || c == 3)) ∧
    t.cairnwp = s.cairnwp + 1 ∧ (∀ l, l ∈ t.l2 → inRange (portRange k) (l.line * 128) = false) ∧
    (∀ x, (k, x) ∈ s.used → (x, k, c) ∈ t.notices)) ∧
  (∀ r s e, let m := e.2.reach.foldl (fun m x => m ||| x.1) 0#32
    m ≠ 0#32 → (∀ x, x ∈ e.2.reach → inRange r x.2 = true) → losePend r s e = completePend s e.1 { e.2 with
      fills := e.2.fills.map (fun f => { f with
        vals := Vector.ofFn (fun l => if Mask.has m l then ⟨0#32, some .anon⟩ else f.vals[l]) }) }) ∧
  (∀ p k s, k < 6 → (part s p).desc.ports.getLsbD k = true → (port s k).up = true →
    exec (.portClr p k) s = .next (modPort s k (fun q => { q with lost := false, cause := 0 }))) ∧
  (∀ p k s, (part s p).desc.ports.getLsbD k = false → exec (.portClr p k) s = .next s)

/-- R451: a context's notice is taken at a warp's next issue, in place of its word, as a trap with the loss's cause and port; each
notice is taken once. -/
def Claim.LossNotices : Prop :=
  ∀ s pl w c k cause a pc len, warp? s pl = some w → isLodge pl = false → nextNotice s w.ctx = some (c, k, cause) →
    noticeAt s pl w = some (a, pc, len) →
    exec (.expanderLostNotice pl) s = .next (takeTrap { s with
      notices := s.notices.filter (fun e => !(e.1 == c && e.2.1 == k)) } pl a pc len ⟨0xA, cause * 256 + k, 0, false, a, []⟩)

/-- R442: SNPDATA leaves an M or E half S, written back; SNPINV leaves it I, written back, and what the host then writes into its line
is what the device reads there (the row as the channel of a host's own writes is the model's: log 115); SNPCUR returns the data and
leaves the state; a snoop of a half that L2 does not hold does nothing else. -/
def Claim.HostSnoops : Prop :=
  (∀ q s l, let ln := q.line
    heldHalf s ln = some l → halfState l (ln % 2) ≠ .s → exec (.snpdata q) s =
      .next (setHalf (writeBackHalf s l (ln % 2)) (ln / 2) (ln % 2) .s (fun x => { x with dirty := false }))) ∧
  (∀ q s l, let ln := q.line
    heldHalf s ln = some l → exec (.snpinv ⟨q, none⟩) s = .next (setHalf (writeBackHalf s l (ln % 2)) (ln / 2) (ln % 2) .i
      (fun x => { x with dirty := false, valid := false }))) ∧
  (∀ q s d, exec (.snpinv ⟨q, some d⟩) s = .next (homeWrite (snoopOut s q.line) q.line d)) ∧
  (∀ ln s d k i j, Memory.wf s.mem = true → paKind s (64 * ln) = .port k → (port s k).mode ≠ 2 → i < 2 → j < 32 →
    sectorHeld s (2 * ln) = false → sectorHeld s (2 * ln + 1) = false →
    memGet (homeWrite s ln d).mem (64 * ln + 32 * i + j) = BitVec.ofNat 8 (bits d.toNat (256 * i + 8 * j) 8)) ∧
  (∀ q s l, heldHalf s q.line = some l →
    ∃ t, exec (.snpcur q) s = .next t ∧ t.l2 = s.l2 ∧ t.mem = s.mem ∧ ∃ p b, t.outbox = s.outbox ++
      [.hostData ⟨p, q.origin, q.oseq⟩ (memGets s.mem (64 * q.line) 64) b]) ∧
  (∀ q s, heldHalf s q.line = none →
    exec (.snpdata q) s = .next s ∧ exec (.snpinv ⟨q, none⟩) s = .next s ∧ exec (.snpcur q) s = .next s) ∧
  (∀ s ln h x f l, l ∈ (setHalf s ln h x f).l2 → l.line = ln → halfState l h = x)

/-- R438, R440: an offer of memory that the partition owns and no live extent overlaps is sent to the host, and becomes live when the host
accepts it at the partition's function; another is refused with a BADEXT event. A release first takes back the lines that the host holds; its end clears V. -/
def Claim.ExtentsLive : Prop :=
  (∀ p i s, i < 64 → (extent (part s p) i).v = false → (extent (part s p) i).req = 0 →
    (badOffer s p i = false → exec (.extentOffer p i) s =
      .next (sendOut (setExtent s p i false 1) (extOrigin s p) (fun n => .addCapacity n p i))) ∧
    (badOffer s p i = true → exec (.extentOffer p i) s = .next (refuseOffer s p i))) ∧
  (∀ p i a s, hostFunction s p = true → i < 64 → (extent (part s p) i).v = false → (extent (part s p) i).req = 1 →
    (a = true → badOffer s p i = false → exec (.extentAccepted p i a) s = .next (setExtent s p i true 0)) ∧
    ((a = false ∨ badOffer s p i = true) → exec (.extentAccepted p i a) s = .next (refuseOffer s p i))) ∧
  (∀ p i s, i < 64 → (extent (part s p) i).v = true → (extent (part s p) i).req = 0 →
    let u := setExtent s p i true 2
    (trackedLines u (extent (part s p) i) = [] →
      exec (.extentRelease p i) s = .next (sendOut u (extOrigin u p) (fun n => .releaseCapacity n p i))) ∧
    (trackedLines u (extent (part s p) i) ≠ [] → exec (.extentRelease p i) s =
      .next ((trackedLines u (extent (part s p) i)).foldl (fun s ln => sendSnoop s ln true) u))) ∧
  (∀ p i a s, hostFunction s p = false → exec (.extentAccepted p i a) s = .next s ∧ exec (.extentReleased p i) s = .next s) ∧
  (∀ p i s, hostFunction s p = true → i < 64 → (extent (part s p) i).v = true → ∃ t, exec (.extentReleased p i) s = .next t ∧
    (extent (part t p) i).v = false ∧ (extent (part t p) i).req = 0 ∧
    ((extent (part s p) i).scrub = false → t.mem = s.mem)) ∧
  (∀ s p i v r, r < 4 → (extent (part (setExtent s p i v r) p) i).v = v ∧ (extent (part (setExtent s p i v r) p) i).req = r)

/-- R441: the host's answer to a snoop writes the data it brings, drops or shares the line in the filter, ends the waits on it, and lets
the notifications that waited act. -/
def Claim.SnoopAnswers : Prop :=
  ∀ ln d s, s.bisnp.any (fun b => b.1 == ln) = true →
    let inv := s.bisnp.any (fun b => b.1 == ln && b.2)
    let u := match d with
      | some x => physWrite s none none (ln * 64) (bytesOfNat 64 x.toNat)
      | none => s
    let v := { u with
      bisnp := u.bisnp.filter (fun b => b.1 != ln)
      snoop := if inv then u.snoop.filter (fun x => x.line != ln)
        else u.snoop.map (fun x => if x.line = ln then { x with excl := false } else x) }
    let t := endCauseAll (if inv then afterSnoop v ln else v) (.snoop ln)
    exec (.birsp ln d) s = .next ((t.parts.map Prod.fst).foldl notifyAgain t)

/-- R439 to R442: a host's read of a live extent replies with the bytes and, where the extent is coherent and no release of it is
requested (log 123), enters its lines in the filter, once a full filter has given up its oldest; a write stores the bytes, and one
outside every extent nothing; an AtomicOp reads, writes the new value and replies with the old one, once no host holds its line; a read
outside every extent replies poisoned data. A partition that owns no HOST port has no host (R438). -/
def Claim.HostAccesses : Prop :=
  (∀ q a n s, hostFunction s q.part = true → dpaLook s q.part a n = none →
    exec (.hostMemRead q a n) s = .next (hostReply s q [] true)) ∧
  (∀ q a n s e pa, hostFunction s q.part = true → dpaLook s q.part a n = some (e, pa) →
    (e.coh = true → ∀ b, b ∈ s.bisnp → b.1 ∉ hostLines pa n) →
    let grants := e.coh && e.req != 2
    (∀ ln, grants = true → filterVictim s (hostLines pa n) = some ln → exec (.hostMemRead q a n) s = .next (sendSnoop s ln true)) ∧
    ((grants = true → filterVictim s (hostLines pa n) = none) →
      let u := hostLookups (if grants then grantLines s (hostLines pa n) else s) q.part pa n false
      exec (.hostMemRead q a n) s =
        .next (hostReply (hostBytes u (n + 1) pa n).1 q (hostBytes u (n + 1) pa n).2.1 (hostBytes u (n + 1) pa n).2.2))) ∧
  (∀ q a d s, dpaLook s q.part a d.length = none → exec (.hostMemWrite q a d) s = .next s) ∧
  (∀ q a d s e pa, hostFunction s q.part = true → dpaLook s q.part a d.length = some (e, pa) →
    (e.coh = true → ∀ b, b ∈ s.bisnp → b.1 ∉ hostLines pa d.length) →
    exec (.hostMemWrite q a d) s = .next (physWrite (hostLookups s q.part pa d.length true) none none pa d)) ∧
  (∀ q a w op s e pa, let n := if w then 8 else 4
    hostFunction s q.part = true → dpaLook s q.part a n = some (e, pa) → (e.coh = true → ∀ x, x ∈ s.snoop → x.line ∉ hostLines pa n) →
    let u := hostLookups (hostLookups s q.part pa n false) q.part pa n true
    let r := hostBytes u (n + 1) pa n
    exec (.hostAtomicop q a w op) s = .next (if r.2.2 then hostReply r.1 q r.2.1 true
      else physWrite (hostReply r.1 q r.2.1 false) none none pa (bytesOfNat n (hostAtomicNew op n (natOfBytes r.2.1))))) ∧
  (∀ q a n d w op s, hostFunction s q.part = false → exec (.hostMemRead q a n) s = .next s ∧ exec (.hostMemWrite q a d) s = .next s ∧
    exec (.hostAtomicop q a w op) s = .next s) ∧
  (∀ n old x, hostAtomicNew (.fetchAdd x) n old = (old + x.toNat) % 2 ^ (8 * n) ∧
    hostAtomicNew (.swap x) n old = x.toNat % 2 ^ (8 * n) ∧
    (∀ c, hostAtomicNew (.cas c x) n old = if old = c.toNat % 2 ^ (8 * n) then x.toNat % 2 ^ (8 * n) else old))

/-! Patrol, checkpoints and management. -/

/-- R430: a command takes the next PSEQ and sees the state at its place in the order; when it is done its partition reads PRESP.DONE with
its STATUS and PSEQ, and GO is 0. -/
def Claim.CommandsAnswered : Prop :=
  (∀ s p f st, p < 16 → st < 256 →
    let n := s.patrol.pseq + 1
    let u : State := { s with patrol := { s.patrol with pseq := n } }
    let d := f (modPart u p (fun q => ctlSetField (ctlSet q 0x740 0) 0x700 63 1 1)) n
    d.status = some st → n < 2 ^ 64 →
    let q := part (runCmd s p f) p
    ctlWord q 0x740 = 2 ^ 63 + st ∧ ctlWord q 0x748 = n ∧ ctlField q 0x700 63 1 = 0) ∧
  (∀ p n k s, exec (.keyload p n k) s = .next (runCmd s (p % 16) (keyload p n k))) ∧
  (∀ p n s, exec (.keykill p n) s = .next (runCmd s (p % 16) (keykill (p % 16) p n))) ∧
  (∀ p c n s, exec (.ctxprot p c n) s = .next (runCmd s (p % 16) (ctxprot p c n)) ∧
    exec (.ctxunprot p c) s = .next (runCmd s (p % 16) (ctxunprot p c))) ∧
  (∀ p m k s, exec (.dbgunlock p m k) s = .next (runCmd s (p % 16) (dbgunlock m k))) ∧
  (∀ p s, exec (.attest p) s =
    .next (runCmd (argBytes s (p % 16)).1 (p % 16) (attest (p % 16) p (argBytes s (p % 16)).2.1))) ∧
  (∀ p c s, (c < 2 ∨ 7 < c) → exec (.pcmdUnknown p c) s = .next (runCmd s (p % 16) (fun s _ => doneWith s 1))) ∧
  (∀ q d b s, exec (.partset q d b) s = .next (onRequest s q.auth (fun s => runCmd s (16 + q.part) (partset q.part d b))))

/-- R430, R431: KEYLOAD fills an owned slot that is EMPTY; KEYKILL makes an owned slot to which no context is bound RETIRING, and the
last of 25 acknowledgements, none of which comes while an access under the key is under way, empties it, raises its generation and
completes the command. -/
def Claim.KeysLoadAndRetire : Prop :=
  (∀ p n k s q, (ownsSlot s p n = false → keyload p n k s q = doneWith s 3 ∧ ∀ w, keykill w p n s q = doneWith s 3) ∧
    (ownsSlot s p n = true → (keySlot s n).state ≠ .empty → keyload p n k s q = doneWith s 2) ∧
    (ownsSlot s p n = true → (keySlot s n).state = .empty → ∃ t, keyload p n k s q = doneWith t 0 ∧
      (keySlot t n).state = .loaded ∧ (keySlot t n).key = k ∧ ∀ m, m ≠ n → keySlot t m = keySlot s m)) ∧
  (∀ w p n s q, ownsSlot s p n = true → (∃ e, e ∈ s.patrol.bound ∧ e.2 = n) → keykill w p n s q = doneWith s 2) ∧
  (∀ w p n s q, ownsSlot s p n = true → (∀ e, e ∈ s.patrol.bound → e.2 ≠ n) → (keySlot s n).state ≠ .retiring →
    let d := keykill w p n s q
    d.status = none ∧ (keySlot d.state n).state = .retiring ∧ (keySlot d.state n).acks = [] ∧
      ∀ i, i < 64 → ¬ (sessV (part d.state p) i = true ∧ sessKey (part d.state p) i = n)) ∧
  (∀ n e s, exec (.keykillAck n e) s = .next (keykillAck s n e)) ∧
  (∀ n e s, keyInUse s n = true → keykillAck s n e = s) ∧
  (∀ n e s w q, keyInUse s n = false → (keySlot s n).state = .retiring → e < 25 → (keySlot s n).acks.contains e = false →
    (keySlot s n).waiter = some (w, q) →
    ((keySlot s n).acks.length < 24 → keySlot (keykillAck s n e) n =
      { keySlot s n with acks := (keySlot s n).acks ++ [e] }) ∧
    ((keySlot s n).acks.length = 24 → (keySlot (keykillAck s n e) n).state = .empty ∧
      (keySlot (keykillAck s n e) n).gen = (keySlot s n).gen + 1))

/-- R430, R433: CTXPROT binds a context of the partition that is not in use to an owned LOADED slot and sets PROT, but not under DBG;
CTXUNPROT unbinds it; DBGUNLOCK with a valid token sets DBG in each valid partition of the mask whose PROT is 0, and in no other. -/
def Claim.ContextsProtected : Prop :=
  (∀ p c n s q, ownsSlot s p n = true → (keySlot s n).state = .loaded → ctxOf s p c = true →
    ((part s p).desc.dbg = true → ctxprot p c n s q = doneWith s 4) ∧
    ((part s p).desc.dbg = false → ctxBusy s c = true → ctxprot p c n s q = doneWith s 2) ∧
    ((part s p).desc.dbg = false → ctxBusy s c = false → ∃ t, ctxprot p c n s q = doneWith t 0 ∧
      FMap.get? t.patrol.bound c = some n ∧ (part t p).desc.prot = true ∧ t.mem = s.mem)) ∧
  (∀ p c s q, ctxOf s p c = true → ctxBusy s c = false → ∃ t, ctxunprot p c s q = doneWith t 0 ∧
    ∀ e, e ∈ t.patrol.bound → e.1 ≠ c) ∧
  (∀ m k s q, let ok := Config.lmsOk (s.fuse.serial.toNat * 65536 + m.toNat) k
    (dbgunlock m k s q).status = some (if ok then 0 else 6) ∧ ∀ p x, (p, x) ∈ s.parts →
      (p, { x with desc := { x.desc with dbg :=
        x.desc.dbg || (ok && decide (p < 16) && m.getLsbD p && x.desc.valid && !x.desc.prot) } }) ∈ (dbgunlock m k s q).state.parts)

/-- R419, R420, R426: a PARTSET whose descriptor shares a resource with another partition, or is not legal otherwise, is CONFLICT, and
one that removes a core with a workgroup is BUSY, with no effect; another writes the descriptor with PROT and DBG 0, and a partition
that it forms counts its L2 hits and misses from 0 (R21). -/
def Claim.PartitionsSet : Prop :=
  ∀ p d b s q, p < 16 →
    (descLegal s p d = false → partset p d b s q = doneWith s 7) ∧
    (descLegal s p d = true → (∃ e, e ∈ s.wgs ∧ e.2.part = p ∧ d.cores.getLsbD e.2.core = false) →
      partset p d b s q = doneWith s 2) ∧
    (descLegal s p d = true → (∀ e, e ∈ s.wgs → e.2.part = p → d.cores.getLsbD e.2.core = true) →
      ∃ t n, partset p d b s q = doneWith t 0 ∧
        (part t p).desc = { d with prot := false, dbg := false, scrubPend := n } ∧
        ((part s p).desc.valid = false → (part t p).l2hit = 0 ∧ (part t p).l2miss = 0)) ∧
    (descLegal s p d = true → ∀ r x, (r, x) ∈ s.parts → r ≠ p → x.desc.valid = true →
      d.cores &&& x.desc.cores = 0 ∧ d.banks &&& x.desc.banks = 0 ∧ d.pch &&& x.desc.pch = 0 ∧ d.lpch &&& x.desc.lpch = 0 ∧
      d.ports &&& x.desc.ports = 0 ∧ d.gondolas &&& x.desc.gondolas = 0 ∧ d.lodge &&& x.desc.lodge = 0 ∧
      d.keys &&& x.desc.keys = 0)

/-- R426: SCRUB_GRANULE takes the lowest pending granule of its channel: it reads zero and is pending no more. -/
def Claim.GranulesScrubbed : Prop :=
  ∀ c s x, FMap.get? s.scrub c = some x →
    let g := firstPending x
    ∃ t, exec (.scrubGranule c) s = .next t ∧
      (∀ h, h < g → x.next ≤ h → x.ahead.contains h = true) ∧ x.ahead.contains g = false ∧
      (∀ e, e ∈ t.mem → ¬ (chanPa c (g * 2097152) ≤ e.1 ∧ e.1 < chanPa c (g * 2097152) + 2097152)) ∧
      (∀ y, FMap.get? t.scrub c = some y → g < y.next)

/-- R452, R453: a checkpoint whose destination is not the partition's ends with STATUS 1; another quiesces the partition; RESUME lifts
the quiesce once none is under way; a unit moves as it is stored when the quiesce is done. -/
def Claim.Checkpoints : Prop :=
  (∀ p b d s, exec (.checkpointSave p b d) s = .next (startCkpt s p false b d) ∧
    exec (.checkpointRestore p b d) s = .next (startCkpt s p true b d)) ∧
  (∀ p r b d s, (part s p).ckpt = none →
    let n := imageUnits s p b
    let a := d % 2 ^ 50 / 2097152 * 2097152
    (rangeOwned s p a (n * 2097152) = false → startCkpt s p r b d = setCkptStat (endCkpt s p) p 0 0 1 true false) ∧
    (rangeOwned s p a (n * 2097152) = true → startCkpt s p r b d = quiesceStep (modPart (setCkptStat s p n 0 0 false false) p
      (fun q => { ctlSetField q 0xB00 63 1 1 with ckpt := some ⟨r, b, a, 0, n, false⟩, quiesce := true })) p)) ∧
  (∀ p s, ((part s p).ckpt = none → exec (.checkpointResume p) s = .next (modPart s p (fun q => { q with quiesce := false }))) ∧
    ((part s p).ckpt ≠ none → exec (.checkpointResume p) s = .next s)) ∧
  (∀ p s c a, (part s p).ckpt = some c → c.quiet = true → c.done < c.units →
    unitAddr (imageChannels s p c.remote) c.done = some a →
    let b := c.dest + c.done * 2097152
    paLost s a = false → paLost s b = false →
    exec (.checkpointUnit p) s = .next (modPart (setCkptStat (if c.restore then moveUnit s p b a else moveUnit s p a b) p c.units
      (c.done + 1) 0 false true) p (fun q => { q with ckpt := some { c with done := c.done + 1 } })))

/-- R460, R461: a request of the session acts once, when its tag verifies and its number follows the last; another is dropped, and while a
command of the interface is still executing the next one waits; a reply carries the request's number and a tag under the session's key.
OPEN begins a session with a fresh key, spends a leaf and sends Patrol's share. CREAD and CWRITE reach the regions that R461 lists and no other. -/
def Claim.ManagementRequests : Prop :=
  (∀ s q f, mgmtServes s = true → q.ok = true → q.seq = s.patrol.sessSeq + 1 →
    onRequest s q f = f { s with patrol := { s.patrol with sessSeq := q.seq } }) ∧
  (∀ s q f, mgmtServes s = true → (q.ok = false ∨ q.seq ≠ s.patrol.sessSeq + 1) →
    onRequest s q f = cairnWrite s originPatrol 0x0023 15 0xFF q.seq) ∧
  (∀ s q f, mgmtServes s = false → onRequest s q f = s) ∧
  (∀ s n b, (reply s n b).outbox = s.outbox ++ [.mgmt (some (s.patrol.sessSeq,
    Config.hmac s.patrol.sessKey (bytesOfNat 8 s.patrol.sessSeq ++ (BitVec.ofNat 8 n :: b)))) n b]) ∧
  (∀ q p c a d b s, exec (.patrolRequest q p c a d b) s =
    .next (onRequest s q (fun s => if a.length ≤ 4096 then runCmd s (16 + p) (cmdOf (16 + p) p c a d b) else reply s 1 []))) ∧
  (∀ q a n s, exec (.cread q a n) s = .next (onRequest s q (fun s =>
    if 8 ≤ n ∧ n ≤ 64 ∧ n % 8 = 0 ∧ inRegions readRegions a n = true then
      reply s 0 ((List.range (n / 8)).flatMap (fun k => bytesOfNat 8 (dctlView s (a + 8 * k))))
    else reply s 1 []))) ∧
  (∀ q a d s, exec (.cwrite q a d) s = .next (onRequest s q (fun s =>
    if inRegions writeRegions a 8 = true then reply (controlWrite s a d.toNat) 0 [] else reply s 1 []))) ∧
  (∀ q p b a op s ln, dbgSnoop s q p b a op = some ln → ∃ w, exec (.dbgmem q p b a op) s = .next (sendSnoop s ln w)) ∧
  (∀ q p b a op s, dbgSnoop s q p b a op = none → exec (.dbgmem q p b a op) s = .next (onRequest s q (fun s =>
    if (part s p).desc.dbg = false then reply s 2 []
    else if dbgLen op < 8 ∨ 64 < dbgLen op then reply s 1 []
    else if b then (if a % 8 = 0 ∧ dbgLen op % 8 = 0 ∧ a + dbgLen op ≤ 65536 then dbgControl s p a op else reply s 1 [])
    else if rangeOwned s p a (dbgLen op) then dbgMemory s p a op else reply s 1 []))) ∧
  (∀ sh no sg s, (s.boot = 0 ∨ mgmtBusy s = true → exec (.open sh no sg) s = .next s) ∧
    (s.boot ≠ 0 → mgmtBusy s = false →
      (Config.lmsOk (openContent s sh no) sg = false → exec (.open sh no sg) s = .next (openReply s 3 [])) ∧
      (Config.lmsOk (openContent s sh no) sg = true → lmsLeaves ≤ s.patrol.leaves →
        exec (.open sh no sg) s = .next (openReply s 4 [])) ∧
      (Config.lmsOk (openContent s sh no) sg = true → s.patrol.leaves < lmsLeaves →
        ∃ t b, exec (.open sh no sg) s = .next t ∧ t.patrol.session = true ∧ t.patrol.sessSeq = 0 ∧
          t.patrol.leaves = s.patrol.leaves + 1 ∧ t.patrol.sessKey = Config.openKey t.patrol.leaves sh no ∧
          t.outbox = s.outbox ++ [.mgmt none 0 (bytesOfNat 128 (Config.patrolShare t.patrol.leaves).toNat ++ b)]))) ∧
  (∀ s, s.boot ≠ 0 → exec .mctpControl s = .next { s with outbox := s.outbox ++ [.mctp] })

/-- R422, R454: a reset leaves nothing resident, no partition and nothing in memory, every channel scrub-pending; the fuses and the
leaves spent stay, and a warm reset keeps Cairn, the session and the origins' sequence numbers (log 131); a function-level reset clears HALT and leaves ownership and keys. -/
def Claim.Resets : Prop :=
  (∀ s, ∃ t, exec .coldReset s = .next t ∧ t.warps = [] ∧ t.wgs = [] ∧ t.launches = [] ∧ t.parts = [] ∧ t.mem = [] ∧ t.l2 = [] ∧
    t.boot = 0 ∧ t.scrub = scrubAll ∧ t.cairn = [] ∧ t.patrol.session = false ∧ t.fuse = s.fuse ∧
    t.patrol.leaves = s.patrol.leaves) ∧
  (∀ s, ∃ t, exec .warmReset s = .next t ∧ t.warps = [] ∧ t.wgs = [] ∧ t.launches = [] ∧ t.parts = [] ∧ t.mem = [] ∧ t.l2 = [] ∧
    t.boot = 0 ∧ t.scrub = scrubAll ∧ t.cairn = s.cairn ∧ t.cairnwp = s.cairnwp ∧ t.patrol.session = s.patrol.session ∧
    t.patrol.sessSeq = s.patrol.sessSeq ∧ t.patrol.sessKey = s.patrol.sessKey ∧ t.oseq = s.oseq ∧ t.fuse = s.fuse ∧ t.patrol.leaves = s.patrol.leaves) ∧
  (∀ q c s, exec (.mgmtReset q c) s =
    .next (onRequest s q (fun s => if c then coldReset (reply s 0 []) else warmReset (reply s 0 [])))) ∧
  (∀ p s, hostFunction s p = true → ∃ t, exec (.functionLevelReset p) s = .next t ∧ ctlField (part t p) 0x500 31 1 = 0 ∧
    { (part t p).desc with scrubPend := 0 } = { (part s p).desc with scrubPend := 0 } ∧ t.patrol.slots = s.patrol.slots) ∧
  (∀ p s, hostFunction s p = false → exec (.functionLevelReset p) s = .next s)

/-- R436, R455, R457 to R459: a boot stage that succeeds is entered and recorded, and does its work; stage 1, 4, 5 or 6 that fails stops
the boot; a channel that fails at stage 3 is recorded, and no partition owns it; a fatal error halts every partition and stops issue
until a reset; a passed thermal limit lowers FREQ by one, and at FREQ 6 a die far too hot is fatal; a core with nothing to do gates. -/
def Claim.DeviceHealth : Prop :=
  (∀ s u, s.bootFailed = false → s.boot + 1 ≤ 6 →
    (exec (.bootstage true u) s = .next { cairnWrite (stageWork s (s.boot + 1)) originPatrol 0x0001 15 (s.boot + 1) 0 with
      boot := s.boot + 1 }) ∧
    (s.boot + 1 = 3 → u < 544 →
      exec (.bootstage false u) s = .next (cairnWrite (disableChannel s u) originPatrol 0x0002 15 3 u)) ∧
    (s.boot + 1 ≠ 2 → s.boot + 1 ≠ 3 → exec (.bootstage false u) s =
      .next { cairnWrite s originPatrol 0x0002 15 (s.boot + 1) u with bootFailed := true })) ∧
  (∀ s n, (n = 4 → stageWork s n = { s with lodgeRun := s.lodgeRun &&& 1 }) ∧
    (n = 5 → devNum s = 0 → devNum (stageWork s n) = Config.devNumber.toNat) ∧ (n = 5 → devNum s ≠ 0 → stageWork s n = s) ∧
    (n ≠ 4 → n ≠ 5 → stageWork s n = s)) ∧
  (∀ s c p, (c < 512 → (part (disableChannel s c) p).desc.pch.getLsbD c = false) ∧
    (512 ≤ c → (part (disableChannel s c) p).desc.lpch.getLsbD (c - 512) = false)) ∧
  (∀ u y s, ∃ t, exec (.fatal u y) s = .next t ∧ t.fatal = true ∧ t.mem = s.mem ∧ t.warps = s.warps ∧
    ∀ p x, (p, x) ∈ s.parts → ctlField (part t p) 0x500 31 1 = 1) ∧
  (∀ s c k, s.fatal = true → takeTurn s (.track c k) = .next s) ∧
  (∀ te po s, let u := modDctl s 0x07000000 (fun w => setBits w 32 16 te)
    let w := dctlWord u 0x07000000
    let far := bits w 16 8 = 6 ∧ 16 * (bits w 8 8 + 10) < bits w 32 16
    (far → exec (.thermal te po) s = .next (fatalError u 0x0B00 (bits w 32 16))) ∧
    (¬ far → 0 < bits w 16 8 → bits w 16 8 ≤ 30 → (16 * bits w 8 8 < bits w 32 16 ∨ bits w 0 8 < po) →
      (bits w 16 8 = 30 ∨ s.thermAt + 2 ^ 20 ≤ s.lodgeCycle) →
      exec (.thermal te po) s = .next (setFreq u (bits w 16 8 - 1)))) ∧
  (∀ c s, coreWgs s c = [] → (∀ l, l ∈ (coreSt s c).lines → l.2.trig = none) → (coreSt s c).gated = false →
    exec (.clockGate c) s = .next (modCore s c (fun c => { c with gated := true })))

/-! DRAM upkeep, the Lodge and register writes. -/

/-- R275, R277 to R282, R286: the upkeep of DRAM changes no byte of memory and no register of a thread, and poisons nothing but an atom
that the code cannot correct, when it is copied or remapped. -/
def Claim.DramKeepsMemory : Prop :=
  ∀ s t x, (∃ a b c, x = .activate a b c ∨ x = .directedRefresh a b c) ∨ (∃ a b, x = .refreshWindowWrap a b ∨ x = .sparingStart a b) ∨
      (∃ a, x = .sparingRowCopy a ∨ x = .tokenRefill a) ∨ (∃ a b c, x = .remapEntryWrite a b c) →
    exec x s = .next t → t.mem = s.mem ∧ t.warps = s.warps ∧ t.wgs = s.wgs ∧ t.l2 = s.l2 ∧
      ((s.uerr = [] ∨ ((∀ a, x ≠ .sparingRowCopy a) ∧ ∀ a b c, x ≠ .remapEntryWrite a b c)) → t.poison = s.poison)

/-- R277: an ACTIVATE counts its row; a row that reaches the threshold has its two neighbours on each side refreshed and its counter
is free; a row under directed refresh takes no ACTIVATE until its refresh completes. -/
def Claim.RowsTracked : Prop :=
  (∀ p b r s, rowExists s p b r = true → (p, b, r) ∉ s.refreshing → bits (dctlWord s (pchReg p 0)) 31 1 = 1 →
    let l := countRow r (FMap.getD s.rows (bankKey p b) [])
    ((∃ e, e ∈ l ∧ e.1 = r ∧ bits (dctlWord s (pchReg p 0)) 0 16 ≤ e.2) → ∃ t, exec (.activate p b r) s = .next t ∧
      t.refreshing = s.refreshing ++ (victimRows r).map (fun v => (p, b, v)) ∧
      FMap.get? t.rows (bankKey p b) = some (l.filter (fun e => e.1 != r)) ∧
      dctlWord t (pchReg p 0x20) = (dctlWord s (pchReg p 0x20) + (victimRows r).length) % 2 ^ 64) ∧
    ((∀ e, e ∈ l → e.1 = r → e.2 < bits (dctlWord s (pchReg p 0)) 0 16) →
      exec (.activate p b r) s = .next { s with rows := FMap.ins s.rows (bankKey p b) l })) ∧
  (∀ p b r s, (p, b, r) ∈ s.refreshing → exec (.activate p b r) s = .next s) ∧
  (∀ p b r s, ∃ t, exec (.directedRefresh p b r) s = .next t ∧ ∀ e, e ∈ t.refreshing ↔ e ∈ s.refreshing ∧ e ≠ (p, b, r)) ∧
  (∀ p b s, exec (.refreshWindowWrap p b) s = .next { s with rows := FMap.del s.rows (bankKey p b) }) ∧
  (∀ r l, (l.map Prod.fst).Nodup → l.length ≤ 16 → (∀ e, e ∈ l → 0 < e.2) → (countRow r l).length ≤ 16 ∧
    ((countRow r l).map Prod.fst).Nodup ∧ ∀ e, e ∈ countRow r l → 0 < e.2)

/-- R278 to R282, R286, R457: sparing starts where SPCTL admits it and copies a row at a time, and its last row ends it, with the spare
bank in the other's place; a remap entry holds what is written; a refill raises each of a controller's buckets by its RATE, at most to
its DEPTH. A disabled channel spares and refills nothing. -/
def Claim.SparingAndTokens : Prop :=
  (∀ p src s, p < 512 → let w := dctlWord s (pchReg p 0x10)
    (bits w 31 1 = 1 → ∃ t, exec (.sparingStart p src) s = .next t ∧
      bits (dctlWord t (pchReg p 0x10)) 0 64 = bits w 0 64) ∧
    (pchEnabled s p = true → bits w 31 1 = 0 → bits w 30 1 = 0 → bits w 0 6 ≠ 0x3F → src < 64 → src ≠ bits w 0 6 →
      ∃ t, exec (.sparingStart p src) s = .next t ∧ bits (dctlWord t (pchReg p 0x10)) 31 1 = 1 ∧
        bits (dctlWord t (pchReg p 0x10)) 8 6 = src ∧ bits (dctlWord t (pchReg p 0x10)) 0 6 = bits w 0 6)) ∧
  (∀ p s, p < 512 → pchEnabled s p = true → let w := dctlWord s (pchReg p 0x10)
    bits w 31 1 = 1 → bits w 32 15 < 16383 → ∃ t, exec (.sparingRowCopy p) s = .next t ∧
      bits (dctlWord t (pchReg p 0x10)) 32 15 = bits w 32 15 + 1 ∧ bits (dctlWord t (pchReg p 0x10)) 31 1 = 1) ∧
  (∀ p s, p < 512 → pchEnabled s p = true → let w := dctlWord s (pchReg p 0x10)
    bits w 31 1 = 1 → bits w 32 15 = 16383 → ∃ t, exec (.sparingRowCopy p) s = .next t ∧
      bits (dctlWord t (pchReg p 0x10)) 31 1 = 0 ∧ bits (dctlWord t (pchReg p 0x10)) 30 1 = 1 ∧
      FMap.get? t.spared p = some (bits w 8 6, bits w 0 6)) ∧
  (∀ k i v s, k < 8 → i < 4096 → ∃ t, exec (.remapEntryWrite k i v) s = .next t ∧
    let a := 0x00A00000 + 0x4000 * k + 4 * i
    bits (dctlWord t (a / 8 * 8)) (a % 8 * 8) 32 = v.toNat) ∧
  (∀ p c src s, (pchEnabled s p = false → exec (.sparingRowCopy p) s = .next s ∧ startSparing s p = s) ∧
    (chanEnabled s c = false → exec (.tokenRefill c) s = .next s) ∧ (512 ≤ p → exec (.sparingStart p src) s = .next s)) ∧
  (∀ c p s, chanEnabled s c = true → p < 16 → ∃ t, exec (.tokenRefill c) s = .next t ∧
    let w := dctlWord s (bucketBase c + 8 * p)
    bits (dctlWord t (bucketBase c + 8 * p)) 32 16 = min (bits w 32 16 + bits w 0 16) (bits w 16 16))

/-- R12, R424, R425: RUN starts an owned thread that does not run, at ENTRY with its registers reset, and no other; a thread's turn goes
to it only in the Lodge cycles that are its own. A notice that leaves no more entries than the ring holds sets TAIL and the header; the
oldest record of a queue is written where the thread's ring has room, and waits otherwise; both ask hosts first for the lines they write
(R441). -/
def Claim.LodgeThreads : Prop :=
  (∀ p j s, ownsThread s p j = true → s.lodgeRun.getLsbD j = false →
    let w := lodgeThread s p j
    exec (.lodgeStart p j) s = .next { setWarp s (lodgePlace j) w with lodgeRun := s.lodgeRun ||| (1#64) <<< j } ∧
    w.part = p ∧ w.ctx = (part s p).desc.ctxBase ∧ (∀ l : Lane, w.pc[l] = lodgeEntry (part s p) j) ∧ w.conv = 1 ∧ w.v = [] ∧
    (∀ n, sRead w n = Val.clean 0) ∧ (∀ q (l : Lane), q < 7 → pRead w q l = false) ∧ w.loops = [] ∧ w.intrap = false ∧
    w.trapvec = 0 ∧ w.trappc = 0 ∧ w.trapcause = 0 ∧ w.fpFlags = 0 ∧ w.fpEn = 0 ∧ w.ftz = false ∧ w.rm = .rne ∧
    w.stale = false ∧ w.xrec = XRec.zero) ∧
  (∀ p j s, (ownsThread s p j = false ∨ s.lodgeRun.getLsbD j = true) → exec (.lodgeStart p j) s = .next s) ∧
  (∀ s j, s.lodgeCycle % 64 ≠ j → turnOf s 72 j = .idle) ∧
  (∀ p j (t : BitVec 16) s, ownsThread s p j = true → (lodgeRing (part s p) j).base ≠ 0 →
    ((t.toNat + 65536 - (lodgeRing (part s p) j).head) % 65536 ≤ 2 ^ (lodgeRing (part s p) j).size →
      (snoopPhys s true (lodgeRing (part s p) j).base 4 = none → exec (.lodgeQueueNotify p j t) s =
        .next (setLodgeTail (modPart s p (fun q => ctlSet q (lqctl j + 16) t.toNat)) p j t.toNat)) ∧
      (∀ ln, snoopPhys s true (lodgeRing (part s p) j).base 4 = some ln → exec (.lodgeQueueNotify p j t) s =
        .next (sendSnoop (modPart s p (fun x => { x with notifies := x.notifies ++ [(8 + j, t.toNat)] })) ln true))) ∧
    (2 ^ (lodgeRing (part s p) j).size < (t.toNat + 65536 - (lodgeRing (part s p) j).head) % 65536 →
      exec (.lodgeQueueNotify p j t) s = .next s)) ∧
  (∀ p j (t : BitVec 16) s, (ownsThread s p j = false ∨ (lodgeRing (part s p) j).base = 0) →
    exec (.lodgeQueueNotify p j t) s = .next s) ∧
  (∀ p b s x rest, queueOf (part s p) b = x :: rest →
    (queueRoom s p b = false → exec (.lodgeRecordWrite p b) s = .next s) ∧
    (queueRoom s p b = true → let j := queueThread (part s p) b
      let r := lodgeRing (part s p) j
      let a := r.base + 32 + 32 * (r.tail % 2 ^ r.size)
      let held := (snoopPhys s true a 32).orElse (fun _ => snoopPhys s true r.base 4)
      (∀ ln, held = some ln → exec (.lodgeRecordWrite p b) s = .next (sendSnoop s ln true)) ∧
      (held = none → exec (.lodgeRecordWrite p b) s = .next (setLodgeTail (physWrite (engineLookups
        (modPart s p (fun q => if b then { q with errQ := rest } else { q with faultQ := rest })) p 0 none 0 a 32 true) (some p) none
        a (bytesOfNat 32 x.toNat)) p j ((r.tail + 1) % 65536))))) ∧
  (∀ p b s, queueOf (part s p) b = [] → exec (.lodgeRecordWrite p b) s = .next s)

/-- R7, R219, R345, R353, R422, R425: a write of a word of RW fields alone gives those fields the bits written and leaves the others; a
write of a word that has no field to take it, and one that runs past the block, does nothing; a write of L2RCTL, NOTIFY or LQNOTIFY is
that register's own event; CHCTL keeps FENCEWAIT at 64 or above. -/
def Claim.RegisterWrites : Prop :=
  let write (p o : Nat) (v : Dword) : Instr := .registerWrite p o 8 (BitVec.setWidth 128 v)
  (∀ p o n v s, o + n ≤ 65536 → n ≤ 16 → exec (.registerWrite p o n v) s = .next (ctlWrite s p o n v.toNat)) ∧
  (∀ p o n v s, (65536 < o + n ∨ 16 < n) → exec (.registerWrite p o n v) s = .next s) ∧
  (∀ e, e ∈ plainWords → ∀ p s (v : Dword), exec (write p e.1 v) s = .next (modPart s p (fun q =>
    ctlSet q e.1 ((ctlWord q e.1 &&& (2 ^ 64 - 1 - e.2)) ||| (v.toNat &&& e.2))))) ∧
  (∀ p o s (v : Dword), o % 8 = 0 → o < 65536 → writableWord o = false → exec (write p o v) s = .next s) ∧
  (∀ p s (v : Dword), exec (write p 0x100 v) s = exec (.l2rctlWrite p v) s) ∧
  (∀ p q s (v : Dword), q < 8 → exec (write p (0x480 + 8 * q) v) s = exec (.notify p q (v.setWidth 16)) s) ∧
  (∀ p j s (v : Dword), j < 64 → exec (write p (lqctl j + 16) v) s = exec (.lodgeQueueNotify p j (v.setWidth 16)) s) ∧
  (∀ p s (v : Dword), ∃ t, exec (write p 0x300 v) s = .next t ∧ ctlField (part t p) 0x300 0 32 = bits v.toNat 0 32 ∧
    ctlField (part t p) 0x300 32 16 = max 64 (bits v.toNat 32 16) ∧
    ctlField (part t p) 0x300 48 16 = ctlField (part s p) 0x300 48 16 ∧ t.mem = s.mem ∧ t.warps = s.warps)

/-! The machine. -/

/-- The frame of words that compute, of the integer and bit groups: the flags and the exception record stay too (R15, R16, R19). -/
def Claim.ComputeLeaves : Prop :=
  ∀ e, e ∈ computeWords → ∀ f s i, Clean (e.1 f) s i →
    ∃ t u, exec (e.1 f) s = .next t ∧ ComputeFrame (e.1 f) f (if e.2 f then 2 else 1) s i t u ∧
      u.fpFlags = i.w.fpFlags ∧ u.xrec = i.w.xrec ∧ u.fpq = i.w.fpq

/-- The frame of short floating-point words: flags are only ever set by them (R30, R125). -/
def Claim.FloatLeaves : Prop :=
  ∀ e, e ∈ floatWords → ∀ f s i, Clean (e.1 f) s i →
    ∃ t u, exec (e.1 f) s = .next t ∧ ComputeFrame (e.1 f) f (if e.2 f then 2 else 1) s i t u ∧
      i.w.fpFlags &&& ~~~u.fpFlags = 0

/-- R27, R28, R156: a word whose source with the wait bit, or whose destination, is empty changes nothing, and neither does a word at the
LEND of an active level whose group is not complete there. -/
def Claim.WordsWait : Prop :=
  ∀ x s i, formOf x ≠ .event → issOf s (guardOfInstr x) = some i → (operandsWait i.w x = true ∨ lendWait i = true) →
    exec x s = .next s

/-- R26, R28, R366: a computing word that names an unmapped source in a stale warp, or an empty one without the wait bit, or a poisoned
one, traps at its PC, in that order, and does nothing else. -/
def Claim.SourcesTrap : Prop :=
  ∀ e, e ∈ computeWords ++ floatWords → ∀ f s i, issOf s (guardOfInstr (e.1 f)) = some i → lendWait i = false →
    operandsWait i.w (e.1 f) = false →
    (∀ t, staleTrap i (e.1 f) = some t → exec (e.1 f) s = .next (wordTraps s i t) ∧ t.code = 3) ∧
    (∀ t, staleTrap i (e.1 f) = none → leaseTrap i (e.1 f) = some t → exec (e.1 f) s = .next (wordTraps s i t) ∧ t.code = 2) ∧
    (e.1 f ≠ .mov f → e.1 f ≠ .movl f → e.1 f ≠ .sel f → ∀ t, staleTrap i (e.1 f) = none → leaseTrap i (e.1 f) = none →
      poisonTrap i (sourcesOf (e.1 f)) = some t → exec (e.1 f) s = .next (wordTraps s i t) ∧ t.code = 8)

/-- R152, R379: the ILLEGALs of the warp's state. At the LEND of an active level a branch, call, return, TRAP, BKPT, EXIT, TRET, LBRK or
REFORM; a LOOP too deep, of a bad body, at such a LEND or in a handler, in that order; an LBRK of too many levels, or in a handler; a
TRET outside a handler. -/
def Claim.StateIllegals : Prop :=
  let illegal (x : Instr) (s : State) (i : Iss) (d : Nat) : Prop :=
    issOf s (guardOfInstr x) = some i → lendWait i = false → operandsWait i.w x = false →
      exec x s = .next (wordTraps s i ⟨1, d, 0, false, i.a, []⟩)
  (∀ (b : WordB) (s : State) (i : Iss), atLend i = true →
    illegal (.bra b) s i 0x14 ∧ illegal (.brx b) s i 0x14 ∧ illegal (.call b) s i 0x14 ∧ illegal (.callx b) s i 0x14 ∧
    illegal (.ret b) s i 0x14 ∧ (reformWait b s i = false → illegal (.reform b) s i 0x14) ∧
    (b.bmod.toNat % 4 + 1 ≤ i.w.loops.length → illegal (.lbrk b) s i 0x14)) ∧
  (∀ (f : WordF) (s : State) (i : Iss), atLend i = true →
    illegal (.trap f) s i 0x14 ∧ illegal (.bkpt f) s i 0x14 ∧ illegal (.exit f) s i 0x14 ∧
    (tretWait s i = false → illegal (.tret f) s i 0x14)) ∧
  (∀ (f : WordF) (s : State) (i : Iss), atLend i = false → supMode i.place i.w = false → i.w.intrap = false →
    illegal (.tret f) s i 0x15) ∧
  (∀ (b : WordB) (s : State) (i : Iss),
    let bad : Prop := b.disp.toInt < i.len ∨
      ∃ v, i.w.loops.getLast? = some v ∧ v.last.toNat ≤ (i.pc + 8 * b.disp.signExtend 64).toNat
    (i.w.loops.length = 4 → illegal (.loop b) s i 0x11) ∧
    (i.w.loops.length ≠ 4 → bad → illegal (.loop b) s i 0x12) ∧
    (i.w.loops.length ≠ 4 → ¬ bad → atLend i = true → illegal (.loop b) s i 0x14) ∧
    (i.w.loops.length ≠ 4 → ¬ bad → atLend i = false → i.w.intrap = true → illegal (.loop b) s i 0x16) ∧
    (i.w.loops.length < b.bmod.toNat % 4 + 1 → illegal (.lbrk b) s i 0x13) ∧
    (b.bmod.toNat % 4 + 1 ≤ i.w.loops.length → atLend i = false → i.w.intrap = true → illegal (.lbrk b) s i 0x16))

/-- R369: the walk takes the lowest level whose field of POLICY is not ignore, the partition's only where PCLAMP is 0; a retry acts, and
is recorded, as kill self where the record is not idempotent, at context and partition, and after RETRYMAX restarts. -/
def Claim.WalkDecides : Prop :=
  ∀ (s : State) (h : Where) (r : Rec) (index : Nat),
    let levels : List Level := [.warp, .wg, .launch, .ctx, .part]
    let field (v : Level) : Nat := if v = .part ∧ ctlField (part s h.part) 0x500 30 1 = 1 then 0 else bits (rPolicy r) (8 - 2 * v.code) 2
    let demoted (v : Level) : Prop := field v = 1 ∧
      (rIdem r = false ∨ v = .ctx ∨ v = .part ∨ ctlField (part s h.part) 0x500 0 4 ≤ retryCount s (wgLaunch s h.wg) index)
    (walkChoice s h r index levels = none ↔ ∀ v, field v = 0) ∧
    ∀ v a d, walkChoice s h r index levels = some (v, a, d) ↔
      field v ≠ 0 ∧ (∀ u : Level, u.code < v.code → field u = 0) ∧
        ((demoted v ∧ a = 2 ∧ d = true) ∨ (¬ demoted v ∧ a = field v ∧ d = false))

/-- R361, R362, R369, R373: a trap that no handler takes, and no debug stop, goes to the walk, whose record is written last: absorbed, the
warp stopped, in a KILLED context; from supervisor mode the context is killed; else the walk's action is applied, or absorbed where its
unit is being killed; where every level ignores, the context is killed. An absorbed record's LEVEL and ACTION are the model's (log 121). -/
def Claim.TrapsWalk : Prop :=
  ∀ (s : State) (pl : Nat) (a : Mask) (pc : Dword) (len : Nat) (t : Trap) (w : Warp) (x : Wg), warp? s pl = some w →
    isLodge pl = false → wg? s w.wg = some x → t.code ≠ 8 → (t.code = 0xB → ctlField (part s w.part) 0x500 29 1 = 0) →
    (w.intrap = true ∨ w.trapvec = 0#64 ∨ w.svclane.isSome = true) →
    let h : Where := ⟨pl, w.part, w.ctx, w.wg, placeCore pl, placeTrack pl, placeSlot pl⟩
    let u := modWarp { s with cur := none } pl (fun w => { w with
      denied := w.denied.filter (fun d => d.pc != pc || d.mask &&& a == 0#32)
      waits := w.waits.filter (fun y => y.mask &&& a == 0#32) })
    let ends (v : State) (level action : Nat) (demoted absorbed : Bool) : Prop :=
      takeTrap s pl a pc len t = contRecord v h t.cause pc.toNat level action demoted absorbed
    (ctxKilled s w.part w.ctx = true → ∃ v, ends v 3 2 false true ∧ v.wgs = s.wgs ∧ v.launches = s.launches ∧
      ∃ w', warp? v pl = some w' ∧ warpParked w' = true) ∧
    (ctxKilled s w.part w.ctx = false → w.svclane.isSome = true → ends (killCtx u w.part w.ctx) 3 2 false false) ∧
    (ctxKilled s w.part w.ctx = false → w.svclane = none →
      let c := walkChoice s h x.record x.index [.warp, .wg, .launch, .ctx, .part]
      (c = none → ends (killCtx u w.part w.ctx) 4 0 false false) ∧
      (∀ v act d, c = some (v, act, d) → unitKilled s w.wg v act = false → ends (applyAction u h v act) v.code act d false) ∧
      (∀ v act d, c = some (v, act, d) → unitKilled s w.wg v act = true → ends u v.code act d true))

/-- R370 to R372: what an action does. A warp that ends leaves its place; a killed workgroup has no warp and is marked killed; a restarted
one is killed and stands again, of the same index and SEQ, with SAVE 0 and one restart more; a killed launch is gone with its
workgroups; a restarted one stands again with every index; a killed context has no workgroup; the partition is halted, and under kill
parent every context of it is killed. -/
def Claim.ActionsApply : Prop :=
  let killed (t : State) (g : Nat) : Prop := wgWarps t g = [] ∧ ∃ y, wg? t g = some y ∧ y.killed = true
  let halted (t : State) (p : Nat) : Prop := ctlField (part t p) 0x500 31 1 = 1
  (∀ (s : State) (h : Where) (w : Warp), warp? s h.place = some w → w.wg = h.wg →
    (∀ x, wg? s h.wg = some x → x.phase = .running) → warp? (applyAction s h .warp 2) h.place = none) ∧
  (∀ (s : State) (h : Where) (x : Wg), wg? s h.wg = some x →
    killed (applyAction s h .warp 3) h.wg ∧ killed (applyAction s h .wg 2) h.wg ∧
    ∀ v : Level, v = .warp ∨ v = .wg → let t := applyAction s h v 1
      killed t h.wg ∧ (∀ l, FMap.get? s.launches x.launch = some l → x.launch < s.nextId → ∃ l', FMap.get? t.launches x.launch = some l' ∧
        l' = { l with retries := FMap.ins l.retries x.index (FMap.getD l.retries x.index 0 + 1) }) ∧
      ∃ n l, FMap.get? t.launches n = some l ∧ l.orig = some x.launch ∧ l.part = x.part ∧ l.ctx = x.ctx ∧ l.next = x.index ∧
        l.stop = x.index + 1 ∧ rSave l.record = 0 ∧ l.seq = rSeq l.record ∧ rSeq l.record = rSeq x.record) ∧
  (∀ (s : State) (h : Where) (v : Level) (a : Nat), (v = .wg ∧ a = 3) ∨ (v = .launch ∧ a = 2) →
    let i := wgLaunch s h.wg
    let t := applyAction s h v a
    FMap.get? t.launches i = none ∧ ∀ g x, wg? s g = some x → x.launch = i → x.killed = false → killed t g) ∧
  (∀ (s : State) (h : Where), let i := wgLaunch s h.wg
    let t := applyAction s h .launch 1
    (∀ g x, wg? s g = some x → x.launch = i → x.killed = false → killed t g) ∧
    ∀ l, FMap.get? s.launches i = some l → l.orig ≠ some i → ∃ l', FMap.get? t.launches i = some l' ∧ l'.record = l.record ∧
      l'.seq = l.seq ∧ l'.next = rIlo l.record ∧ l'.stop = rIlo l.record + rIcnt l.record ∧ l'.completed = 0) ∧
  (∀ (s : State) (h : Where) (v : Level) (a : Nat),
    (v = .launch ∧ a = 3) ∨ ((v = .ctx ∨ v = .part) ∧ (a = 2 ∨ a = 3)) →
    let t := applyAction s h v a
    (∀ g x, wg? s g = some x → x.killed = false → (x.ctx = h.ctx ∨ (v = .part ∧ a = 3 ∧ x.ctx ∈ partCtxs s h.part)) → killed t g) ∧
    ((v = .part ∨ (v = .ctx ∧ a = 3)) → halted t h.part))

/-- R2, R374: a containment record joins the partition's error queue with its origin's next sequence number, and each field of it stands
in its bits. -/
def Claim.RecordsWritten : Prop :=
  (∀ (s : State) (h : Where) (cause epc level action : Nat) (d b : Bool),
    let o := if 72 ≤ h.core then originOfPlace h.place else h.core
    let n := FMap.getD s.oseq o 0 + 1
    let t := contRecord s h cause epc level action d b
    (part t h.part).errQ = (part s h.part).errQ ++
      [contBits n cause epc o h.ctx h.part h.core h.track h.slot level action d b] ∧
    FMap.getD t.oseq o 0 = n) ∧
  (∀ (n cause epc o ctx p core track slot level action : Nat) (d b : Bool),
    let r := (contBits n cause epc o ctx p core track slot level action d b).toNat
    bits r 192 64 = n % 2 ^ 64 ∧ bits r 128 64 = cause % 2 ^ 64 ∧ bits r 64 64 = epc % 2 ^ 64 ∧ bits r 48 16 = o % 2 ^ 16 ∧
    bits r 36 12 = ctx % 2 ^ 12 ∧ bits r 32 4 = p % 16 ∧ bits r 24 8 = core % 256 ∧ bits r 21 3 = track % 8 ∧
    bits r 17 4 = slot % 16 ∧ bits r 14 3 = level % 8 ∧ bits r 12 2 = action % 4 ∧ r.testBit 11 = d ∧ r.testBit 10 = b ∧
    bits r 0 10 = 0)

/-- R12: s0 reads zero and a write to it does nothing; p7 reads 1 in every lane and a write to it does nothing; an unmapped register
reads zero (R26). -/
def Claim.FixedRegisters : Prop :=
  (∀ w x, sRead w 0 = Val.clean 0 ∧ sWrite w 0 x = w) ∧
  (∀ w (m v : Mask) (l : Lane), pRead w 7 l = true ∧ pWrite w 7 m v = w) ∧
  (∀ w r (l : Lane), vMapped w r = false → vRead w r l = Val.clean 0)

/-- R23, R24, R25: a write maps its register, keeps the lanes outside its mask and takes the register out of the deferred set; a last
use by the whole warp unmaps, one by a part of it defers. -/
def Claim.RegistersMap : Prop :=
  (∀ w r (m : Mask) f (l : Lane), m ≠ 0#32 → vMapped (vWrite w r m f) r = true ∧
    vRead (vWrite w r m f) r l = (if m.has l then f l else vRead w r l) ∧
    (r < 256 → (vWrite w r m f).deferred.getLsbD r = false)) ∧
  (∀ w r q (m : Mask) f (l : Lane), q ≠ r → vRead (vWrite w r m f) q l = vRead w q l) ∧
  (∀ w rs ds r, vMapped (release w true rs ds) r = (vMapped w r && !(rs.contains r && !ds.contains r))) ∧
  (∀ w rs ds r, r < 256 → (release w false rs ds).v = w.v ∧
    (release w false rs ds).deferred.getLsbD r = (w.deferred.getLsbD r || (rs.contains r && vMapped w r)))

/-- R10, R172: the groups of a warp part its eligible lanes by PC: each eligible lane stands in one group, the groups do not meet, and
they are in order of PC. -/
def Claim.GroupsPartition : Prop :=
  ∀ w, (∀ l : Lane, (eligible w).has l = true ↔ ∃ g, g ∈ groupsOf w ∧ g.2.has l = true) ∧
    (∀ g (l : Lane), g ∈ groupsOf w → g.2.has l = true → w.pc[l] = g.1) ∧
    (groupsOf w).Pairwise (fun a b => a.1.toNat < b.1.toNat ∧ a.2 &&& b.2 = 0#32)

/-- R75 to R97: decoding the words of a well-formed instruction gives it back, and what follows them. -/
def Claim.DecodeEncode : Prop :=
  ∀ i rest, formOf i ≠ .event → i.wf = true →
    decode false (bytesOfWords (encode i) ++ rest) = .ok (i, rest)

/-- R75 to R97: what decodes is well formed, and an ILLEG apart its bytes are those of its encoding: no bit of a word is ignored. -/
def Claim.DecodedEncodes : Prop :=
  ∀ g l i rest, decode g l = .ok (i, rest) → i.wf = true ∧ formOf i ≠ .event ∧
    ((∀ n, i ≠ .illeg n) → l = bytesOfWords (encode i) ++ rest)

/-- R77 to R94: words of each group, written out from the encodings, and the instructions that they are; and three that are none. -/
def Claim.WordsAsWritten : Prop :=
  let word (w : Dword) : Except Reject Instr := decodeWord false w 0
  let v (n : Fin 256) (l w : Bool) : Opd := .src (.v n) l w
  let s (n : Fin 160) (w : Bool) : Opd := .src (.s n) false w
  let g := Guard.always
  word 0x0027_0401_00C0_31F0 = .ok (.iaddc ⟨g, v 8 false false, v 4 false true, v 6 false true, .pred false 3, 0x30, 0⟩) ∧
  word 0x09E7_0500_4040_31F0 = .ok (.blut ⟨g, v 10 false false, v 1 false true, v 2 false true, v 3 false true, 0x30, 6⟩) ∧
  word 0x1812_0201_6180_0993 = .ok (.fadd ⟨⟨false, 2⟩, v 4 false false, v 5 true true, s 12 true, .none, 0x13, 0⟩) ∧
  word 0x20A7_0302_4000_A12A = .ok (.fcvt ⟨g, v 6 false false, v 9 false true, .none, .ext 10 false, 0x2A, 0⟩) ∧
  word 0x2837_0000_0C00_07C0 = .ok (.call ⟨g, 12, .none, 0x7C0⟩) ∧
  word 0x2897_0000_0000_0000 = .ok (.nop ⟨g, .none, .none, .none, .none, 0, 0⟩) ∧
  word 0x3017_0602_FA3C_F1F3 = .ok (.shfl ⟨g, v 12 false false, v 11 false true, .src (.int 17) false true,
    .src (.int 15) false true, 0x33, 0⟩) ∧
  word 0x3957_064A_0004_072C = .ok (.st ⟨g, v 12 true true, s 40 true, 0x40, .normal, .rel, .sys, 0, 5⟩) ∧
  word 0x3A97_A04A_0000_0518 = .ok (.atom ⟨g, s 64 true, s 40 true, 0, .normal, .acq, .dev, 0, 9⟩) ∧
  decodeWord false 0x50C7_007F_E500_0180 0x38 = .ok (.barw ⟨g, .none, .src (.lit 0x38) false true, s 40 true, .none, 0, 0⟩) ∧
  word 0x6017_994A_0000_0100 = .ok (.spawn ⟨g, s 50 false, s 40 true, .none, .none, 0, 0⟩) ∧
  word 0x6817_0074_C000_0100 = .ok (.svc ⟨g, .none, .src (.int 19) false true, .none, .none, 0, 0⟩) ∧
  word 0x8081_0270_2203_0131 = .ok (.pairedWord ⟨.iadd, 2, v 9 true true, 0⟩ ⟨.fmul, 3, v 2 false true, 0x11⟩) ∧
  word 0 = .error ⟨.wholeWord, 0, false⟩ ∧ word (BitVec.allOnes 64) = .error ⟨.wholeWord, 0, false⟩ ∧
  decodeWord true 0x3017_0602_FA3C_F1F3 0 = .error ⟨.processor, 0, false⟩

/-- R85, R96, R154: a track whose turn it is fetches at its group's PC what memory holds, decodes it, and the step is the decoded
instruction's, with the clock's tick, and with the pool entries it frees given to the allocations that wait for them (R177), which
changes only how many entries those have; bytes that are no instruction raise ILLEGAL with the failing check. -/
def Claim.StepRunsDecoded : Prop :=
  (∀ s core track rest v x, s.agenda = .track core track :: rest → s.fatal = false →
    turnOf { s with agenda := rest } core track = .issue v x → step s = ticked (pooled { s with agenda := rest } (exec x v))) ∧
  (∀ o t, pooled o (.next t) = .next (givePool o t) ∧ ∃ ws, givePool o t = { t with warps := ws } ∧
    ∀ pl, (FMap.get? ws pl).map (fun w => { w with alloc := [] }) = (warp? t pl).map (fun w => { w with alloc := [] })) ∧
  (∀ o t, (∀ e, e ∈ t.warps → e.2.alloc = []) → givePool o t = t) ∧
  (∀ t, ticked (.next t) = .next (tick t) ∧ (tick t).now = t.now + 1 ∧ (tick t).mem = t.mem ∧ (tick t).warps = t.warps) ∧
  (∀ s pl w g v x len, (isLodge pl = true ∨ nextNotice s w.ctx = none) → groupFetch s pl w g.1 g.2 = (v, .word x len) →
    issueGroup s pl w g = .issue { v with cur := some ⟨pl, g.2, g.1, len⟩ } x) ∧
  (∀ s pl w pc m u d, fetchDenied w m pc = none → fetchAt s pl w pc = (u, .word d) → wordLength d = 1 →
    groupFetch s pl w pc m = (u, match decodeWord (isLodge pl) d 0 with
      | .ok x => .word x 1
      | .error r => .trap ⟨1, r.check.detail, r.opnd, r.low, m, []⟩ 1)) ∧
  (∀ s pl w pc m u d v lit, fetchDenied w m pc = none → fetchAt s pl w pc = (u, .word d) → wordLength d ≠ 1 →
    fetchAt u pl w (pc + 8) = (v, .word lit) →
    groupFetch s pl w pc m = (v, match decodeWord (isLodge pl) d lit with
      | .ok x => .word x 2
      | .error r => .trap ⟨1, r.check.detail, r.opnd, r.low, m, []⟩ 2)) ∧
  (∀ s pl w pc pa e u, pc.toNat / 2 ^ 57 = 0 →
    translate s w.part w.ctx (placeCore pl) (supMode pl w) .fetch pc.toNat = (u, .ok pa e) →
    (72 ≤ placeCore pl ∨ FMap.get? (coreSt (physReadN u none (ctxKey u w.ctx (pteHome e)) 9 pa 8).1 (placeCore pl)).icache
      (icacheKey (if pteHome e then none else ctxSlot u w.ctx) pa) = none) →
    (fetchAt s pl w pc).2 =
      .word (BitVec.ofNat 64 (natOfBytes (physReadN u none (ctxKey u w.ctx (pteHome e)) 9 pa 8).2.1)))

/-- R171 to R173: a track picks the warp that R173 names: the oldest handler warp with a deliverable interrupt that has taken no cycle
by priority of late, which it diverts; else the oldest ready warp whose WAITC has reached 64; else the oldest ready warp. The warp's next
issue goes to the ready group of the lowest PC, unless a run of 256 has named another: the ready group, other than the run's, that holds
the lane whose last issue is oldest. -/
def Claim.TracksPick : Prop :=
  (∀ s core track pl w, handlerPick s core track = some (pl, w) →
    select s core track = .divert (notePick s core track pl true) pl ∧ (pl, w) ∈ trackWarps s core track ∧
    prioFree (trackSt s core track) w = true ∧ deliverable s pl w = true ∧
    (∀ e, e ∈ trackWarps s core track → prioFree (trackSt s core track) e.2 = true → deliverable s e.1 e.2 = true →
      w.seq ≤ e.2.seq)) ∧
  (∀ s core track e, handlerPick s core track = none → e ∈ trackWarps s core track →
    prioFree (trackSt s core track) e.2 = false ∨ deliverable s e.1 e.2 = false) ∧
  (∀ s core track pl w, handlerPick s core track = none → waitcPick s core track = some (pl, w) →
    select s core track = issueWarp (notePick s core track pl true) pl ∧ 64 ≤ w.waitc ∧ warpReady s (pl, w) = true ∧
    (∀ e, e ∈ trackWarps s core track → 64 ≤ e.2.waitc → warpReady s e = true → w.seq ≤ e.2.seq)) ∧
  (∀ s core track pl w, handlerPick s core track = none → waitcPick s core track = none →
    oldestPick s core track = some (pl, w) →
    select s core track = issueWarp (notePick s core track pl false) pl ∧ warpReady s (pl, w) = true ∧
    (∀ e, e ∈ trackWarps s core track → warpReady s e = true → e.2.waitc < 64) ∧
    (∀ e, e ∈ trackWarps s core track → warpReady s e = true → w.seq ≤ e.2.seq)) ∧
  (∀ s core track, handlerPick s core track = none → waitcPick s core track = none → oldestPick s core track = none →
    select s core track = .idle ∧ ∀ e, e ∈ trackWarps s core track → warpReady s e = false) ∧
  (∀ s pl w, (readyGroups s pl w).Pairwise (fun a b => a.1.toNat < b.1.toNat) ∧
    ∀ g, g ∈ readyGroups s pl w ↔ mayIssue s pl w = true ∧ g ∈ groupsOf w ∧ groupReady s pl w g = true) ∧
  (∀ s pl w g, let u := markRotation s pl
    warp? u pl = some w → g ∈ readyGroups u pl w →
    (w.forced = none ∨ (∀ h ∈ readyGroups u pl w, w.forced ≠ leadOf h) → (∀ h ∈ readyGroups u pl w, g.1.toNat ≤ h.1.toNat) →
      issueWarp s pl = issueGroup (modWarp u pl (fun w => noteGroup w u.now g ((readyGroups u pl w).any (fun h => h != g)))) pl w g) ∧
    (w.forced = leadOf g →
      issueWarp s pl = issueGroup (modWarp u pl (fun w => noteGroup w u.now g ((readyGroups u pl w).any (fun h => h != g)))) pl w g)) ∧
  (∀ s pl w, warp? s pl = some w →
    (w.run < 256 ∨ w.forced ≠ none → markRotation s pl = s) ∧
    (∀ g, 256 ≤ w.run → w.forced = none → rotationGroup s pl w = some g →
      markRotation s pl = modWarp s pl (fun w => { w with forced := leadOf g }) ∧ g ∈ readyGroups s pl w ∧
      leadOf g ≠ w.lastLead ∧ ∀ h ∈ readyGroups s pl w, leadOf h ≠ w.lastLead → oldestIssue w g ≤ oldestIssue w h))

/-- R454: after a cold reset nothing is resident, no partition exists, boot has not begun, and every channel is to be scrubbed. -/
def Claim.ResetState : Prop :=
  State.reset.warps = [] ∧ State.reset.wgs = [] ∧ State.reset.parts = [] ∧ State.reset.mem = [] ∧ State.reset.boot = 0 ∧
    State.reset.l2 = [] ∧ State.reset.cairn = [] ∧ State.reset.lodgeRun = 0 ∧ State.reset.fatal = false ∧
    State.reset.scrub = (List.range 544).map (fun c => (c, ⟨0, [], none⟩)) ∧ MemOk State.reset

/-- Every step keeps memory in its canonical form. -/
def Claim.MemOkKept : Prop := ∀ s t, MemOk s → step s = .next t → MemOk t

/-- Every step goes on: no step of the machine faults or is refused, in any state. -/
def Claim.StepGoesOn : Prop := ∀ s, ∃ t, step s = .next t

/-- R456: no step changes the fuses; R454: and none takes back a leaf of the identity key that has been spent (R432). -/
def Claim.FusesStay : Prop := ∀ s t, step s = .next t → t.fuse = s.fuse ∧ s.patrol.leaves ≤ t.patrol.leaves

/-! The statements. Each is the conjunction of claims stated above. -/

/-- Sums, differences, products, extrema, clamps. -/
def Obligations.IntegerArithmetic : Prop := Claim.IntegerArithmeticResults

/-- IDIV and IREM write the quotient and the remainder. -/
def Obligations.DivisionResults : Prop := Claim.DivisionResults

/-- Quotient and remainder, carries, lookups and shifts agree with their mathematics. -/
def Obligations.IntegerIdentities : Prop := Claim.DivisionIdentity ∧ Claim.CarryIdentity ∧ Claim.LutIsBitwise ∧ Claim.ShiftsAreBitVectorShifts

/-- Carry chains, widening products, addresses and dot products. -/
def Obligations.CarryAndWide : Prop := Claim.CarryChainResults ∧ Claim.WideAndDotResults

/-- SHL, SHR, SAR and ROT at every amount. -/
def Obligations.ShiftResults : Prop := Claim.ShiftResults

/-- FSH, BFE and BFI. -/
def Obligations.FieldResults : Prop := Claim.FieldResults

/-- Logic, counts, permutations, compares, moves and predicates. -/
def Obligations.LogicAndCounts : Prop := Claim.LogicResults ∧ Claim.CountAndSwizzleResults ∧ Claim.SelectAndMoveResults

/-- Floating-point arithmetic, packed, converted and paired words. -/
def Obligations.FloatResults : Prop := Claim.FloatArithmeticResults ∧ Claim.PackedFloatResults ∧ Claim.ConversionResults ∧ Claim.PairedWordResults

/-- Long words mark their destination empty and their requests deliver. It follows the model's readings and choices of log
entry 17. -/
def Obligations.LongRequests : Prop := Claim.LongWordsDeliver ∧ Claim.RequestsComplete

/-- FCLASS and FSGN read the encoding alone. -/
def Obligations.ClassAndSign : Prop := Claim.ClassByEncoding ∧ Claim.SignReplaced

/-- Branches, calls, returns and EXIT move or remove lanes. It follows the model's readings and choices of log entries 22, 23,
34, 114. -/
def Obligations.Branches : Prop := Claim.BranchesTransfer ∧ Claim.ExitRemovesLanes

/-- LOOP, LBRK and the back edge. It follows the model's readings and choices of log entries 22, 23, 34, 43. -/
def Obligations.Loops : Prop := Claim.LoopsOpenAndBreak ∧ Claim.BackEdgeTaken

/-- NOP only moves the PC. -/
def Obligations.NopOnlyMoves : Prop := Claim.NopOnlyMoves

/-- TRAP, BKPT and ILLEG raise their traps. -/
def Obligations.TrapWords : Prop := Claim.UserTrapsRaise ∧ Claim.IllegRaises

/-- Entering a trap handler and returning from it. It follows the model's readings and choices of log entries 24, 34. -/
def Obligations.TrapsAndReturns : Prop := Claim.TrapEntersHandler ∧ Claim.TrapReturnResumes ∧ Claim.HandlerRoundTrip

/-- MOVX reads and writes control registers. It follows the model's readings and choices of log entry 105. -/
def Obligations.ControlRegisters : Prop := Claim.MovxAccesses ∧ Claim.ControlRegistersReadBack

/-- Shuffles, votes, matches, reductions and scans. -/
def Obligations.LaneExchange : Prop := Claim.LaneWordResults ∧ Claim.ReduceAndScanResults

/-- Reductions and scans over the present lanes, by their mathematics and by their fixed order. -/
def Obligations.LaneReductions : Prop := Claim.ReductionsOverPresentLanes ∧ Claim.ScanIsPrefixSum ∧ Claim.TreesAndFolds

/-- WSYNC, BAR and REFORM. It follows the model's readings and choices of log entries 26, 34, 47, 103, 129. -/
def Obligations.WarpBarriers : Prop := Claim.BarriersSynchronise ∧ Claim.BarrierReleasesAll ∧ Claim.ReformFilesLanes

/-- Loads deliver, stores perform. It follows the model's readings and choices of log entries 4, 9, 42, 118, 119. -/
def Obligations.LoadsAndStores : Prop := Claim.LoadsDeliver ∧ Claim.StoresPerform

/-- Loads change no byte; stores only the sectors they touch. It follows the model's readings and choices of log entries 4, 7,
31, 115. -/
def Obligations.MemoryFrame : Prop := Claim.MemoryFrame

/-- A stored value reads back, and its neighbours stay. It follows the model's readings and choices of log entries 7, 11, 31. -/
def Obligations.StoreThenLoad : Prop := Claim.StoreThenLoad

/-- ATOM, RED and ATOMS read and then write. It follows the model's readings and choices of log entries 4, 41, 119. -/
def Obligations.Atomics : Prop := Claim.AtomicsPerform ∧ Claim.AtomicReadsThenWrites ∧ Claim.AtomicOperations

/-- PREF, CCTL, WAITV, FENCE, RETAIN and UNPIN. It follows the model's readings and choices of log entries 4, 39, 40. -/
def Obligations.OrderAndCache : Prop := Claim.PrefetchAndCacheControl ∧ Claim.WaitvCompletesOrWaits ∧ Claim.FenceOrders ∧ Claim.RetentionResults

/-- Copies issue, land and end. It follows the model's readings and choices of log entries 44, 45, 49, 50, 51, 120. -/
def Obligations.Copies : Prop := Claim.CopiesIssue ∧ Claim.ChunksLand ∧ Claim.TransfersEnd

/-- Regions, batches and presence waits. It follows the model's readings and choices of log entries 44, 46, 51. -/
def Obligations.RegionsAndBatches : Prop := Claim.RegionResults ∧ Claim.BatchesAndPresence

/-- Barrier objects: words, arrivals and waits. It follows the model's readings and choices of log entries 47, 51, 122. -/
def Obligations.BarrierObjects : Prop := Claim.BarrierObjectWords ∧ Claim.BarrierArrivalsAndWaits ∧ Claim.ArrivalOnObjectWord

/-- Matrix words check and queue; MWAIT passes or reports. It follows the model's readings and choices of log entries 46, 51,
53, 54. -/
def Obligations.MatrixQueue : Prop := Claim.MatrixWordsQueue ∧ Claim.AccumulatorLease ∧ Claim.MwaitPassesOrReports

/-- K-steps accumulate and the head of the queue completes. It follows the model's readings and choices of log entries 51,
52, 54, 55, 116. -/
def Obligations.MatrixSteps : Prop := Claim.KStepsAccumulate ∧ Claim.IntegerProductExact ∧ Claim.MatrixHeadCompletes

/-- SVC, SRET and ERRINJ. It follows the model's readings and choices of log entries 43, 73. -/
def Obligations.ServiceAndErrors : Prop := Claim.ServiceCalls ∧ Claim.ErrorInjection

/-- UISEND, UIWAIT, UIRET and diversion. It follows the model's readings and choices of log entries 76, 96. -/
def Obligations.UserInterrupts : Prop := Claim.UserInterrupts

/-- The steps of warps and lift lines. It follows the model's readings and choices of log entries 25, 48, 56, 61, 64, 113, 124, 125. -/
def Obligations.WarpsAdvance : Prop := Claim.WarpSteps ∧ Claim.LineWarpHoldsEntries

/-- Fault records are made, retried and denied. It follows the model's readings and choices of log entries 21, 44, 72. -/
def Obligations.FaultRecords : Prop := Claim.FaultRecords ∧ Claim.RetryReleases ∧ Claim.DenyRecorded

/-- Page-in, invalidation and retention registers. It follows the model's readings and choices of log entries 36, 70, 71, 125. -/
def Obligations.TranslationUpkeep : Prop := Claim.PageIns ∧ Claim.Invalidations ∧ Claim.RetentionRegisters

/-- Rings, candidates and their order. It follows the model's readings and choices of log entries 37, 57. -/
def Obligations.Candidates : Prop := Claim.QueueNotify ∧ Claim.CandidatesRead ∧ Claim.CandidateOrder

/-- Candidates are placed on cores that fit. It follows the model's readings and choices of log entry 37. -/
def Obligations.Placement : Prop := Claim.WorkgroupsPlaced ∧ Claim.PlacementCore

/-- Workgroups start, end and join. It follows the model's readings and choices of log entries 40, 57, 58, 59. -/
def Obligations.StartsAndEnds : Prop := Claim.StartsLoad ∧ Claim.WorkgroupsEnd ∧ Claim.JoinsDecrement

/-- SPAWN, SPAWNJ and YIELD. It follows the model's readings and choices of log entries 57, 60, 69. -/
def Obligations.SpawnsAndYields : Prop := Claim.SpawnsLink ∧ Claim.Yields

/-- Slices, drains, fences and swaps. It follows the model's readings and choices of log entries 66, 67, 68, 69, 126, 128. -/
def Obligations.Preemption : Prop := Claim.SlicesAndDrains ∧ Claim.FencesAndSwaps

/-- Sessions, messages, tasks and interrupts. It follows the model's readings and choices of log entries 11, 75, 76, 77, 83, 84,
112. -/
def Obligations.Messages : Prop := Claim.TsendSends ∧ Claim.MessagesAdmitted ∧ Claim.TasksLand ∧ Claim.HostInterrupts ∧ Claim.SessionsEstablish

/-- Ports train, fail and are cleared; notices; snoops. It follows the model's readings and choices of log entries 15, 89, 115, 132. -/
def Obligations.PortsAndNotices : Prop := Claim.PortsTrainAndFail ∧ Claim.LossNotices ∧ Claim.HostSnoops

/-- Extents, snoop answers and host accesses. It follows the model's readings and choices of log entries 16, 90, 104, 112, 123. -/
def Obligations.Extents : Prop := Claim.ExtentsLive ∧ Claim.SnoopAnswers ∧ Claim.HostAccesses

/-- Patrol answers commands; keys and contexts. It follows the model's readings and choices of log entries 8, 11, 12, 79, 80,
81, 82, 111. -/
def Obligations.Commands : Prop := Claim.CommandsAnswered ∧ Claim.KeysLoadAndRetire ∧ Claim.ContextsProtected

/-- Partition descriptors, scrubbing and checkpoints. It follows the model's readings and choices of log entries 7, 78, 91.
-/
def Obligations.Partitions : Prop := Claim.PartitionsSet ∧ Claim.GranulesScrubbed ∧ Claim.Checkpoints

/-- Management requests, resets, boot and health. It follows the model's readings and choices of log entries 5, 6, 11, 85, 86, 87,
88, 89, 100, 104, 130, 131. -/
def Obligations.Management : Prop := Claim.ManagementRequests ∧ Claim.Resets ∧ Claim.DeviceHealth

/-- DRAM upkeep changes no memory; row counters, sparing, tokens. It follows the model's readings and choices of log entries 15,
74, 110. -/
def Obligations.DramUpkeep : Prop := Claim.DramKeepsMemory ∧ Claim.RowsTracked ∧ Claim.SparingAndTokens

/-- Lodge threads and writes of the control block. It follows the model's readings and choices of log entries 3, 92, 93. -/
def Obligations.LodgeAndRegisters : Prop := Claim.LodgeThreads ∧ Claim.RegisterWrites

/-- What computing words leave unchanged. -/
def Obligations.ComputeFrames : Prop := Claim.ComputeLeaves ∧ Claim.FloatLeaves

/-- Words that wait change nothing; words with a bad source or in a bad state trap; a trap that no handler takes is walked. It follows
the model's readings and choices of log entries 20, 32, 34, 61, 120, 121. -/
def Obligations.WordsWaitOrTrap : Prop :=
  Claim.WordsWait ∧ Claim.SourcesTrap ∧ Claim.StateIllegals ∧ Claim.WalkDecides ∧ Claim.TrapsWalk ∧ Claim.ActionsApply ∧
    Claim.RecordsWritten

/-- Fixed registers, mappings and the groups of a warp. -/
def Obligations.RegistersAndGroups : Prop := Claim.FixedRegisters ∧ Claim.RegistersMap ∧ Claim.GroupsPartition

/-- Decoding what encode gives returns the instruction. -/
def Obligations.DecodeEncode : Prop := Claim.DecodeEncode

/-- What decodes is well formed and encodes to its bytes. It follows the model's readings and choices of log entry 18. -/
def Obligations.DecodedEncodes : Prop := Claim.DecodedEncodes

/-- Words written out from the encodings decode as the spec says. -/
def Obligations.WordsAsWritten : Prop := Claim.WordsAsWritten

/-- A track's step fetches, decodes and runs its group's word. It follows the model's readings and choices of log entries 2,
3, 9, 96. -/
def Obligations.StepRunsDecoded : Prop := Claim.StepRunsDecoded

/-- A track issues from the warp and group that the rules name. It follows the model's readings and choices of log entries 2, 3,
95, 109. -/
def Obligations.TracksPick : Prop := Claim.TracksPick

/-- Floating-point results are exact results rounded once; minima and maxima. -/
def Obligations.FloatsRoundOnce : Prop := Claim.FloatsRoundOnce ∧ Claim.MinMaxPicks

/-- What reset leaves. It follows the model's readings and choices of log entries 6, 7, 99. -/
def Obligations.ResetState : Prop := Claim.ResetState

/-- Every step keeps memory canonical. -/
def Obligations.MemOkKept : Prop := Claim.MemOkKept

/-- No step faults or is refused. It follows the model's readings and choices of log entries 2, 28. -/
def Obligations.StepGoesOn : Prop := Claim.StepGoesOn

/-- No step changes the fuses or takes back a spent leaf. It follows the model's readings and choices of log entry 6. -/
def Obligations.FusesStay : Prop := Claim.FusesStay
end

