-- ==== Sys2Proof/Laws/Dispatch.lean ====
section
/-! SUPPORT. The arms of exec, one equation each. -/

namespace Sys2Proof.Machine

open Sys2Proof

@[simp] theorem exec_iadd (f : WordF) (s : State) : exec (.iadd f) s = execIadd f s := rfl
@[simp] theorem exec_iaddc (f : WordF) (s : State) : exec (.iaddc f) s = execIaddc f s := rfl
@[simp] theorem exec_isub (f : WordF) (s : State) : exec (.isub f) s = execIsub f s := rfl
@[simp] theorem exec_isubb (f : WordF) (s : State) : exec (.isubb f) s = execIsubb f s := rfl
@[simp] theorem exec_imul (f : WordF) (s : State) : exec (.imul f) s = execImul f s := rfl
@[simp] theorem exec_imulh (f : WordF) (s : State) : exec (.imulh f) s = execImulh f s := rfl
@[simp] theorem exec_imad (f : WordF) (s : State) : exec (.imad f) s = execImad f s := rfl
@[simp] theorem exec_imadw (f : WordF) (s : State) : exec (.imadw f) s = execImadw f s := rfl
@[simp] theorem exec_idiv (f : WordF) (s : State) : exec (.idiv f) s = execIdiv f s := rfl
@[simp] theorem exec_irem (f : WordF) (s : State) : exec (.irem f) s = execIrem f s := rfl
@[simp] theorem exec_iabs (f : WordF) (s : State) : exec (.iabs f) s = execIabs f s := rfl
@[simp] theorem exec_ineg (f : WordF) (s : State) : exec (.ineg f) s = execIneg f s := rfl
@[simp] theorem exec_imin (f : WordF) (s : State) : exec (.imin f) s = execImin f s := rfl
@[simp] theorem exec_imax (f : WordF) (s : State) : exec (.imax f) s = execImax f s := rfl
@[simp] theorem exec_isad (f : WordF) (s : State) : exec (.isad f) s = execIsad f s := rfl
@[simp] theorem exec_lea (f : WordF) (s : State) : exec (.lea f) s = execLea f s := rfl
@[simp] theorem exec_idp4 (f : WordF) (s : State) : exec (.idp4 f) s = execIdp4 f s := rfl
@[simp] theorem exec_idp2 (f : WordF) (s : State) : exec (.idp2 f) s = execIdp2 f s := rfl
@[simp] theorem exec_and (f : WordF) (s : State) : exec (.and f) s = execAnd f s := rfl
@[simp] theorem exec_or (f : WordF) (s : State) : exec (.or f) s = execOr f s := rfl
@[simp] theorem exec_xor (f : WordF) (s : State) : exec (.xor f) s = execXor f s := rfl
@[simp] theorem exec_andn (f : WordF) (s : State) : exec (.andn f) s = execAndn f s := rfl
@[simp] theorem exec_orn (f : WordF) (s : State) : exec (.orn f) s = execOrn f s := rfl
@[simp] theorem exec_shl (f : WordF) (s : State) : exec (.shl f) s = execShl f s := rfl
@[simp] theorem exec_shr (f : WordF) (s : State) : exec (.shr f) s = execShr f s := rfl
@[simp] theorem exec_sar (f : WordF) (s : State) : exec (.sar f) s = execSar f s := rfl
@[simp] theorem exec_rot (f : WordF) (s : State) : exec (.rot f) s = execRot f s := rfl
@[simp] theorem exec_fsh (f : WordF) (s : State) : exec (.fsh f) s = execFsh f s := rfl
@[simp] theorem exec_bfe (f : WordF) (s : State) : exec (.bfe f) s = execBfe f s := rfl
@[simp] theorem exec_bfi (f : WordF) (s : State) : exec (.bfi f) s = execBfi f s := rfl
@[simp] theorem exec_popc (f : WordF) (s : State) : exec (.popc f) s = execPopc f s := rfl
@[simp] theorem exec_clz (f : WordF) (s : State) : exec (.clz f) s = execClz f s := rfl
@[simp] theorem exec_ctz (f : WordF) (s : State) : exec (.ctz f) s = execCtz f s := rfl
@[simp] theorem exec_brev (f : WordF) (s : State) : exec (.brev f) s = execBrev f s := rfl
@[simp] theorem exec_bswz (f : WordF) (s : State) : exec (.bswz f) s = execBswz f s := rfl
@[simp] theorem exec_blut (f : WordF) (s : State) : exec (.blut f) s = execBlut f s := rfl
@[simp] theorem exec_icmp (f : WordF) (s : State) : exec (.icmp f) s = execIcmp f s := rfl
@[simp] theorem exec_sel (f : WordF) (s : State) : exec (.sel f) s = execSel f s := rfl
@[simp] theorem exec_mov (f : WordF) (s : State) : exec (.mov f) s = execMov f s := rfl
@[simp] theorem exec_movl (f : WordF) (s : State) : exec (.movl f) s = execMovl f s := rfl
@[simp] theorem exec_cvti (f : WordF) (s : State) : exec (.cvti f) s = execCvti f s := rfl
@[simp] theorem exec_p2v (f : WordF) (s : State) : exec (.p2v f) s = execP2v f s := rfl
@[simp] theorem exec_v2p (f : WordF) (s : State) : exec (.v2p f) s = execV2p f s := rfl
@[simp] theorem exec_iclamp (f : WordF) (s : State) : exec (.iclamp f) s = execIclamp f s := rfl
@[simp] theorem exec_plut (f : WordF) (s : State) : exec (.plut f) s = execPlut f s := rfl
@[simp] theorem exec_pairedWord (hi lo : Half) (s : State) : exec (.pairedWord hi lo) s = execPairedWord hi lo s := rfl
@[simp] theorem exec_fadd (f : WordF) (s : State) : exec (.fadd f) s = execFadd f s := rfl
@[simp] theorem exec_fsub (f : WordF) (s : State) : exec (.fsub f) s = execFsub f s := rfl
@[simp] theorem exec_fmul (f : WordF) (s : State) : exec (.fmul f) s = execFmul f s := rfl
@[simp] theorem exec_ffma (f : WordF) (s : State) : exec (.ffma f) s = execFfma f s := rfl
@[simp] theorem exec_fmin (f : WordF) (s : State) : exec (.fmin f) s = execFmin f s := rfl
@[simp] theorem exec_fmax (f : WordF) (s : State) : exec (.fmax f) s = execFmax f s := rfl
@[simp] theorem exec_fminm (f : WordF) (s : State) : exec (.fminm f) s = execFminm f s := rfl
@[simp] theorem exec_fmaxm (f : WordF) (s : State) : exec (.fmaxm f) s = execFmaxm f s := rfl
@[simp] theorem exec_fcmp (f : WordF) (s : State) : exec (.fcmp f) s = execFcmp f s := rfl
@[simp] theorem exec_fclass (f : WordF) (s : State) : exec (.fclass f) s = execFclass f s := rfl
@[simp] theorem exec_fsgn (f : WordF) (s : State) : exec (.fsgn f) s = execFsgn f s := rfl
@[simp] theorem exec_fscale (f : WordF) (s : State) : exec (.fscale f) s = execFscale f s := rfl
@[simp] theorem exec_frnd (f : WordF) (s : State) : exec (.frnd f) s = execFrnd f s := rfl
@[simp] theorem exec_fdot2 (f : WordF) (s : State) : exec (.fdot2 f) s = execFdot2 f s := rfl
@[simp] theorem exec_fdot4 (f : WordF) (s : State) : exec (.fdot4 f) s = execFdot4 f s := rfl
@[simp] theorem exec_fadd2 (f : WordF) (s : State) : exec (.fadd2 f) s = execFadd2 f s := rfl
@[simp] theorem exec_fmul2 (f : WordF) (s : State) : exec (.fmul2 f) s = execFmul2 f s := rfl
@[simp] theorem exec_ffma2 (f : WordF) (s : State) : exec (.ffma2 f) s = execFfma2 f s := rfl
@[simp] theorem exec_frcp (f : WordF) (s : State) : exec (.frcp f) s = execFrcp f s := rfl
@[simp] theorem exec_frsq (f : WordF) (s : State) : exec (.frsq f) s = execFrsq f s := rfl
@[simp] theorem exec_fsqrt (f : WordF) (s : State) : exec (.fsqrt f) s = execFsqrt f s := rfl
@[simp] theorem exec_fdiv (f : WordF) (s : State) : exec (.fdiv f) s = execFdiv f s := rfl
@[simp] theorem exec_fexp2 (f : WordF) (s : State) : exec (.fexp2 f) s = execFexp2 f s := rfl
@[simp] theorem exec_flog2 (f : WordF) (s : State) : exec (.flog2 f) s = execFlog2 f s := rfl
@[simp] theorem exec_fsinpi (f : WordF) (s : State) : exec (.fsinpi f) s = execFsinpi f s := rfl
@[simp] theorem exec_fcospi (f : WordF) (s : State) : exec (.fcospi f) s = execFcospi f s := rfl
@[simp] theorem exec_ftanh (f : WordF) (s : State) : exec (.ftanh f) s = execFtanh f s := rfl
@[simp] theorem exec_fcvt (f : WordF) (s : State) : exec (.fcvt f) s = execFcvt f s := rfl
@[simp] theorem exec_ftoi (f : WordF) (s : State) : exec (.ftoi f) s = execFtoi f s := rfl
@[simp] theorem exec_itof (f : WordF) (s : State) : exec (.itof f) s = execItof f s := rfl
@[simp] theorem exec_fcvtsr (f : WordF) (s : State) : exec (.fcvtsr f) s = execFcvtsr f s := rfl
@[simp] theorem exec_fgete (f : WordF) (s : State) : exec (.fgete f) s = execFgete f s := rfl
@[simp] theorem exec_fgetm (f : WordF) (s : State) : exec (.fgetm f) s = execFgetm f s := rfl
@[simp] theorem exec_rngpx (f : WordF) (s : State) : exec (.rngpx f) s = execRngpx f s := rfl
@[simp] theorem exec_rngf (f : WordF) (s : State) : exec (.rngf f) s = execRngf f s := rfl
@[simp] theorem exec_bra (b : WordB) (s : State) : exec (.bra b) s = execBra b s := rfl
@[simp] theorem exec_brx (b : WordB) (s : State) : exec (.brx b) s = execBrx b s := rfl
@[simp] theorem exec_call (b : WordB) (s : State) : exec (.call b) s = execCall b s := rfl
@[simp] theorem exec_callx (b : WordB) (s : State) : exec (.callx b) s = execCallx b s := rfl
@[simp] theorem exec_ret (b : WordB) (s : State) : exec (.ret b) s = execRet b s := rfl
@[simp] theorem exec_loop (b : WordB) (s : State) : exec (.loop b) s = execLoop b s := rfl
@[simp] theorem exec_lbrk (b : WordB) (s : State) : exec (.lbrk b) s = execLbrk b s := rfl
@[simp] theorem exec_exit (f : WordF) (s : State) : exec (.exit f) s = execExit f s := rfl
@[simp] theorem exec_nop (f : WordF) (s : State) : exec (.nop f) s = execNop f s := rfl
@[simp] theorem exec_trap (f : WordF) (s : State) : exec (.trap f) s = execTrap f s := rfl
@[simp] theorem exec_tret (f : WordF) (s : State) : exec (.tret f) s = execTret f s := rfl
@[simp] theorem exec_bkpt (f : WordF) (s : State) : exec (.bkpt f) s = execBkpt f s := rfl
@[simp] theorem exec_movxRead (f : WordF) (s : State) : exec (.movxRead f) s = execMovxRead f s := rfl
@[simp] theorem exec_movxWrite (f : WordF) (s : State) : exec (.movxWrite f) s = execMovxWrite f s := rfl
@[simp] theorem exec_illeg (low : BitVec 52) (s : State) : exec (.illeg low) s = execIlleg low s := rfl
@[simp] theorem exec_shfl (f : WordF) (s : State) : exec (.shfl f) s = execShfl f s := rfl
@[simp] theorem exec_vote (f : WordF) (s : State) : exec (.vote f) s = execVote f s := rfl
@[simp] theorem exec_bcast (f : WordF) (s : State) : exec (.bcast f) s = execBcast f s := rfl
@[simp] theorem exec_matchx (f : WordF) (s : State) : exec (.matchx f) s = execMatchx f s := rfl
@[simp] theorem exec_wsync (f : WordF) (s : State) : exec (.wsync f) s = execWsync f s := rfl
@[simp] theorem exec_redx (f : WordF) (s : State) : exec (.redx f) s = execRedx f s := rfl
@[simp] theorem exec_scanx (f : WordF) (s : State) : exec (.scanx f) s = execScanx f s := rfl
@[simp] theorem exec_reform (b : WordB) (s : State) : exec (.reform b) s = execReform b s := rfl
@[simp] theorem exec_bar (f : WordF) (s : State) : exec (.bar f) s = execBar f s := rfl
@[simp] theorem exec_pref (m : WordM) (s : State) : exec (.pref m) s = execPref m s := rfl
@[simp] theorem exec_ld (m : WordM) (s : State) : exec (.ld m) s = execLd m s := rfl
@[simp] theorem exec_st (m : WordM) (s : State) : exec (.st m) s = execSt m s := rfl
@[simp] theorem exec_atom (m : WordM) (s : State) : exec (.atom m) s = execAtom m s := rfl
@[simp] theorem exec_red (m : WordM) (s : State) : exec (.red m) s = execRed m s := rfl
@[simp] theorem exec_lds (m : WordM) (s : State) : exec (.lds m) s = execLds m s := rfl
@[simp] theorem exec_sts (m : WordM) (s : State) : exec (.sts m) s = execSts m s := rfl
@[simp] theorem exec_atoms (m : WordM) (s : State) : exec (.atoms m) s = execAtoms m s := rfl
@[simp] theorem exec_loadComplete (id : Nat) (s : State) : exec (.loadComplete id) s = execLoadComplete id s := rfl
@[simp] theorem exec_waitv (m : WordM) (s : State) : exec (.waitv m) s = execWaitv m s := rfl
@[simp] theorem exec_waitvReread (place : Nat) (l : Lane) (s : State) :
    exec (.waitvReread place l) s = execWaitvReread place l s := rfl
@[simp] theorem exec_fence (f : WordF) (s : State) : exec (.fence f) s = execFence f s := rfl
@[simp] theorem exec_cctlIinv (m : WordM) (s : State) : exec (.cctlIinv m) s = execCctlIinv m s := rfl
@[simp] theorem exec_cctlL1inv (m : WordM) (s : State) : exec (.cctlL1inv m) s = execCctlL1inv m s := rfl
@[simp] theorem exec_cctlClean (m : WordM) (s : State) : exec (.cctlClean m) s = execCctlClean m s := rfl
@[simp] theorem exec_cctlDemote (m : WordM) (s : State) : exec (.cctlDemote m) s = execCctlDemote m s := rfl
@[simp] theorem exec_retain (f : WordF) (s : State) : exec (.retain f) s = execRetain f s := rfl
@[simp] theorem exec_unpin (f : WordF) (s : State) : exec (.unpin f) s = execUnpin f s := rfl
@[simp] theorem exec_copy (f : WordF) (s : State) : exec (.copy f) s = execCopy f s := rfl
@[simp] theorem exec_copyo (f : WordF) (s : State) : exec (.copyo f) s = execCopyo f s := rfl
@[simp] theorem exec_region (f : WordF) (s : State) : exec (.region f) s = execRegion f s := rfl
@[simp] theorem exec_rgnclr (f : WordF) (s : State) : exec (.rgnclr f) s = execRgnclr f s := rfl
@[simp] theorem exec_touch (f : WordF) (s : State) : exec (.touch f) s = execTouch f s := rfl
@[simp] theorem exec_cseal (f : WordF) (s : State) : exec (.cseal f) s = execCseal f s := rfl
@[simp] theorem exec_cwait (f : WordF) (s : State) : exec (.cwait f) s = execCwait f s := rfl
@[simp] theorem exec_ctest (f : WordF) (s : State) : exec (.ctest f) s = execCtest f s := rfl
@[simp] theorem exec_waitp (f : WordF) (s : State) : exec (.waitp f) s = execWaitp f s := rfl
@[simp] theorem exec_bari (f : WordF) (s : State) : exec (.bari f) s = execBari f s := rfl
@[simp] theorem exec_bara (f : WordF) (s : State) : exec (.bara f) s = execBara f s := rfl
@[simp] theorem exec_barw (f : WordF) (s : State) : exec (.barw f) s = execBarw f s := rfl
@[simp] theorem exec_bart (f : WordF) (s : State) : exec (.bart f) s = execBart f s := rfl
@[simp] theorem exec_barcnt (f : WordF) (s : State) : exec (.barcnt f) s = execBarcnt f s := rfl
@[simp] theorem exec_copyComplete (id : Nat) (s : State) : exec (.copyComplete id) s = execCopyComplete id s := rfl
@[simp] theorem exec_chunkPresent (id chunk : Nat) (s : State) :
    exec (.chunkPresent id chunk) s = execChunkPresent id chunk s := rfl
@[simp] theorem exec_stagingComplete (id : Nat) (s : State) : exec (.stagingComplete id) s = execStagingComplete id s := rfl
@[simp] theorem exec_tld (f : WordF) (s : State) : exec (.tld f) s = execTld f s := rfl
@[simp] theorem exec_tst (f : WordF) (s : State) : exec (.tst f) s = execTst f s := rfl
@[simp] theorem exec_tzero (f : WordF) (s : State) : exec (.tzero f) s = execTzero f s := rfl
@[simp] theorem exec_mma (f : WordF) (s : State) : exec (.mma f) s = execMma f s := rfl
@[simp] theorem exec_mloop (f : WordF) (s : State) : exec (.mloop f) s = execMloop f s := rfl
@[simp] theorem exec_mvloop (f : WordF) (s : State) : exec (.mvloop f) s = execMvloop f s := rfl
@[simp] theorem exec_mgenIdent (f : WordF) (s : State) : exec (.mgenIdent f) s = execMgenIdent f s := rfl
@[simp] theorem exec_mgenOnes (f : WordF) (s : State) : exec (.mgenOnes f) s = execMgenOnes f s := rfl
@[simp] theorem exec_mgenPerm (f : WordF) (s : State) : exec (.mgenPerm f) s = execMgenPerm f s := rfl
@[simp] theorem exec_accz (f : WordF) (s : State) : exec (.accz f) s = execAccz f s := rfl
@[simp] theorem exec_accld (f : WordF) (s : State) : exec (.accld f) s = execAccld f s := rfl
@[simp] theorem exec_accst (f : WordF) (s : State) : exec (.accst f) s = execAccst f s := rfl
@[simp] theorem exec_accrd (f : WordF) (s : State) : exec (.accrd f) s = execAccrd f s := rfl
@[simp] theorem exec_mwait (f : WordF) (s : State) : exec (.mwait f) s = execMwait f s := rfl
@[simp] theorem exec_kStepComplete (core unit : Nat) (s : State) :
    exec (.kStepComplete core unit) s = execKStepComplete core unit s := rfl
@[simp] theorem exec_matrixComplete (core track : Nat) (s : State) :
    exec (.matrixComplete core track) s = execMatrixComplete core track s := rfl
@[simp] theorem exec_spawn (f : WordF) (s : State) : exec (.spawn f) s = execSpawn f s := rfl
@[simp] theorem exec_spawnj (f : WordF) (s : State) : exec (.spawnj f) s = execSpawnj f s := rfl
@[simp] theorem exec_yield (f : WordF) (s : State) : exec (.yield f) s = execYield f s := rfl
@[simp] theorem exec_tsend (f : WordF) (s : State) : exec (.tsend f) s = execTsend f s := rfl
@[simp] theorem exec_svc (f : WordF) (s : State) : exec (.svc f) s = execSvc f s := rfl
@[simp] theorem exec_sret (f : WordF) (s : State) : exec (.sret f) s = execSret f s := rfl
@[simp] theorem exec_errinjReg (f : WordF) (s : State) : exec (.errinjReg f) s = execErrinjReg f s := rfl
@[simp] theorem exec_errinjMem (f : WordF) (s : State) : exec (.errinjMem f) s = execErrinjMem f s := rfl
@[simp] theorem exec_errinjCe (f : WordF) (s : State) : exec (.errinjCe f) s = execErrinjCe f s := rfl
@[simp] theorem exec_errinjSpad (f : WordF) (s : State) : exec (.errinjSpad f) s = execErrinjSpad f s := rfl
@[simp] theorem exec_uisend (f : WordF) (s : State) : exec (.uisend f) s = execUisend f s := rfl
@[simp] theorem exec_uiwait (f : WordF) (s : State) : exec (.uiwait f) s = execUiwait f s := rfl
@[simp] theorem exec_uiret (f : WordF) (s : State) : exec (.uiret f) s = execUiret f s := rfl
@[simp] theorem exec_longComplete (id : Nat) (s : State) : exec (.longComplete id) s = execLongComplete id s := rfl
@[simp] theorem exec_rotation (place : Nat) (s : State) : exec (.rotation place) s = execRotation place s := rfl
@[simp] theorem exec_waitcPriority (core track : Nat) (s : State) :
    exec (.waitcPriority core track) s = execWaitcPriority core track s := rfl
@[simp] theorem exec_spillRestore (place : Nat) (s : State) : exec (.spillRestore place) s = execSpillRestore place s := rfl
@[simp] theorem exec_lineAgeTrigger (core line : Nat) (s : State) :
    exec (.lineAgeTrigger core line) s = execLineAgeTrigger core line s := rfl
@[simp] theorem exec_lineDispatch (core : Nat) (s : State) : exec (.lineDispatch core) s = execLineDispatch core s := rfl
@[simp] theorem exec_warpEnd (place : Nat) (s : State) : exec (.warpEnd place) s = execWarpEnd place s := rfl
@[simp] theorem exec_faultTableAdmit (part : Nat) (s : State) :
    exec (.faultTableAdmit part) s = execFaultTableAdmit part s := rfl
@[simp] theorem exec_faultdoneRetry (part origin : Nat) (oseq : Dword) (s : State) :
    exec (.faultdoneRetry part origin oseq) s = execFaultdoneRetry part origin oseq s := rfl
@[simp] theorem exec_faultdoneDeny (part origin : Nat) (oseq : Dword) (s : State) :
    exec (.faultdoneDeny part origin oseq) s = execFaultdoneDeny part origin oseq s := rfl
@[simp] theorem exec_pageIn (part : Nat) (s : State) : exec (.pageIn part) s = execPageIn part s := rfl
@[simp] theorem exec_tlbinvPage (part ctx vpage : Nat) (s : State) :
    exec (.tlbinvPage part ctx vpage) s = execTlbinvPage part ctx vpage s := rfl
@[simp] theorem exec_tlbinvContext (part ctx : Nat) (s : State) :
    exec (.tlbinvContext part ctx) s = execTlbinvContext part ctx s := rfl
@[simp] theorem exec_tlbinvPartition (part : Nat) (s : State) :
    exec (.tlbinvPartition part) s = execTlbinvPartition part s := rfl
@[simp] theorem exec_tlbinvDone (part : Nat) (s : State) : exec (.tlbinvDone part) s = execTlbinvDone part s := rfl
@[simp] theorem exec_retregWrite (part i : Nat) (v : BitVec 128) (s : State) :
    exec (.retregWrite part i v) s = execRetregWrite part i v s := rfl
@[simp] theorem exec_notify (part q : Nat) (tail : BitVec 16) (s : State) :
    exec (.notify part q tail) s = execNotify part q tail s := rfl
@[simp] theorem exec_candidateRead (part q : Nat) (s : State) :
    exec (.candidateRead part q) s = execCandidateRead part q s := rfl
@[simp] theorem exec_workgroupPlace (part : Nat) (s : State) :
    exec (.workgroupPlace part) s = execWorkgroupPlace part s := rfl
@[simp] theorem exec_recordStart (wg : Nat) (s : State) : exec (.recordStart wg) s = execRecordStart wg s := rfl
@[simp] theorem exec_workgroupEnd (wg : Nat) (s : State) : exec (.workgroupEnd wg) s = execWorkgroupEnd wg s := rfl
@[simp] theorem exec_joinDecrement (launch : Nat) (s : State) :
    exec (.joinDecrement launch) s = execJoinDecrement launch s := rfl
@[simp] theorem exec_fenceCore (part : Nat) (s : State) : exec (.fenceCore part) s = execFenceCore part s := rfl
@[simp] theorem exec_swap (core : Nat) (s : State) : exec (.swap core) s = execSwap core s := rfl
@[simp] theorem exec_sliceEnd (wg : Nat) (s : State) : exec (.sliceEnd wg) s = execSliceEnd wg s := rfl
@[simp] theorem exec_drainTimeout (wg : Nat) (s : State) : exec (.drainTimeout wg) s = execDrainTimeout wg s := rfl
@[simp] theorem exec_workgroupRestore (part : Nat) (s : State) :
    exec (.workgroupRestore part) s = execWorkgroupRestore part s := rfl
@[simp] theorem exec_uiDiversion (place : Nat) (s : State) : exec (.uiDiversion place) s = execUiDiversion place s := rfl
@[simp] theorem exec_taskLanding (part sess : Nat) (s : State) :
    exec (.taskLanding part sess) s = execTaskLanding part sess s := rfl
@[simp] theorem exec_sessionEstablish (part sess : Nat) (tx rx : Bool) (keyslot peerPart peerDev peerSess port : Nat) (s : State) :
    exec (.sessionEstablish part sess tx rx keyslot peerPart peerDev peerSess port) s = execSessionEstablish part sess tx rx keyslot peerPart peerDev peerSess port s := rfl
@[simp] theorem exec_completionTimeout (port : Nat) (s : State) :
    exec (.completionTimeout port) s = execCompletionTimeout port s := rfl
@[simp] theorem exec_expanderLostNotice (place : Nat) (s : State) :
    exec (.expanderLostNotice place) s = execExpanderLostNotice place s := rfl
@[simp] theorem exec_portClr (part port : Nat) (s : State) : exec (.portClr part port) s = execPortClr part port s := rfl
@[simp] theorem exec_snpdata (q : HostSnoop) (s : State) : exec (.snpdata q) s = execSnpdata q s := rfl
@[simp] theorem exec_snpinv (take : HostTake) (s : State) :
    exec (.snpinv take) s = execSnpinv take s := rfl
@[simp] theorem exec_snpcur (q : HostSnoop) (s : State) : exec (.snpcur q) s = execSnpcur q s := rfl
@[simp] theorem exec_birsp (line : Nat) (data : Option (BitVec 512)) (s : State) :
    exec (.birsp line data) s = execBirsp line data s := rfl
@[simp] theorem exec_extentAccepted (part i : Nat) (accept : Bool) (s : State) :
    exec (.extentAccepted part i accept) s = execExtentAccepted part i accept s := rfl
@[simp] theorem exec_extentReleased (part i : Nat) (s : State) :
    exec (.extentReleased part i) s = execExtentReleased part i s := rfl
@[simp] theorem exec_checkpointSave (part : Nat) (remote : Bool) (dest : Nat) (s : State) :
    exec (.checkpointSave part remote dest) s = execCheckpointSave part remote dest s := rfl
@[simp] theorem exec_checkpointRestore (part : Nat) (remote : Bool) (dest : Nat) (s : State) :
    exec (.checkpointRestore part remote dest) s = execCheckpointRestore part remote dest s := rfl
@[simp] theorem exec_checkpointResume (part : Nat) (s : State) :
    exec (.checkpointResume part) s = execCheckpointResume part s := rfl
@[simp] theorem exec_checkpointUnit (part : Nat) (s : State) :
    exec (.checkpointUnit part) s = execCheckpointUnit part s := rfl
@[simp] theorem exec_partset (q : MgmtTo) (d : Desc) (scrub : Bool) (s : State) :
    exec (.partset q d scrub) s = execPartset q d scrub s := rfl
@[simp] theorem exec_keyload (part slot key : Nat) (s : State) :
    exec (.keyload part slot key) s = execKeyload part slot key s := rfl
@[simp] theorem exec_keykill (part slot : Nat) (s : State) : exec (.keykill part slot) s = execKeykill part slot s := rfl
@[simp] theorem exec_keykillAck (slot engine : Nat) (s : State) :
    exec (.keykillAck slot engine) s = execKeykillAck slot engine s := rfl
@[simp] theorem exec_ctxprot (part ctx slot : Nat) (s : State) :
    exec (.ctxprot part ctx slot) s = execCtxprot part ctx slot s := rfl
@[simp] theorem exec_ctxunprot (part ctx : Nat) (s : State) : exec (.ctxunprot part ctx) s = execCtxunprot part ctx s := rfl
@[simp] theorem exec_dbgunlock (part : Nat) (mask : BitVec 16) (token : Nat) (s : State) :
    exec (.dbgunlock part mask token) s = execDbgunlock part mask token s := rfl
@[simp] theorem exec_attest (part : Nat) (s : State) : exec (.attest part) s = execAttest part s := rfl
@[simp] theorem exec_pcmdUnknown (part cmd : Nat) (s : State) :
    exec (.pcmdUnknown part cmd) s = execPcmdUnknown part cmd s := rfl
@[simp] theorem exec_scrubGranule (channel : Nat) (s : State) :
    exec (.scrubGranule channel) s = execScrubGranule channel s := rfl
@[simp] theorem exec_open (share nonce signature : Nat) (s : State) :
    exec (.open share nonce signature) s = execOpen share nonce signature s := rfl
@[simp] theorem exec_cread (q : Auth) (addr len : Nat) (s : State) :
    exec (.cread q addr len) s = execCread q addr len s := rfl
@[simp] theorem exec_cwrite (q : Auth) (addr : Nat) (data : Dword) (s : State) :
    exec (.cwrite q addr data) s = execCwrite q addr data s := rfl
@[simp] theorem exec_functionLevelReset (part : Nat) (s : State) :
    exec (.functionLevelReset part) s = execFunctionLevelReset part s := rfl
@[simp] theorem exec_fatal (unit syndrome : Nat) (s : State) :
    exec (.fatal unit syndrome) s = execFatal unit syndrome s := rfl
@[simp] theorem exec_clockGate (core : Nat) (s : State) : exec (.clockGate core) s = execClockGate core s := rfl
@[simp] theorem exec_activate (pch bank row : Nat) (s : State) :
    exec (.activate pch bank row) s = execActivate pch bank row s := rfl
@[simp] theorem exec_directedRefresh (pch bank row : Nat) (s : State) :
    exec (.directedRefresh pch bank row) s = execDirectedRefresh pch bank row s := rfl
@[simp] theorem exec_refreshWindowWrap (pch bank : Nat) (s : State) :
    exec (.refreshWindowWrap pch bank) s = execRefreshWindowWrap pch bank s := rfl
@[simp] theorem exec_sparingStart (pch src : Nat) (s : State) :
    exec (.sparingStart pch src) s = execSparingStart pch src s := rfl
@[simp] theorem exec_sparingRowCopy (pch : Nat) (s : State) : exec (.sparingRowCopy pch) s = execSparingRowCopy pch s := rfl
@[simp] theorem exec_remapEntryWrite (stack i : Nat) (v : Word) (s : State) :
    exec (.remapEntryWrite stack i v) s = execRemapEntryWrite stack i v s := rfl
@[simp] theorem exec_tokenRefill (controller : Nat) (s : State) :
    exec (.tokenRefill controller) s = execTokenRefill controller s := rfl
@[simp] theorem exec_lodgeStart (part j : Nat) (s : State) : exec (.lodgeStart part j) s = execLodgeStart part j s := rfl
@[simp] theorem exec_lodgeQueueNotify (part j : Nat) (tail : BitVec 16) (s : State) :
    exec (.lodgeQueueNotify part j tail) s = execLodgeQueueNotify part j tail s := rfl
@[simp] theorem exec_lodgeRecordWrite (part : Nat) (errorQueue : Bool) (s : State) :
    exec (.lodgeRecordWrite part errorQueue) s = execLodgeRecordWrite part errorQueue s := rfl
@[simp] theorem exec_registerWrite (part off size : Nat) (v : BitVec 128) (s : State) :
    exec (.registerWrite part off size v) s = execRegisterWrite part off size v s := rfl
@[simp] theorem exec_writeAcknowledged (id : Nat) (s : State) :
    exec (.writeAcknowledged id) s = execWriteAcknowledged id s := rfl
@[simp] theorem exec_atomicComplete (id : Nat) (s : State) : exec (.atomicComplete id) s = execAtomicComplete id s := rfl
@[simp] theorem exec_l2rctlWrite (part : Nat) (v : Dword) (s : State) :
    exec (.l2rctlWrite part v) s = execL2rctlWrite part v s := rfl
@[simp] theorem exec_hostInterruptWrite (req : Requester) (ctx off size : Nat) (data : BitVec 128) (s : State) :
    exec (.hostInterruptWrite req ctx off size data) s = execHostInterruptWrite req ctx off size data s := rfl
@[simp] theorem exec_fabricUint (port : Nat) (m : Message) (s : State) :
    exec (.fabricUint port m) s = execFabricUint port m s := rfl
@[simp] theorem exec_fabricTask (port : Nat) (m : Message) (s : State) :
    exec (.fabricTask port m) s = execFabricTask port m s := rfl
@[simp] theorem exec_portLoss (port cause : Nat) (s : State) :
    exec (.portLoss port cause) s = execPortLoss port cause s := rfl
@[simp] theorem exec_linkTrain (port width rate : Nat) (s : State) :
    exec (.linkTrain port width rate) s = execLinkTrain port width rate s := rfl
@[simp] theorem exec_hostMemRead (req : Requester) (dpa len : Nat) (s : State) :
    exec (.hostMemRead req dpa len) s = execHostMemRead req dpa len s := rfl
@[simp] theorem exec_hostMemWrite (req : Requester) (dpa : Nat) (data : List Byte) (s : State) :
    exec (.hostMemWrite req dpa data) s = execHostMemWrite req dpa data s := rfl
@[simp] theorem exec_hostAtomicop (req : Requester) (dpa : Nat) (wide : Bool) (op : AtomicOp) (s : State) :
    exec (.hostAtomicop req dpa wide op) s = execHostAtomicop req dpa wide op s := rfl
@[simp] theorem exec_extentOffer (part i : Nat) (s : State) : exec (.extentOffer part i) s = execExtentOffer part i s := rfl
@[simp] theorem exec_extentRelease (part i : Nat) (s : State) :
    exec (.extentRelease part i) s = execExtentRelease part i s := rfl
@[simp] theorem exec_patrolRequest (q : Auth) (part cmd : Nat) (arg : List Byte) (d : Desc) (scrub : Bool) (s : State) :
    exec (.patrolRequest q part cmd arg d scrub) s = execPatrolRequest q part cmd arg d scrub s := rfl
@[simp] theorem exec_dbgmem (q : Auth) (part : Nat) (control : Bool) (addr : Nat) (op : DbgOp) (s : State) :
    exec (.dbgmem q part control addr op) s = execDbgmem q part control addr op s := rfl
@[simp] theorem exec_mgmtReset (q : Auth) (cold : Bool) (s : State) :
    exec (.mgmtReset q cold) s = execMgmtReset q cold s := rfl
@[simp] theorem exec_bootstage (ok : Bool) (unit : Nat) (s : State) :
    exec (.bootstage ok unit) s = execBootstage ok unit s := rfl
@[simp] theorem exec_thermal (temp power : Nat) (s : State) : exec (.thermal temp power) s = execThermal temp power s := rfl
@[simp] theorem exec_issueAtLend (s : State) : exec .issueAtLend s = execIssueAtLend s := rfl
@[simp] theorem exec_mctpControl (s : State) : exec .mctpControl s = execMctpControl s := rfl
@[simp] theorem exec_coldReset (s : State) : exec .coldReset s = execColdReset s := rfl
@[simp] theorem exec_warmReset (s : State) : exec .warmReset s = execWarmReset s := rfl

end Sys2Proof.Machine
end

