-- ==== Sys2Proof/Laws/State.lean ====
section
/-! SUPPORT. What the updates of a state and of a warp leave alone, one lemma for each field and update; what a map holds after an
update. -/

namespace Sys2Proof.Machine

open Sys2Proof

/-! endIssue. -/

@[simp] theorem endIssue_warps (s : State) : (endIssue s).warps = s.warps := rfl
@[simp] theorem endIssue_wgs (s : State) : (endIssue s).wgs = s.wgs := rfl
@[simp] theorem endIssue_launches (s : State) : (endIssue s).launches = s.launches := rfl
@[simp] theorem endIssue_cores (s : State) : (endIssue s).cores = s.cores := rfl
@[simp] theorem endIssue_tracks (s : State) : (endIssue s).tracks = s.tracks := rfl
@[simp] theorem endIssue_lastK (s : State) : (endIssue s).lastK = s.lastK := rfl
@[simp] theorem endIssue_xfers (s : State) : (endIssue s).xfers = s.xfers := rfl
@[simp] theorem endIssue_parts (s : State) : (endIssue s).parts = s.parts := rfl
@[simp] theorem endIssue_mem (s : State) : (endIssue s).mem = s.mem := rfl
@[simp] theorem endIssue_poison (s : State) : (endIssue s).poison = s.poison := rfl
@[simp] theorem endIssue_far (s : State) : (endIssue s).far = s.far := rfl
@[simp] theorem endIssue_scrub (s : State) : (endIssue s).scrub = s.scrub := rfl
@[simp] theorem endIssue_l2 (s : State) : (endIssue s).l2 = s.l2 := rfl
@[simp] theorem endIssue_tlb (s : State) : (endIssue s).tlb = s.tlb := rfl
@[simp] theorem endIssue_walks (s : State) : (endIssue s).walks = s.walks := rfl
@[simp] theorem endIssue_pend (s : State) : (endIssue s).pend = s.pend := rfl
@[simp] theorem endIssue_pevents (s : State) : (endIssue s).pevents = s.pevents := rfl
@[simp] theorem endIssue_oseq (s : State) : (endIssue s).oseq = s.oseq := rfl
@[simp] theorem endIssue_ports (s : State) : (endIssue s).ports = s.ports := rfl
@[simp] theorem endIssue_used (s : State) : (endIssue s).used = s.used := rfl
@[simp] theorem endIssue_notices (s : State) : (endIssue s).notices = s.notices := rfl
@[simp] theorem endIssue_snoop (s : State) : (endIssue s).snoop = s.snoop := rfl
@[simp] theorem endIssue_bisnp (s : State) : (endIssue s).bisnp = s.bisnp := rfl
@[simp] theorem endIssue_outbox (s : State) : (endIssue s).outbox = s.outbox := rfl
@[simp] theorem endIssue_tasks (s : State) : (endIssue s).tasks = s.tasks := rfl
@[simp] theorem endIssue_uisys (s : State) : (endIssue s).uisys = s.uisys := rfl
@[simp] theorem endIssue_fuse (s : State) : (endIssue s).fuse = s.fuse := rfl
@[simp] theorem endIssue_boot (s : State) : (endIssue s).boot = s.boot := rfl
@[simp] theorem endIssue_bootFailed (s : State) : (endIssue s).bootFailed = s.bootFailed := rfl
@[simp] theorem endIssue_bootOff (s : State) : (endIssue s).bootOff = s.bootOff := rfl
@[simp] theorem endIssue_fatal (s : State) : (endIssue s).fatal = s.fatal := rfl
@[simp] theorem endIssue_cairn (s : State) : (endIssue s).cairn = s.cairn := rfl
@[simp] theorem endIssue_cairnwp (s : State) : (endIssue s).cairnwp = s.cairnwp := rfl
@[simp] theorem endIssue_dctl (s : State) : (endIssue s).dctl = s.dctl := rfl
@[simp] theorem endIssue_rows (s : State) : (endIssue s).rows = s.rows := rfl
@[simp] theorem endIssue_refreshing (s : State) : (endIssue s).refreshing = s.refreshing := rfl
@[simp] theorem endIssue_cerr (s : State) : (endIssue s).cerr = s.cerr := rfl
@[simp] theorem endIssue_uerr (s : State) : (endIssue s).uerr = s.uerr := rfl
@[simp] theorem endIssue_spared (s : State) : (endIssue s).spared = s.spared := rfl
@[simp] theorem endIssue_patrol (s : State) : (endIssue s).patrol = s.patrol := rfl
@[simp] theorem endIssue_lodgeRun (s : State) : (endIssue s).lodgeRun = s.lodgeRun := rfl
@[simp] theorem endIssue_lodgeCycle (s : State) : (endIssue s).lodgeCycle = s.lodgeCycle := rfl
@[simp] theorem endIssue_thermAt (s : State) : (endIssue s).thermAt = s.thermAt := rfl
@[simp] theorem endIssue_agenda (s : State) : (endIssue s).agenda = s.agenda := rfl
@[simp] theorem endIssue_free (s : State) : (endIssue s).free = s.free := rfl
@[simp] theorem endIssue_nextId (s : State) : (endIssue s).nextId = s.nextId := rfl
@[simp] theorem endIssue_now (s : State) : (endIssue s).now = s.now := rfl

/-! setWarp. -/

@[simp] theorem setWarp_wgs (s : State) (pl : Nat) (w : Warp) : (setWarp s pl w).wgs = s.wgs := rfl
@[simp] theorem setWarp_launches (s : State) (pl : Nat) (w : Warp) : (setWarp s pl w).launches = s.launches := rfl
@[simp] theorem setWarp_cores (s : State) (pl : Nat) (w : Warp) : (setWarp s pl w).cores = s.cores := rfl
@[simp] theorem setWarp_tracks (s : State) (pl : Nat) (w : Warp) : (setWarp s pl w).tracks = s.tracks := rfl
@[simp] theorem setWarp_lastK (s : State) (pl : Nat) (w : Warp) : (setWarp s pl w).lastK = s.lastK := rfl
@[simp] theorem setWarp_xfers (s : State) (pl : Nat) (w : Warp) : (setWarp s pl w).xfers = s.xfers := rfl
@[simp] theorem setWarp_parts (s : State) (pl : Nat) (w : Warp) : (setWarp s pl w).parts = s.parts := rfl
@[simp] theorem setWarp_mem (s : State) (pl : Nat) (w : Warp) : (setWarp s pl w).mem = s.mem := rfl
@[simp] theorem setWarp_poison (s : State) (pl : Nat) (w : Warp) : (setWarp s pl w).poison = s.poison := rfl
@[simp] theorem setWarp_far (s : State) (pl : Nat) (w : Warp) : (setWarp s pl w).far = s.far := rfl
@[simp] theorem setWarp_scrub (s : State) (pl : Nat) (w : Warp) : (setWarp s pl w).scrub = s.scrub := rfl
@[simp] theorem setWarp_l2 (s : State) (pl : Nat) (w : Warp) : (setWarp s pl w).l2 = s.l2 := rfl
@[simp] theorem setWarp_tlb (s : State) (pl : Nat) (w : Warp) : (setWarp s pl w).tlb = s.tlb := rfl
@[simp] theorem setWarp_walks (s : State) (pl : Nat) (w : Warp) : (setWarp s pl w).walks = s.walks := rfl
@[simp] theorem setWarp_pend (s : State) (pl : Nat) (w : Warp) : (setWarp s pl w).pend = s.pend := rfl
@[simp] theorem setWarp_pevents (s : State) (pl : Nat) (w : Warp) : (setWarp s pl w).pevents = s.pevents := rfl
@[simp] theorem setWarp_oseq (s : State) (pl : Nat) (w : Warp) : (setWarp s pl w).oseq = s.oseq := rfl
@[simp] theorem setWarp_ports (s : State) (pl : Nat) (w : Warp) : (setWarp s pl w).ports = s.ports := rfl
@[simp] theorem setWarp_used (s : State) (pl : Nat) (w : Warp) : (setWarp s pl w).used = s.used := rfl
@[simp] theorem setWarp_notices (s : State) (pl : Nat) (w : Warp) : (setWarp s pl w).notices = s.notices := rfl
@[simp] theorem setWarp_snoop (s : State) (pl : Nat) (w : Warp) : (setWarp s pl w).snoop = s.snoop := rfl
@[simp] theorem setWarp_bisnp (s : State) (pl : Nat) (w : Warp) : (setWarp s pl w).bisnp = s.bisnp := rfl
@[simp] theorem setWarp_outbox (s : State) (pl : Nat) (w : Warp) : (setWarp s pl w).outbox = s.outbox := rfl
@[simp] theorem setWarp_tasks (s : State) (pl : Nat) (w : Warp) : (setWarp s pl w).tasks = s.tasks := rfl
@[simp] theorem setWarp_uisys (s : State) (pl : Nat) (w : Warp) : (setWarp s pl w).uisys = s.uisys := rfl
@[simp] theorem setWarp_fuse (s : State) (pl : Nat) (w : Warp) : (setWarp s pl w).fuse = s.fuse := rfl
@[simp] theorem setWarp_boot (s : State) (pl : Nat) (w : Warp) : (setWarp s pl w).boot = s.boot := rfl
@[simp] theorem setWarp_bootFailed (s : State) (pl : Nat) (w : Warp) : (setWarp s pl w).bootFailed = s.bootFailed := rfl
@[simp] theorem setWarp_bootOff (s : State) (pl : Nat) (w : Warp) : (setWarp s pl w).bootOff = s.bootOff := rfl
@[simp] theorem setWarp_fatal (s : State) (pl : Nat) (w : Warp) : (setWarp s pl w).fatal = s.fatal := rfl
@[simp] theorem setWarp_cairn (s : State) (pl : Nat) (w : Warp) : (setWarp s pl w).cairn = s.cairn := rfl
@[simp] theorem setWarp_cairnwp (s : State) (pl : Nat) (w : Warp) : (setWarp s pl w).cairnwp = s.cairnwp := rfl
@[simp] theorem setWarp_dctl (s : State) (pl : Nat) (w : Warp) : (setWarp s pl w).dctl = s.dctl := rfl
@[simp] theorem setWarp_rows (s : State) (pl : Nat) (w : Warp) : (setWarp s pl w).rows = s.rows := rfl
@[simp] theorem setWarp_refreshing (s : State) (pl : Nat) (w : Warp) : (setWarp s pl w).refreshing = s.refreshing := rfl
@[simp] theorem setWarp_cerr (s : State) (pl : Nat) (w : Warp) : (setWarp s pl w).cerr = s.cerr := rfl
@[simp] theorem setWarp_uerr (s : State) (pl : Nat) (w : Warp) : (setWarp s pl w).uerr = s.uerr := rfl
@[simp] theorem setWarp_spared (s : State) (pl : Nat) (w : Warp) : (setWarp s pl w).spared = s.spared := rfl
@[simp] theorem setWarp_patrol (s : State) (pl : Nat) (w : Warp) : (setWarp s pl w).patrol = s.patrol := rfl
@[simp] theorem setWarp_lodgeRun (s : State) (pl : Nat) (w : Warp) : (setWarp s pl w).lodgeRun = s.lodgeRun := rfl
@[simp] theorem setWarp_lodgeCycle (s : State) (pl : Nat) (w : Warp) : (setWarp s pl w).lodgeCycle = s.lodgeCycle := rfl
@[simp] theorem setWarp_thermAt (s : State) (pl : Nat) (w : Warp) : (setWarp s pl w).thermAt = s.thermAt := rfl
@[simp] theorem setWarp_agenda (s : State) (pl : Nat) (w : Warp) : (setWarp s pl w).agenda = s.agenda := rfl
@[simp] theorem setWarp_cur (s : State) (pl : Nat) (w : Warp) : (setWarp s pl w).cur = s.cur := rfl
@[simp] theorem setWarp_free (s : State) (pl : Nat) (w : Warp) : (setWarp s pl w).free = s.free := rfl
@[simp] theorem setWarp_nextId (s : State) (pl : Nat) (w : Warp) : (setWarp s pl w).nextId = s.nextId := rfl
@[simp] theorem setWarp_now (s : State) (pl : Nat) (w : Warp) : (setWarp s pl w).now = s.now := rfl

/-! modWarp. -/

@[simp] theorem modWarp_wgs (s : State) (pl : Nat) (f : Warp → Warp) : (modWarp s pl f).wgs = s.wgs := rfl
@[simp] theorem modWarp_launches (s : State) (pl : Nat) (f : Warp → Warp) : (modWarp s pl f).launches = s.launches := rfl
@[simp] theorem modWarp_cores (s : State) (pl : Nat) (f : Warp → Warp) : (modWarp s pl f).cores = s.cores := rfl
@[simp] theorem modWarp_tracks (s : State) (pl : Nat) (f : Warp → Warp) : (modWarp s pl f).tracks = s.tracks := rfl
@[simp] theorem modWarp_lastK (s : State) (pl : Nat) (f : Warp → Warp) : (modWarp s pl f).lastK = s.lastK := rfl
@[simp] theorem modWarp_xfers (s : State) (pl : Nat) (f : Warp → Warp) : (modWarp s pl f).xfers = s.xfers := rfl
@[simp] theorem modWarp_parts (s : State) (pl : Nat) (f : Warp → Warp) : (modWarp s pl f).parts = s.parts := rfl
@[simp] theorem modWarp_mem (s : State) (pl : Nat) (f : Warp → Warp) : (modWarp s pl f).mem = s.mem := rfl
@[simp] theorem modWarp_poison (s : State) (pl : Nat) (f : Warp → Warp) : (modWarp s pl f).poison = s.poison := rfl
@[simp] theorem modWarp_far (s : State) (pl : Nat) (f : Warp → Warp) : (modWarp s pl f).far = s.far := rfl
@[simp] theorem modWarp_scrub (s : State) (pl : Nat) (f : Warp → Warp) : (modWarp s pl f).scrub = s.scrub := rfl
@[simp] theorem modWarp_l2 (s : State) (pl : Nat) (f : Warp → Warp) : (modWarp s pl f).l2 = s.l2 := rfl
@[simp] theorem modWarp_tlb (s : State) (pl : Nat) (f : Warp → Warp) : (modWarp s pl f).tlb = s.tlb := rfl
@[simp] theorem modWarp_walks (s : State) (pl : Nat) (f : Warp → Warp) : (modWarp s pl f).walks = s.walks := rfl
@[simp] theorem modWarp_pend (s : State) (pl : Nat) (f : Warp → Warp) : (modWarp s pl f).pend = s.pend := rfl
@[simp] theorem modWarp_pevents (s : State) (pl : Nat) (f : Warp → Warp) : (modWarp s pl f).pevents = s.pevents := rfl
@[simp] theorem modWarp_oseq (s : State) (pl : Nat) (f : Warp → Warp) : (modWarp s pl f).oseq = s.oseq := rfl
@[simp] theorem modWarp_ports (s : State) (pl : Nat) (f : Warp → Warp) : (modWarp s pl f).ports = s.ports := rfl
@[simp] theorem modWarp_used (s : State) (pl : Nat) (f : Warp → Warp) : (modWarp s pl f).used = s.used := rfl
@[simp] theorem modWarp_notices (s : State) (pl : Nat) (f : Warp → Warp) : (modWarp s pl f).notices = s.notices := rfl
@[simp] theorem modWarp_snoop (s : State) (pl : Nat) (f : Warp → Warp) : (modWarp s pl f).snoop = s.snoop := rfl
@[simp] theorem modWarp_bisnp (s : State) (pl : Nat) (f : Warp → Warp) : (modWarp s pl f).bisnp = s.bisnp := rfl
@[simp] theorem modWarp_outbox (s : State) (pl : Nat) (f : Warp → Warp) : (modWarp s pl f).outbox = s.outbox := rfl
@[simp] theorem modWarp_tasks (s : State) (pl : Nat) (f : Warp → Warp) : (modWarp s pl f).tasks = s.tasks := rfl
@[simp] theorem modWarp_uisys (s : State) (pl : Nat) (f : Warp → Warp) : (modWarp s pl f).uisys = s.uisys := rfl
@[simp] theorem modWarp_fuse (s : State) (pl : Nat) (f : Warp → Warp) : (modWarp s pl f).fuse = s.fuse := rfl
@[simp] theorem modWarp_boot (s : State) (pl : Nat) (f : Warp → Warp) : (modWarp s pl f).boot = s.boot := rfl
@[simp] theorem modWarp_bootFailed (s : State) (pl : Nat) (f : Warp → Warp) : (modWarp s pl f).bootFailed = s.bootFailed := rfl
@[simp] theorem modWarp_bootOff (s : State) (pl : Nat) (f : Warp → Warp) : (modWarp s pl f).bootOff = s.bootOff := rfl
@[simp] theorem modWarp_fatal (s : State) (pl : Nat) (f : Warp → Warp) : (modWarp s pl f).fatal = s.fatal := rfl
@[simp] theorem modWarp_cairn (s : State) (pl : Nat) (f : Warp → Warp) : (modWarp s pl f).cairn = s.cairn := rfl
@[simp] theorem modWarp_cairnwp (s : State) (pl : Nat) (f : Warp → Warp) : (modWarp s pl f).cairnwp = s.cairnwp := rfl
@[simp] theorem modWarp_dctl (s : State) (pl : Nat) (f : Warp → Warp) : (modWarp s pl f).dctl = s.dctl := rfl
@[simp] theorem modWarp_rows (s : State) (pl : Nat) (f : Warp → Warp) : (modWarp s pl f).rows = s.rows := rfl
@[simp] theorem modWarp_refreshing (s : State) (pl : Nat) (f : Warp → Warp) : (modWarp s pl f).refreshing = s.refreshing := rfl
@[simp] theorem modWarp_cerr (s : State) (pl : Nat) (f : Warp → Warp) : (modWarp s pl f).cerr = s.cerr := rfl
@[simp] theorem modWarp_uerr (s : State) (pl : Nat) (f : Warp → Warp) : (modWarp s pl f).uerr = s.uerr := rfl
@[simp] theorem modWarp_spared (s : State) (pl : Nat) (f : Warp → Warp) : (modWarp s pl f).spared = s.spared := rfl
@[simp] theorem modWarp_patrol (s : State) (pl : Nat) (f : Warp → Warp) : (modWarp s pl f).patrol = s.patrol := rfl
@[simp] theorem modWarp_lodgeRun (s : State) (pl : Nat) (f : Warp → Warp) : (modWarp s pl f).lodgeRun = s.lodgeRun := rfl
@[simp] theorem modWarp_lodgeCycle (s : State) (pl : Nat) (f : Warp → Warp) : (modWarp s pl f).lodgeCycle = s.lodgeCycle := rfl
@[simp] theorem modWarp_thermAt (s : State) (pl : Nat) (f : Warp → Warp) : (modWarp s pl f).thermAt = s.thermAt := rfl
@[simp] theorem modWarp_agenda (s : State) (pl : Nat) (f : Warp → Warp) : (modWarp s pl f).agenda = s.agenda := rfl
@[simp] theorem modWarp_cur (s : State) (pl : Nat) (f : Warp → Warp) : (modWarp s pl f).cur = s.cur := rfl
@[simp] theorem modWarp_free (s : State) (pl : Nat) (f : Warp → Warp) : (modWarp s pl f).free = s.free := rfl
@[simp] theorem modWarp_nextId (s : State) (pl : Nat) (f : Warp → Warp) : (modWarp s pl f).nextId = s.nextId := rfl
@[simp] theorem modWarp_now (s : State) (pl : Nat) (f : Warp → Warp) : (modWarp s pl f).now = s.now := rfl

/-! modWg. -/

@[simp] theorem modWg_warps (s : State) (g : Nat) (f : Wg → Wg) : (modWg s g f).warps = s.warps := rfl
@[simp] theorem modWg_launches (s : State) (g : Nat) (f : Wg → Wg) : (modWg s g f).launches = s.launches := rfl
@[simp] theorem modWg_cores (s : State) (g : Nat) (f : Wg → Wg) : (modWg s g f).cores = s.cores := rfl
@[simp] theorem modWg_tracks (s : State) (g : Nat) (f : Wg → Wg) : (modWg s g f).tracks = s.tracks := rfl
@[simp] theorem modWg_lastK (s : State) (g : Nat) (f : Wg → Wg) : (modWg s g f).lastK = s.lastK := rfl
@[simp] theorem modWg_xfers (s : State) (g : Nat) (f : Wg → Wg) : (modWg s g f).xfers = s.xfers := rfl
@[simp] theorem modWg_parts (s : State) (g : Nat) (f : Wg → Wg) : (modWg s g f).parts = s.parts := rfl
@[simp] theorem modWg_mem (s : State) (g : Nat) (f : Wg → Wg) : (modWg s g f).mem = s.mem := rfl
@[simp] theorem modWg_poison (s : State) (g : Nat) (f : Wg → Wg) : (modWg s g f).poison = s.poison := rfl
@[simp] theorem modWg_far (s : State) (g : Nat) (f : Wg → Wg) : (modWg s g f).far = s.far := rfl
@[simp] theorem modWg_scrub (s : State) (g : Nat) (f : Wg → Wg) : (modWg s g f).scrub = s.scrub := rfl
@[simp] theorem modWg_l2 (s : State) (g : Nat) (f : Wg → Wg) : (modWg s g f).l2 = s.l2 := rfl
@[simp] theorem modWg_tlb (s : State) (g : Nat) (f : Wg → Wg) : (modWg s g f).tlb = s.tlb := rfl
@[simp] theorem modWg_walks (s : State) (g : Nat) (f : Wg → Wg) : (modWg s g f).walks = s.walks := rfl
@[simp] theorem modWg_pend (s : State) (g : Nat) (f : Wg → Wg) : (modWg s g f).pend = s.pend := rfl
@[simp] theorem modWg_pevents (s : State) (g : Nat) (f : Wg → Wg) : (modWg s g f).pevents = s.pevents := rfl
@[simp] theorem modWg_oseq (s : State) (g : Nat) (f : Wg → Wg) : (modWg s g f).oseq = s.oseq := rfl
@[simp] theorem modWg_ports (s : State) (g : Nat) (f : Wg → Wg) : (modWg s g f).ports = s.ports := rfl
@[simp] theorem modWg_used (s : State) (g : Nat) (f : Wg → Wg) : (modWg s g f).used = s.used := rfl
@[simp] theorem modWg_notices (s : State) (g : Nat) (f : Wg → Wg) : (modWg s g f).notices = s.notices := rfl
@[simp] theorem modWg_snoop (s : State) (g : Nat) (f : Wg → Wg) : (modWg s g f).snoop = s.snoop := rfl
@[simp] theorem modWg_bisnp (s : State) (g : Nat) (f : Wg → Wg) : (modWg s g f).bisnp = s.bisnp := rfl
@[simp] theorem modWg_outbox (s : State) (g : Nat) (f : Wg → Wg) : (modWg s g f).outbox = s.outbox := rfl
@[simp] theorem modWg_tasks (s : State) (g : Nat) (f : Wg → Wg) : (modWg s g f).tasks = s.tasks := rfl
@[simp] theorem modWg_uisys (s : State) (g : Nat) (f : Wg → Wg) : (modWg s g f).uisys = s.uisys := rfl
@[simp] theorem modWg_fuse (s : State) (g : Nat) (f : Wg → Wg) : (modWg s g f).fuse = s.fuse := rfl
@[simp] theorem modWg_boot (s : State) (g : Nat) (f : Wg → Wg) : (modWg s g f).boot = s.boot := rfl
@[simp] theorem modWg_bootFailed (s : State) (g : Nat) (f : Wg → Wg) : (modWg s g f).bootFailed = s.bootFailed := rfl
@[simp] theorem modWg_bootOff (s : State) (g : Nat) (f : Wg → Wg) : (modWg s g f).bootOff = s.bootOff := rfl
@[simp] theorem modWg_fatal (s : State) (g : Nat) (f : Wg → Wg) : (modWg s g f).fatal = s.fatal := rfl
@[simp] theorem modWg_cairn (s : State) (g : Nat) (f : Wg → Wg) : (modWg s g f).cairn = s.cairn := rfl
@[simp] theorem modWg_cairnwp (s : State) (g : Nat) (f : Wg → Wg) : (modWg s g f).cairnwp = s.cairnwp := rfl
@[simp] theorem modWg_dctl (s : State) (g : Nat) (f : Wg → Wg) : (modWg s g f).dctl = s.dctl := rfl
@[simp] theorem modWg_rows (s : State) (g : Nat) (f : Wg → Wg) : (modWg s g f).rows = s.rows := rfl
@[simp] theorem modWg_refreshing (s : State) (g : Nat) (f : Wg → Wg) : (modWg s g f).refreshing = s.refreshing := rfl
@[simp] theorem modWg_cerr (s : State) (g : Nat) (f : Wg → Wg) : (modWg s g f).cerr = s.cerr := rfl
@[simp] theorem modWg_uerr (s : State) (g : Nat) (f : Wg → Wg) : (modWg s g f).uerr = s.uerr := rfl
@[simp] theorem modWg_spared (s : State) (g : Nat) (f : Wg → Wg) : (modWg s g f).spared = s.spared := rfl
@[simp] theorem modWg_patrol (s : State) (g : Nat) (f : Wg → Wg) : (modWg s g f).patrol = s.patrol := rfl
@[simp] theorem modWg_lodgeRun (s : State) (g : Nat) (f : Wg → Wg) : (modWg s g f).lodgeRun = s.lodgeRun := rfl
@[simp] theorem modWg_lodgeCycle (s : State) (g : Nat) (f : Wg → Wg) : (modWg s g f).lodgeCycle = s.lodgeCycle := rfl
@[simp] theorem modWg_thermAt (s : State) (g : Nat) (f : Wg → Wg) : (modWg s g f).thermAt = s.thermAt := rfl
@[simp] theorem modWg_agenda (s : State) (g : Nat) (f : Wg → Wg) : (modWg s g f).agenda = s.agenda := rfl
@[simp] theorem modWg_cur (s : State) (g : Nat) (f : Wg → Wg) : (modWg s g f).cur = s.cur := rfl
@[simp] theorem modWg_free (s : State) (g : Nat) (f : Wg → Wg) : (modWg s g f).free = s.free := rfl
@[simp] theorem modWg_nextId (s : State) (g : Nat) (f : Wg → Wg) : (modWg s g f).nextId = s.nextId := rfl
@[simp] theorem modWg_now (s : State) (g : Nat) (f : Wg → Wg) : (modWg s g f).now = s.now := rfl

/-! modPart. -/

@[simp] theorem modPart_warps (s : State) (p : Nat) (f : Part → Part) : (modPart s p f).warps = s.warps := rfl
@[simp] theorem modPart_wgs (s : State) (p : Nat) (f : Part → Part) : (modPart s p f).wgs = s.wgs := rfl
@[simp] theorem modPart_launches (s : State) (p : Nat) (f : Part → Part) : (modPart s p f).launches = s.launches := rfl
@[simp] theorem modPart_cores (s : State) (p : Nat) (f : Part → Part) : (modPart s p f).cores = s.cores := rfl
@[simp] theorem modPart_tracks (s : State) (p : Nat) (f : Part → Part) : (modPart s p f).tracks = s.tracks := rfl
@[simp] theorem modPart_lastK (s : State) (p : Nat) (f : Part → Part) : (modPart s p f).lastK = s.lastK := rfl
@[simp] theorem modPart_xfers (s : State) (p : Nat) (f : Part → Part) : (modPart s p f).xfers = s.xfers := rfl
@[simp] theorem modPart_mem (s : State) (p : Nat) (f : Part → Part) : (modPart s p f).mem = s.mem := rfl
@[simp] theorem modPart_poison (s : State) (p : Nat) (f : Part → Part) : (modPart s p f).poison = s.poison := rfl
@[simp] theorem modPart_far (s : State) (p : Nat) (f : Part → Part) : (modPart s p f).far = s.far := rfl
@[simp] theorem modPart_scrub (s : State) (p : Nat) (f : Part → Part) : (modPart s p f).scrub = s.scrub := rfl
@[simp] theorem modPart_l2 (s : State) (p : Nat) (f : Part → Part) : (modPart s p f).l2 = s.l2 := rfl
@[simp] theorem modPart_tlb (s : State) (p : Nat) (f : Part → Part) : (modPart s p f).tlb = s.tlb := rfl
@[simp] theorem modPart_walks (s : State) (p : Nat) (f : Part → Part) : (modPart s p f).walks = s.walks := rfl
@[simp] theorem modPart_pend (s : State) (p : Nat) (f : Part → Part) : (modPart s p f).pend = s.pend := rfl
@[simp] theorem modPart_pevents (s : State) (p : Nat) (f : Part → Part) : (modPart s p f).pevents = s.pevents := rfl
@[simp] theorem modPart_oseq (s : State) (p : Nat) (f : Part → Part) : (modPart s p f).oseq = s.oseq := rfl
@[simp] theorem modPart_ports (s : State) (p : Nat) (f : Part → Part) : (modPart s p f).ports = s.ports := rfl
@[simp] theorem modPart_used (s : State) (p : Nat) (f : Part → Part) : (modPart s p f).used = s.used := rfl
@[simp] theorem modPart_notices (s : State) (p : Nat) (f : Part → Part) : (modPart s p f).notices = s.notices := rfl
@[simp] theorem modPart_snoop (s : State) (p : Nat) (f : Part → Part) : (modPart s p f).snoop = s.snoop := rfl
@[simp] theorem modPart_bisnp (s : State) (p : Nat) (f : Part → Part) : (modPart s p f).bisnp = s.bisnp := rfl
@[simp] theorem modPart_outbox (s : State) (p : Nat) (f : Part → Part) : (modPart s p f).outbox = s.outbox := rfl
@[simp] theorem modPart_tasks (s : State) (p : Nat) (f : Part → Part) : (modPart s p f).tasks = s.tasks := rfl
@[simp] theorem modPart_uisys (s : State) (p : Nat) (f : Part → Part) : (modPart s p f).uisys = s.uisys := rfl
@[simp] theorem modPart_fuse (s : State) (p : Nat) (f : Part → Part) : (modPart s p f).fuse = s.fuse := rfl
@[simp] theorem modPart_boot (s : State) (p : Nat) (f : Part → Part) : (modPart s p f).boot = s.boot := rfl
@[simp] theorem modPart_bootFailed (s : State) (p : Nat) (f : Part → Part) : (modPart s p f).bootFailed = s.bootFailed := rfl
@[simp] theorem modPart_bootOff (s : State) (p : Nat) (f : Part → Part) : (modPart s p f).bootOff = s.bootOff := rfl
@[simp] theorem modPart_fatal (s : State) (p : Nat) (f : Part → Part) : (modPart s p f).fatal = s.fatal := rfl
@[simp] theorem modPart_cairn (s : State) (p : Nat) (f : Part → Part) : (modPart s p f).cairn = s.cairn := rfl
@[simp] theorem modPart_cairnwp (s : State) (p : Nat) (f : Part → Part) : (modPart s p f).cairnwp = s.cairnwp := rfl
@[simp] theorem modPart_dctl (s : State) (p : Nat) (f : Part → Part) : (modPart s p f).dctl = s.dctl := rfl
@[simp] theorem modPart_rows (s : State) (p : Nat) (f : Part → Part) : (modPart s p f).rows = s.rows := rfl
@[simp] theorem modPart_refreshing (s : State) (p : Nat) (f : Part → Part) : (modPart s p f).refreshing = s.refreshing := rfl
@[simp] theorem modPart_cerr (s : State) (p : Nat) (f : Part → Part) : (modPart s p f).cerr = s.cerr := rfl
@[simp] theorem modPart_uerr (s : State) (p : Nat) (f : Part → Part) : (modPart s p f).uerr = s.uerr := rfl
@[simp] theorem modPart_spared (s : State) (p : Nat) (f : Part → Part) : (modPart s p f).spared = s.spared := rfl
@[simp] theorem modPart_patrol (s : State) (p : Nat) (f : Part → Part) : (modPart s p f).patrol = s.patrol := rfl
@[simp] theorem modPart_lodgeRun (s : State) (p : Nat) (f : Part → Part) : (modPart s p f).lodgeRun = s.lodgeRun := rfl
@[simp] theorem modPart_lodgeCycle (s : State) (p : Nat) (f : Part → Part) : (modPart s p f).lodgeCycle = s.lodgeCycle := rfl
@[simp] theorem modPart_thermAt (s : State) (p : Nat) (f : Part → Part) : (modPart s p f).thermAt = s.thermAt := rfl
@[simp] theorem modPart_agenda (s : State) (p : Nat) (f : Part → Part) : (modPart s p f).agenda = s.agenda := rfl
@[simp] theorem modPart_cur (s : State) (p : Nat) (f : Part → Part) : (modPart s p f).cur = s.cur := rfl
@[simp] theorem modPart_free (s : State) (p : Nat) (f : Part → Part) : (modPart s p f).free = s.free := rfl
@[simp] theorem modPart_nextId (s : State) (p : Nat) (f : Part → Part) : (modPart s p f).nextId = s.nextId := rfl
@[simp] theorem modPart_now (s : State) (p : Nat) (f : Part → Part) : (modPart s p f).now = s.now := rfl

/-! modTrack. -/

@[simp] theorem modTrack_warps (s : State) (c n : Nat) (f : Track → Track) : (modTrack s c n f).warps = s.warps := rfl
@[simp] theorem modTrack_wgs (s : State) (c n : Nat) (f : Track → Track) : (modTrack s c n f).wgs = s.wgs := rfl
@[simp] theorem modTrack_launches (s : State) (c n : Nat) (f : Track → Track) : (modTrack s c n f).launches = s.launches := rfl
@[simp] theorem modTrack_cores (s : State) (c n : Nat) (f : Track → Track) : (modTrack s c n f).cores = s.cores := rfl
@[simp] theorem modTrack_lastK (s : State) (c n : Nat) (f : Track → Track) : (modTrack s c n f).lastK = s.lastK := rfl
@[simp] theorem modTrack_xfers (s : State) (c n : Nat) (f : Track → Track) : (modTrack s c n f).xfers = s.xfers := rfl
@[simp] theorem modTrack_parts (s : State) (c n : Nat) (f : Track → Track) : (modTrack s c n f).parts = s.parts := rfl
@[simp] theorem modTrack_mem (s : State) (c n : Nat) (f : Track → Track) : (modTrack s c n f).mem = s.mem := rfl
@[simp] theorem modTrack_poison (s : State) (c n : Nat) (f : Track → Track) : (modTrack s c n f).poison = s.poison := rfl
@[simp] theorem modTrack_far (s : State) (c n : Nat) (f : Track → Track) : (modTrack s c n f).far = s.far := rfl
@[simp] theorem modTrack_scrub (s : State) (c n : Nat) (f : Track → Track) : (modTrack s c n f).scrub = s.scrub := rfl
@[simp] theorem modTrack_l2 (s : State) (c n : Nat) (f : Track → Track) : (modTrack s c n f).l2 = s.l2 := rfl
@[simp] theorem modTrack_tlb (s : State) (c n : Nat) (f : Track → Track) : (modTrack s c n f).tlb = s.tlb := rfl
@[simp] theorem modTrack_walks (s : State) (c n : Nat) (f : Track → Track) : (modTrack s c n f).walks = s.walks := rfl
@[simp] theorem modTrack_pend (s : State) (c n : Nat) (f : Track → Track) : (modTrack s c n f).pend = s.pend := rfl
@[simp] theorem modTrack_pevents (s : State) (c n : Nat) (f : Track → Track) : (modTrack s c n f).pevents = s.pevents := rfl
@[simp] theorem modTrack_oseq (s : State) (c n : Nat) (f : Track → Track) : (modTrack s c n f).oseq = s.oseq := rfl
@[simp] theorem modTrack_ports (s : State) (c n : Nat) (f : Track → Track) : (modTrack s c n f).ports = s.ports := rfl
@[simp] theorem modTrack_used (s : State) (c n : Nat) (f : Track → Track) : (modTrack s c n f).used = s.used := rfl
@[simp] theorem modTrack_notices (s : State) (c n : Nat) (f : Track → Track) : (modTrack s c n f).notices = s.notices := rfl
@[simp] theorem modTrack_snoop (s : State) (c n : Nat) (f : Track → Track) : (modTrack s c n f).snoop = s.snoop := rfl
@[simp] theorem modTrack_bisnp (s : State) (c n : Nat) (f : Track → Track) : (modTrack s c n f).bisnp = s.bisnp := rfl
@[simp] theorem modTrack_outbox (s : State) (c n : Nat) (f : Track → Track) : (modTrack s c n f).outbox = s.outbox := rfl
@[simp] theorem modTrack_tasks (s : State) (c n : Nat) (f : Track → Track) : (modTrack s c n f).tasks = s.tasks := rfl
@[simp] theorem modTrack_uisys (s : State) (c n : Nat) (f : Track → Track) : (modTrack s c n f).uisys = s.uisys := rfl
@[simp] theorem modTrack_fuse (s : State) (c n : Nat) (f : Track → Track) : (modTrack s c n f).fuse = s.fuse := rfl
@[simp] theorem modTrack_boot (s : State) (c n : Nat) (f : Track → Track) : (modTrack s c n f).boot = s.boot := rfl
@[simp] theorem modTrack_bootFailed (s : State) (c n : Nat) (f : Track → Track) : (modTrack s c n f).bootFailed = s.bootFailed := rfl
@[simp] theorem modTrack_bootOff (s : State) (c n : Nat) (f : Track → Track) : (modTrack s c n f).bootOff = s.bootOff := rfl
@[simp] theorem modTrack_fatal (s : State) (c n : Nat) (f : Track → Track) : (modTrack s c n f).fatal = s.fatal := rfl
@[simp] theorem modTrack_cairn (s : State) (c n : Nat) (f : Track → Track) : (modTrack s c n f).cairn = s.cairn := rfl
@[simp] theorem modTrack_cairnwp (s : State) (c n : Nat) (f : Track → Track) : (modTrack s c n f).cairnwp = s.cairnwp := rfl
@[simp] theorem modTrack_dctl (s : State) (c n : Nat) (f : Track → Track) : (modTrack s c n f).dctl = s.dctl := rfl
@[simp] theorem modTrack_rows (s : State) (c n : Nat) (f : Track → Track) : (modTrack s c n f).rows = s.rows := rfl
@[simp] theorem modTrack_refreshing (s : State) (c n : Nat) (f : Track → Track) : (modTrack s c n f).refreshing = s.refreshing := rfl
@[simp] theorem modTrack_cerr (s : State) (c n : Nat) (f : Track → Track) : (modTrack s c n f).cerr = s.cerr := rfl
@[simp] theorem modTrack_uerr (s : State) (c n : Nat) (f : Track → Track) : (modTrack s c n f).uerr = s.uerr := rfl
@[simp] theorem modTrack_spared (s : State) (c n : Nat) (f : Track → Track) : (modTrack s c n f).spared = s.spared := rfl
@[simp] theorem modTrack_patrol (s : State) (c n : Nat) (f : Track → Track) : (modTrack s c n f).patrol = s.patrol := rfl
@[simp] theorem modTrack_lodgeRun (s : State) (c n : Nat) (f : Track → Track) : (modTrack s c n f).lodgeRun = s.lodgeRun := rfl
@[simp] theorem modTrack_lodgeCycle (s : State) (c n : Nat) (f : Track → Track) : (modTrack s c n f).lodgeCycle = s.lodgeCycle := rfl
@[simp] theorem modTrack_thermAt (s : State) (c n : Nat) (f : Track → Track) : (modTrack s c n f).thermAt = s.thermAt := rfl
@[simp] theorem modTrack_agenda (s : State) (c n : Nat) (f : Track → Track) : (modTrack s c n f).agenda = s.agenda := rfl
@[simp] theorem modTrack_cur (s : State) (c n : Nat) (f : Track → Track) : (modTrack s c n f).cur = s.cur := rfl
@[simp] theorem modTrack_free (s : State) (c n : Nat) (f : Track → Track) : (modTrack s c n f).free = s.free := rfl
@[simp] theorem modTrack_nextId (s : State) (c n : Nat) (f : Track → Track) : (modTrack s c n f).nextId = s.nextId := rfl
@[simp] theorem modTrack_now (s : State) (c n : Nat) (f : Track → Track) : (modTrack s c n f).now = s.now := rfl

/-! modCore. -/

@[simp] theorem modCore_warps (s : State) (c : Nat) (f : Core → Core) : (modCore s c f).warps = s.warps := rfl
@[simp] theorem modCore_wgs (s : State) (c : Nat) (f : Core → Core) : (modCore s c f).wgs = s.wgs := rfl
@[simp] theorem modCore_launches (s : State) (c : Nat) (f : Core → Core) : (modCore s c f).launches = s.launches := rfl
@[simp] theorem modCore_tracks (s : State) (c : Nat) (f : Core → Core) : (modCore s c f).tracks = s.tracks := rfl
@[simp] theorem modCore_lastK (s : State) (c : Nat) (f : Core → Core) : (modCore s c f).lastK = s.lastK := rfl
@[simp] theorem modCore_xfers (s : State) (c : Nat) (f : Core → Core) : (modCore s c f).xfers = s.xfers := rfl
@[simp] theorem modCore_parts (s : State) (c : Nat) (f : Core → Core) : (modCore s c f).parts = s.parts := rfl
@[simp] theorem modCore_mem (s : State) (c : Nat) (f : Core → Core) : (modCore s c f).mem = s.mem := rfl
@[simp] theorem modCore_poison (s : State) (c : Nat) (f : Core → Core) : (modCore s c f).poison = s.poison := rfl
@[simp] theorem modCore_far (s : State) (c : Nat) (f : Core → Core) : (modCore s c f).far = s.far := rfl
@[simp] theorem modCore_scrub (s : State) (c : Nat) (f : Core → Core) : (modCore s c f).scrub = s.scrub := rfl
@[simp] theorem modCore_l2 (s : State) (c : Nat) (f : Core → Core) : (modCore s c f).l2 = s.l2 := rfl
@[simp] theorem modCore_tlb (s : State) (c : Nat) (f : Core → Core) : (modCore s c f).tlb = s.tlb := rfl
@[simp] theorem modCore_walks (s : State) (c : Nat) (f : Core → Core) : (modCore s c f).walks = s.walks := rfl
@[simp] theorem modCore_pend (s : State) (c : Nat) (f : Core → Core) : (modCore s c f).pend = s.pend := rfl
@[simp] theorem modCore_pevents (s : State) (c : Nat) (f : Core → Core) : (modCore s c f).pevents = s.pevents := rfl
@[simp] theorem modCore_oseq (s : State) (c : Nat) (f : Core → Core) : (modCore s c f).oseq = s.oseq := rfl
@[simp] theorem modCore_ports (s : State) (c : Nat) (f : Core → Core) : (modCore s c f).ports = s.ports := rfl
@[simp] theorem modCore_used (s : State) (c : Nat) (f : Core → Core) : (modCore s c f).used = s.used := rfl
@[simp] theorem modCore_notices (s : State) (c : Nat) (f : Core → Core) : (modCore s c f).notices = s.notices := rfl
@[simp] theorem modCore_snoop (s : State) (c : Nat) (f : Core → Core) : (modCore s c f).snoop = s.snoop := rfl
@[simp] theorem modCore_bisnp (s : State) (c : Nat) (f : Core → Core) : (modCore s c f).bisnp = s.bisnp := rfl
@[simp] theorem modCore_outbox (s : State) (c : Nat) (f : Core → Core) : (modCore s c f).outbox = s.outbox := rfl
@[simp] theorem modCore_tasks (s : State) (c : Nat) (f : Core → Core) : (modCore s c f).tasks = s.tasks := rfl
@[simp] theorem modCore_uisys (s : State) (c : Nat) (f : Core → Core) : (modCore s c f).uisys = s.uisys := rfl
@[simp] theorem modCore_fuse (s : State) (c : Nat) (f : Core → Core) : (modCore s c f).fuse = s.fuse := rfl
@[simp] theorem modCore_boot (s : State) (c : Nat) (f : Core → Core) : (modCore s c f).boot = s.boot := rfl
@[simp] theorem modCore_bootFailed (s : State) (c : Nat) (f : Core → Core) : (modCore s c f).bootFailed = s.bootFailed := rfl
@[simp] theorem modCore_bootOff (s : State) (c : Nat) (f : Core → Core) : (modCore s c f).bootOff = s.bootOff := rfl
@[simp] theorem modCore_fatal (s : State) (c : Nat) (f : Core → Core) : (modCore s c f).fatal = s.fatal := rfl
@[simp] theorem modCore_cairn (s : State) (c : Nat) (f : Core → Core) : (modCore s c f).cairn = s.cairn := rfl
@[simp] theorem modCore_cairnwp (s : State) (c : Nat) (f : Core → Core) : (modCore s c f).cairnwp = s.cairnwp := rfl
@[simp] theorem modCore_dctl (s : State) (c : Nat) (f : Core → Core) : (modCore s c f).dctl = s.dctl := rfl
@[simp] theorem modCore_rows (s : State) (c : Nat) (f : Core → Core) : (modCore s c f).rows = s.rows := rfl
@[simp] theorem modCore_refreshing (s : State) (c : Nat) (f : Core → Core) : (modCore s c f).refreshing = s.refreshing := rfl
@[simp] theorem modCore_cerr (s : State) (c : Nat) (f : Core → Core) : (modCore s c f).cerr = s.cerr := rfl
@[simp] theorem modCore_uerr (s : State) (c : Nat) (f : Core → Core) : (modCore s c f).uerr = s.uerr := rfl
@[simp] theorem modCore_spared (s : State) (c : Nat) (f : Core → Core) : (modCore s c f).spared = s.spared := rfl
@[simp] theorem modCore_patrol (s : State) (c : Nat) (f : Core → Core) : (modCore s c f).patrol = s.patrol := rfl
@[simp] theorem modCore_lodgeRun (s : State) (c : Nat) (f : Core → Core) : (modCore s c f).lodgeRun = s.lodgeRun := rfl
@[simp] theorem modCore_lodgeCycle (s : State) (c : Nat) (f : Core → Core) : (modCore s c f).lodgeCycle = s.lodgeCycle := rfl
@[simp] theorem modCore_thermAt (s : State) (c : Nat) (f : Core → Core) : (modCore s c f).thermAt = s.thermAt := rfl
@[simp] theorem modCore_agenda (s : State) (c : Nat) (f : Core → Core) : (modCore s c f).agenda = s.agenda := rfl
@[simp] theorem modCore_cur (s : State) (c : Nat) (f : Core → Core) : (modCore s c f).cur = s.cur := rfl
@[simp] theorem modCore_free (s : State) (c : Nat) (f : Core → Core) : (modCore s c f).free = s.free := rfl
@[simp] theorem modCore_nextId (s : State) (c : Nat) (f : Core → Core) : (modCore s c f).nextId = s.nextId := rfl
@[simp] theorem modCore_now (s : State) (c : Nat) (f : Core → Core) : (modCore s c f).now = s.now := rfl

/-! modPort. -/

@[simp] theorem modPort_warps (s : State) (k : Nat) (f : Port → Port) : (modPort s k f).warps = s.warps := rfl
@[simp] theorem modPort_wgs (s : State) (k : Nat) (f : Port → Port) : (modPort s k f).wgs = s.wgs := rfl
@[simp] theorem modPort_launches (s : State) (k : Nat) (f : Port → Port) : (modPort s k f).launches = s.launches := rfl
@[simp] theorem modPort_cores (s : State) (k : Nat) (f : Port → Port) : (modPort s k f).cores = s.cores := rfl
@[simp] theorem modPort_tracks (s : State) (k : Nat) (f : Port → Port) : (modPort s k f).tracks = s.tracks := rfl
@[simp] theorem modPort_lastK (s : State) (k : Nat) (f : Port → Port) : (modPort s k f).lastK = s.lastK := rfl
@[simp] theorem modPort_xfers (s : State) (k : Nat) (f : Port → Port) : (modPort s k f).xfers = s.xfers := rfl
@[simp] theorem modPort_parts (s : State) (k : Nat) (f : Port → Port) : (modPort s k f).parts = s.parts := rfl
@[simp] theorem modPort_mem (s : State) (k : Nat) (f : Port → Port) : (modPort s k f).mem = s.mem := rfl
@[simp] theorem modPort_poison (s : State) (k : Nat) (f : Port → Port) : (modPort s k f).poison = s.poison := rfl
@[simp] theorem modPort_far (s : State) (k : Nat) (f : Port → Port) : (modPort s k f).far = s.far := rfl
@[simp] theorem modPort_scrub (s : State) (k : Nat) (f : Port → Port) : (modPort s k f).scrub = s.scrub := rfl
@[simp] theorem modPort_l2 (s : State) (k : Nat) (f : Port → Port) : (modPort s k f).l2 = s.l2 := rfl
@[simp] theorem modPort_tlb (s : State) (k : Nat) (f : Port → Port) : (modPort s k f).tlb = s.tlb := rfl
@[simp] theorem modPort_walks (s : State) (k : Nat) (f : Port → Port) : (modPort s k f).walks = s.walks := rfl
@[simp] theorem modPort_pend (s : State) (k : Nat) (f : Port → Port) : (modPort s k f).pend = s.pend := rfl
@[simp] theorem modPort_pevents (s : State) (k : Nat) (f : Port → Port) : (modPort s k f).pevents = s.pevents := rfl
@[simp] theorem modPort_oseq (s : State) (k : Nat) (f : Port → Port) : (modPort s k f).oseq = s.oseq := rfl
@[simp] theorem modPort_used (s : State) (k : Nat) (f : Port → Port) : (modPort s k f).used = s.used := rfl
@[simp] theorem modPort_notices (s : State) (k : Nat) (f : Port → Port) : (modPort s k f).notices = s.notices := rfl
@[simp] theorem modPort_snoop (s : State) (k : Nat) (f : Port → Port) : (modPort s k f).snoop = s.snoop := rfl
@[simp] theorem modPort_bisnp (s : State) (k : Nat) (f : Port → Port) : (modPort s k f).bisnp = s.bisnp := rfl
@[simp] theorem modPort_outbox (s : State) (k : Nat) (f : Port → Port) : (modPort s k f).outbox = s.outbox := rfl
@[simp] theorem modPort_tasks (s : State) (k : Nat) (f : Port → Port) : (modPort s k f).tasks = s.tasks := rfl
@[simp] theorem modPort_uisys (s : State) (k : Nat) (f : Port → Port) : (modPort s k f).uisys = s.uisys := rfl
@[simp] theorem modPort_fuse (s : State) (k : Nat) (f : Port → Port) : (modPort s k f).fuse = s.fuse := rfl
@[simp] theorem modPort_boot (s : State) (k : Nat) (f : Port → Port) : (modPort s k f).boot = s.boot := rfl
@[simp] theorem modPort_bootFailed (s : State) (k : Nat) (f : Port → Port) : (modPort s k f).bootFailed = s.bootFailed := rfl
@[simp] theorem modPort_bootOff (s : State) (k : Nat) (f : Port → Port) : (modPort s k f).bootOff = s.bootOff := rfl
@[simp] theorem modPort_fatal (s : State) (k : Nat) (f : Port → Port) : (modPort s k f).fatal = s.fatal := rfl
@[simp] theorem modPort_cairn (s : State) (k : Nat) (f : Port → Port) : (modPort s k f).cairn = s.cairn := rfl
@[simp] theorem modPort_cairnwp (s : State) (k : Nat) (f : Port → Port) : (modPort s k f).cairnwp = s.cairnwp := rfl
@[simp] theorem modPort_dctl (s : State) (k : Nat) (f : Port → Port) : (modPort s k f).dctl = s.dctl := rfl
@[simp] theorem modPort_rows (s : State) (k : Nat) (f : Port → Port) : (modPort s k f).rows = s.rows := rfl
@[simp] theorem modPort_refreshing (s : State) (k : Nat) (f : Port → Port) : (modPort s k f).refreshing = s.refreshing := rfl
@[simp] theorem modPort_cerr (s : State) (k : Nat) (f : Port → Port) : (modPort s k f).cerr = s.cerr := rfl
@[simp] theorem modPort_uerr (s : State) (k : Nat) (f : Port → Port) : (modPort s k f).uerr = s.uerr := rfl
@[simp] theorem modPort_spared (s : State) (k : Nat) (f : Port → Port) : (modPort s k f).spared = s.spared := rfl
@[simp] theorem modPort_patrol (s : State) (k : Nat) (f : Port → Port) : (modPort s k f).patrol = s.patrol := rfl
@[simp] theorem modPort_lodgeRun (s : State) (k : Nat) (f : Port → Port) : (modPort s k f).lodgeRun = s.lodgeRun := rfl
@[simp] theorem modPort_lodgeCycle (s : State) (k : Nat) (f : Port → Port) : (modPort s k f).lodgeCycle = s.lodgeCycle := rfl
@[simp] theorem modPort_thermAt (s : State) (k : Nat) (f : Port → Port) : (modPort s k f).thermAt = s.thermAt := rfl
@[simp] theorem modPort_agenda (s : State) (k : Nat) (f : Port → Port) : (modPort s k f).agenda = s.agenda := rfl
@[simp] theorem modPort_cur (s : State) (k : Nat) (f : Port → Port) : (modPort s k f).cur = s.cur := rfl
@[simp] theorem modPort_free (s : State) (k : Nat) (f : Port → Port) : (modPort s k f).free = s.free := rfl
@[simp] theorem modPort_nextId (s : State) (k : Nat) (f : Port → Port) : (modPort s k f).nextId = s.nextId := rfl
@[simp] theorem modPort_now (s : State) (k : Nat) (f : Port → Port) : (modPort s k f).now = s.now := rfl

/-! modXfer. -/

@[simp] theorem modXfer_warps (s : State) (id : Nat) (f : Xfer → Xfer) : (modXfer s id f).warps = s.warps := rfl
@[simp] theorem modXfer_wgs (s : State) (id : Nat) (f : Xfer → Xfer) : (modXfer s id f).wgs = s.wgs := rfl
@[simp] theorem modXfer_launches (s : State) (id : Nat) (f : Xfer → Xfer) : (modXfer s id f).launches = s.launches := rfl
@[simp] theorem modXfer_cores (s : State) (id : Nat) (f : Xfer → Xfer) : (modXfer s id f).cores = s.cores := rfl
@[simp] theorem modXfer_tracks (s : State) (id : Nat) (f : Xfer → Xfer) : (modXfer s id f).tracks = s.tracks := rfl
@[simp] theorem modXfer_lastK (s : State) (id : Nat) (f : Xfer → Xfer) : (modXfer s id f).lastK = s.lastK := rfl
@[simp] theorem modXfer_parts (s : State) (id : Nat) (f : Xfer → Xfer) : (modXfer s id f).parts = s.parts := rfl
@[simp] theorem modXfer_mem (s : State) (id : Nat) (f : Xfer → Xfer) : (modXfer s id f).mem = s.mem := rfl
@[simp] theorem modXfer_poison (s : State) (id : Nat) (f : Xfer → Xfer) : (modXfer s id f).poison = s.poison := rfl
@[simp] theorem modXfer_far (s : State) (id : Nat) (f : Xfer → Xfer) : (modXfer s id f).far = s.far := rfl
@[simp] theorem modXfer_scrub (s : State) (id : Nat) (f : Xfer → Xfer) : (modXfer s id f).scrub = s.scrub := rfl
@[simp] theorem modXfer_l2 (s : State) (id : Nat) (f : Xfer → Xfer) : (modXfer s id f).l2 = s.l2 := rfl
@[simp] theorem modXfer_tlb (s : State) (id : Nat) (f : Xfer → Xfer) : (modXfer s id f).tlb = s.tlb := rfl
@[simp] theorem modXfer_walks (s : State) (id : Nat) (f : Xfer → Xfer) : (modXfer s id f).walks = s.walks := rfl
@[simp] theorem modXfer_pend (s : State) (id : Nat) (f : Xfer → Xfer) : (modXfer s id f).pend = s.pend := rfl
@[simp] theorem modXfer_pevents (s : State) (id : Nat) (f : Xfer → Xfer) : (modXfer s id f).pevents = s.pevents := rfl
@[simp] theorem modXfer_oseq (s : State) (id : Nat) (f : Xfer → Xfer) : (modXfer s id f).oseq = s.oseq := rfl
@[simp] theorem modXfer_ports (s : State) (id : Nat) (f : Xfer → Xfer) : (modXfer s id f).ports = s.ports := rfl
@[simp] theorem modXfer_used (s : State) (id : Nat) (f : Xfer → Xfer) : (modXfer s id f).used = s.used := rfl
@[simp] theorem modXfer_notices (s : State) (id : Nat) (f : Xfer → Xfer) : (modXfer s id f).notices = s.notices := rfl
@[simp] theorem modXfer_snoop (s : State) (id : Nat) (f : Xfer → Xfer) : (modXfer s id f).snoop = s.snoop := rfl
@[simp] theorem modXfer_bisnp (s : State) (id : Nat) (f : Xfer → Xfer) : (modXfer s id f).bisnp = s.bisnp := rfl
@[simp] theorem modXfer_outbox (s : State) (id : Nat) (f : Xfer → Xfer) : (modXfer s id f).outbox = s.outbox := rfl
@[simp] theorem modXfer_tasks (s : State) (id : Nat) (f : Xfer → Xfer) : (modXfer s id f).tasks = s.tasks := rfl
@[simp] theorem modXfer_uisys (s : State) (id : Nat) (f : Xfer → Xfer) : (modXfer s id f).uisys = s.uisys := rfl
@[simp] theorem modXfer_fuse (s : State) (id : Nat) (f : Xfer → Xfer) : (modXfer s id f).fuse = s.fuse := rfl
@[simp] theorem modXfer_boot (s : State) (id : Nat) (f : Xfer → Xfer) : (modXfer s id f).boot = s.boot := rfl
@[simp] theorem modXfer_bootFailed (s : State) (id : Nat) (f : Xfer → Xfer) : (modXfer s id f).bootFailed = s.bootFailed := rfl
@[simp] theorem modXfer_bootOff (s : State) (id : Nat) (f : Xfer → Xfer) : (modXfer s id f).bootOff = s.bootOff := rfl
@[simp] theorem modXfer_fatal (s : State) (id : Nat) (f : Xfer → Xfer) : (modXfer s id f).fatal = s.fatal := rfl
@[simp] theorem modXfer_cairn (s : State) (id : Nat) (f : Xfer → Xfer) : (modXfer s id f).cairn = s.cairn := rfl
@[simp] theorem modXfer_cairnwp (s : State) (id : Nat) (f : Xfer → Xfer) : (modXfer s id f).cairnwp = s.cairnwp := rfl
@[simp] theorem modXfer_dctl (s : State) (id : Nat) (f : Xfer → Xfer) : (modXfer s id f).dctl = s.dctl := rfl
@[simp] theorem modXfer_rows (s : State) (id : Nat) (f : Xfer → Xfer) : (modXfer s id f).rows = s.rows := rfl
@[simp] theorem modXfer_refreshing (s : State) (id : Nat) (f : Xfer → Xfer) : (modXfer s id f).refreshing = s.refreshing := rfl
@[simp] theorem modXfer_cerr (s : State) (id : Nat) (f : Xfer → Xfer) : (modXfer s id f).cerr = s.cerr := rfl
@[simp] theorem modXfer_uerr (s : State) (id : Nat) (f : Xfer → Xfer) : (modXfer s id f).uerr = s.uerr := rfl
@[simp] theorem modXfer_spared (s : State) (id : Nat) (f : Xfer → Xfer) : (modXfer s id f).spared = s.spared := rfl
@[simp] theorem modXfer_patrol (s : State) (id : Nat) (f : Xfer → Xfer) : (modXfer s id f).patrol = s.patrol := rfl
@[simp] theorem modXfer_lodgeRun (s : State) (id : Nat) (f : Xfer → Xfer) : (modXfer s id f).lodgeRun = s.lodgeRun := rfl
@[simp] theorem modXfer_lodgeCycle (s : State) (id : Nat) (f : Xfer → Xfer) : (modXfer s id f).lodgeCycle = s.lodgeCycle := rfl
@[simp] theorem modXfer_thermAt (s : State) (id : Nat) (f : Xfer → Xfer) : (modXfer s id f).thermAt = s.thermAt := rfl
@[simp] theorem modXfer_agenda (s : State) (id : Nat) (f : Xfer → Xfer) : (modXfer s id f).agenda = s.agenda := rfl
@[simp] theorem modXfer_cur (s : State) (id : Nat) (f : Xfer → Xfer) : (modXfer s id f).cur = s.cur := rfl
@[simp] theorem modXfer_free (s : State) (id : Nat) (f : Xfer → Xfer) : (modXfer s id f).free = s.free := rfl
@[simp] theorem modXfer_nextId (s : State) (id : Nat) (f : Xfer → Xfer) : (modXfer s id f).nextId = s.nextId := rfl
@[simp] theorem modXfer_now (s : State) (id : Nat) (f : Xfer → Xfer) : (modXfer s id f).now = s.now := rfl

/-! dctlSet. -/

@[simp] theorem dctlSet_warps (s : State) (a v : Nat) : (dctlSet s a v).warps = s.warps := rfl
@[simp] theorem dctlSet_wgs (s : State) (a v : Nat) : (dctlSet s a v).wgs = s.wgs := rfl
@[simp] theorem dctlSet_launches (s : State) (a v : Nat) : (dctlSet s a v).launches = s.launches := rfl
@[simp] theorem dctlSet_cores (s : State) (a v : Nat) : (dctlSet s a v).cores = s.cores := rfl
@[simp] theorem dctlSet_tracks (s : State) (a v : Nat) : (dctlSet s a v).tracks = s.tracks := rfl
@[simp] theorem dctlSet_lastK (s : State) (a v : Nat) : (dctlSet s a v).lastK = s.lastK := rfl
@[simp] theorem dctlSet_xfers (s : State) (a v : Nat) : (dctlSet s a v).xfers = s.xfers := rfl
@[simp] theorem dctlSet_parts (s : State) (a v : Nat) : (dctlSet s a v).parts = s.parts := rfl
@[simp] theorem dctlSet_mem (s : State) (a v : Nat) : (dctlSet s a v).mem = s.mem := rfl
@[simp] theorem dctlSet_poison (s : State) (a v : Nat) : (dctlSet s a v).poison = s.poison := rfl
@[simp] theorem dctlSet_far (s : State) (a v : Nat) : (dctlSet s a v).far = s.far := rfl
@[simp] theorem dctlSet_scrub (s : State) (a v : Nat) : (dctlSet s a v).scrub = s.scrub := rfl
@[simp] theorem dctlSet_l2 (s : State) (a v : Nat) : (dctlSet s a v).l2 = s.l2 := rfl
@[simp] theorem dctlSet_tlb (s : State) (a v : Nat) : (dctlSet s a v).tlb = s.tlb := rfl
@[simp] theorem dctlSet_walks (s : State) (a v : Nat) : (dctlSet s a v).walks = s.walks := rfl
@[simp] theorem dctlSet_pend (s : State) (a v : Nat) : (dctlSet s a v).pend = s.pend := rfl
@[simp] theorem dctlSet_pevents (s : State) (a v : Nat) : (dctlSet s a v).pevents = s.pevents := rfl
@[simp] theorem dctlSet_oseq (s : State) (a v : Nat) : (dctlSet s a v).oseq = s.oseq := rfl
@[simp] theorem dctlSet_ports (s : State) (a v : Nat) : (dctlSet s a v).ports = s.ports := rfl
@[simp] theorem dctlSet_used (s : State) (a v : Nat) : (dctlSet s a v).used = s.used := rfl
@[simp] theorem dctlSet_notices (s : State) (a v : Nat) : (dctlSet s a v).notices = s.notices := rfl
@[simp] theorem dctlSet_snoop (s : State) (a v : Nat) : (dctlSet s a v).snoop = s.snoop := rfl
@[simp] theorem dctlSet_bisnp (s : State) (a v : Nat) : (dctlSet s a v).bisnp = s.bisnp := rfl
@[simp] theorem dctlSet_outbox (s : State) (a v : Nat) : (dctlSet s a v).outbox = s.outbox := rfl
@[simp] theorem dctlSet_tasks (s : State) (a v : Nat) : (dctlSet s a v).tasks = s.tasks := rfl
@[simp] theorem dctlSet_uisys (s : State) (a v : Nat) : (dctlSet s a v).uisys = s.uisys := rfl
@[simp] theorem dctlSet_fuse (s : State) (a v : Nat) : (dctlSet s a v).fuse = s.fuse := rfl
@[simp] theorem dctlSet_boot (s : State) (a v : Nat) : (dctlSet s a v).boot = s.boot := rfl
@[simp] theorem dctlSet_bootFailed (s : State) (a v : Nat) : (dctlSet s a v).bootFailed = s.bootFailed := rfl
@[simp] theorem dctlSet_bootOff (s : State) (a v : Nat) : (dctlSet s a v).bootOff = s.bootOff := rfl
@[simp] theorem dctlSet_fatal (s : State) (a v : Nat) : (dctlSet s a v).fatal = s.fatal := rfl
@[simp] theorem dctlSet_cairn (s : State) (a v : Nat) : (dctlSet s a v).cairn = s.cairn := rfl
@[simp] theorem dctlSet_cairnwp (s : State) (a v : Nat) : (dctlSet s a v).cairnwp = s.cairnwp := rfl
@[simp] theorem dctlSet_rows (s : State) (a v : Nat) : (dctlSet s a v).rows = s.rows := rfl
@[simp] theorem dctlSet_refreshing (s : State) (a v : Nat) : (dctlSet s a v).refreshing = s.refreshing := rfl
@[simp] theorem dctlSet_cerr (s : State) (a v : Nat) : (dctlSet s a v).cerr = s.cerr := rfl
@[simp] theorem dctlSet_uerr (s : State) (a v : Nat) : (dctlSet s a v).uerr = s.uerr := rfl
@[simp] theorem dctlSet_spared (s : State) (a v : Nat) : (dctlSet s a v).spared = s.spared := rfl
@[simp] theorem dctlSet_patrol (s : State) (a v : Nat) : (dctlSet s a v).patrol = s.patrol := rfl
@[simp] theorem dctlSet_lodgeRun (s : State) (a v : Nat) : (dctlSet s a v).lodgeRun = s.lodgeRun := rfl
@[simp] theorem dctlSet_lodgeCycle (s : State) (a v : Nat) : (dctlSet s a v).lodgeCycle = s.lodgeCycle := rfl
@[simp] theorem dctlSet_thermAt (s : State) (a v : Nat) : (dctlSet s a v).thermAt = s.thermAt := rfl
@[simp] theorem dctlSet_agenda (s : State) (a v : Nat) : (dctlSet s a v).agenda = s.agenda := rfl
@[simp] theorem dctlSet_cur (s : State) (a v : Nat) : (dctlSet s a v).cur = s.cur := rfl
@[simp] theorem dctlSet_free (s : State) (a v : Nat) : (dctlSet s a v).free = s.free := rfl
@[simp] theorem dctlSet_nextId (s : State) (a v : Nat) : (dctlSet s a v).nextId = s.nextId := rfl
@[simp] theorem dctlSet_now (s : State) (a v : Nat) : (dctlSet s a v).now = s.now := rfl

/-! advance. -/

@[simp] theorem advance_part (w : Warp) (m : Mask) (n : Nat) : (advance w m n).part = w.part := by unfold advance; rfl
@[simp] theorem advance_ctx (w : Warp) (m : Mask) (n : Nat) : (advance w m n).ctx = w.ctx := by unfold advance; rfl
@[simp] theorem advance_wg (w : Warp) (m : Mask) (n : Nat) : (advance w m n).wg = w.wg := by unfold advance; rfl
@[simp] theorem advance_seq (w : Warp) (m : Mask) (n : Nat) : (advance w m n).seq = w.seq := by unfold advance; rfl
@[simp] theorem advance_floor (w : Warp) (m : Mask) (n : Nat) : (advance w m n).floor = w.floor := by unfold advance; rfl
@[simp] theorem advance_lift (w : Warp) (m : Mask) (n : Nat) : (advance w m n).lift = w.lift := by unfold advance; rfl
@[simp] theorem advance_widx (w : Warp) (m : Mask) (n : Nat) : (advance w m n).widx = w.widx := by unfold advance; rfl
@[simp] theorem advance_tid (w : Warp) (m : Mask) (n : Nat) : (advance w m n).tid = w.tid := by unfold advance; rfl
@[simp] theorem advance_v (w : Warp) (m : Mask) (n : Nat) : (advance w m n).v = w.v := by unfold advance; rfl
@[simp] theorem advance_deferred (w : Warp) (m : Mask) (n : Nat) : (advance w m n).deferred = w.deferred := by unfold advance; rfl
@[simp] theorem advance_s (w : Warp) (m : Mask) (n : Nat) : (advance w m n).s = w.s := by unfold advance; rfl
@[simp] theorem advance_p (w : Warp) (m : Mask) (n : Nat) : (advance w m n).p = w.p := by unfold advance; rfl
@[simp] theorem advance_conv (w : Warp) (m : Mask) (n : Nat) : (advance w m n).conv = w.conv := by unfold advance; rfl
@[simp] theorem advance_fpEn (w : Warp) (m : Mask) (n : Nat) : (advance w m n).fpEn = w.fpEn := by unfold advance; rfl
@[simp] theorem advance_fpFlags (w : Warp) (m : Mask) (n : Nat) : (advance w m n).fpFlags = w.fpFlags := by unfold advance; rfl
@[simp] theorem advance_ftz (w : Warp) (m : Mask) (n : Nat) : (advance w m n).ftz = w.ftz := by unfold advance; rfl
@[simp] theorem advance_rm (w : Warp) (m : Mask) (n : Nat) : (advance w m n).rm = w.rm := by unfold advance; rfl
@[simp] theorem advance_stale (w : Warp) (m : Mask) (n : Nat) : (advance w m n).stale = w.stale := by unfold advance; rfl
@[simp] theorem advance_intrap (w : Warp) (m : Mask) (n : Nat) : (advance w m n).intrap = w.intrap := by unfold advance; rfl
@[simp] theorem advance_xrec (w : Warp) (m : Mask) (n : Nat) : (advance w m n).xrec = w.xrec := by unfold advance; rfl
@[simp] theorem advance_trapvec (w : Warp) (m : Mask) (n : Nat) : (advance w m n).trapvec = w.trapvec := by unfold advance; rfl
@[simp] theorem advance_trappc (w : Warp) (m : Mask) (n : Nat) : (advance w m n).trappc = w.trappc := by unfold advance; rfl
@[simp] theorem advance_trapcause (w : Warp) (m : Mask) (n : Nat) : (advance w m n).trapcause = w.trapcause := by unfold advance; rfl
@[simp] theorem advance_tmask (w : Warp) (m : Mask) (n : Nat) : (advance w m n).tmask = w.tmask := by unfold advance; rfl
@[simp] theorem advance_refage (w : Warp) (m : Mask) (n : Nat) : (advance w m n).refage = w.refage := by unfold advance; rfl
@[simp] theorem advance_loops (w : Warp) (m : Mask) (n : Nat) : (advance w m n).loops = w.loops := by unfold advance; rfl
@[simp] theorem advance_tcfg (w : Warp) (m : Mask) (n : Nat) : (advance w m n).tcfg = w.tcfg := by unfold advance; rfl
@[simp] theorem advance_uivec (w : Warp) (m : Mask) (n : Nat) : (advance w m n).uivec = w.uivec := by unfold advance; rfl
@[simp] theorem advance_uiepc (w : Warp) (m : Mask) (n : Nat) : (advance w m n).uiepc = w.uiepc := by unfold advance; rfl
@[simp] theorem advance_uiin (w : Warp) (m : Mask) (n : Nat) : (advance w m n).uiin = w.uiin := by unfold advance; rfl
@[simp] theorem advance_uentry (w : Warp) (m : Mask) (n : Nat) : (advance w m n).uentry = w.uentry := by unfold advance; rfl
@[simp] theorem advance_claim (w : Warp) (m : Mask) (n : Nat) : (advance w m n).claim = w.claim := by unfold advance; rfl
@[simp] theorem advance_svclane (w : Warp) (m : Mask) (n : Nat) : (advance w m n).svclane = w.svclane := by unfold advance; rfl
@[simp] theorem advance_svcpend (w : Warp) (m : Mask) (n : Nat) : (advance w m n).svcpend = w.svcpend := by unfold advance; rfl
@[simp] theorem advance_arrived (w : Warp) (m : Mask) (n : Nat) : (advance w m n).arrived = w.arrived := by unfold advance; rfl
@[simp] theorem advance_barEdges (w : Warp) (m : Mask) (n : Nat) : (advance w m n).barEdges = w.barEdges := by unfold advance; rfl
@[simp] theorem advance_openb (w : Warp) (m : Mask) (n : Nat) : (advance w m n).openb = w.openb := by unfold advance; rfl
@[simp] theorem advance_fails (w : Warp) (m : Mask) (n : Nat) : (advance w m n).fails = w.fails := by unfold advance; rfl
@[simp] theorem advance_mvfail (w : Warp) (m : Mask) (n : Nat) : (advance w m n).mvfail = w.mvfail := by unfold advance; rfl
@[simp] theorem advance_waits (w : Warp) (m : Mask) (n : Nat) : (advance w m n).waits = w.waits := by unfold advance; rfl
@[simp] theorem advance_parks (w : Warp) (m : Mask) (n : Nat) : (advance w m n).parks = w.parks := by unfold advance; rfl
@[simp] theorem advance_denied (w : Warp) (m : Mask) (n : Nat) : (advance w m n).denied = w.denied := by unfold advance; rfl
@[simp] theorem advance_spilled (w : Warp) (m : Mask) (n : Nat) : (advance w m n).spilled = w.spilled := by unfold advance; rfl
@[simp] theorem advance_alloc (w : Warp) (m : Mask) (n : Nat) : (advance w m n).alloc = w.alloc := by unfold advance; rfl
@[simp] theorem advance_fpq (w : Warp) (m : Mask) (n : Nat) : (advance w m n).fpq = w.fpq := by unfold advance; rfl
@[simp] theorem advance_run (w : Warp) (m : Mask) (n : Nat) : (advance w m n).run = w.run := by unfold advance; rfl
@[simp] theorem advance_lastLead (w : Warp) (m : Mask) (n : Nat) : (advance w m n).lastLead = w.lastLead := by unfold advance; rfl
@[simp] theorem advance_lastIssue (w : Warp) (m : Mask) (n : Nat) : (advance w m n).lastIssue = w.lastIssue := by unfold advance; rfl
@[simp] theorem advance_waitc (w : Warp) (m : Mask) (n : Nat) : (advance w m n).waitc = w.waitc := by unfold advance; rfl
@[simp] theorem advance_lastPrio (w : Warp) (m : Mask) (n : Nat) : (advance w m n).lastPrio = w.lastPrio := by unfold advance; rfl
@[simp] theorem advance_forced (w : Warp) (m : Mask) (n : Nat) : (advance w m n).forced = w.forced := by unfold advance; rfl
@[simp] theorem advance_readyAt (w : Warp) (m : Mask) (n : Nat) : (advance w m n).readyAt = w.readyAt := by unfold advance; rfl

/-! jump. -/

@[simp] theorem jump_part (w : Warp) (m : Mask) (g : Lane → Dword) : (jump w m g).part = w.part := by unfold jump; rfl
@[simp] theorem jump_ctx (w : Warp) (m : Mask) (g : Lane → Dword) : (jump w m g).ctx = w.ctx := by unfold jump; rfl
@[simp] theorem jump_wg (w : Warp) (m : Mask) (g : Lane → Dword) : (jump w m g).wg = w.wg := by unfold jump; rfl
@[simp] theorem jump_seq (w : Warp) (m : Mask) (g : Lane → Dword) : (jump w m g).seq = w.seq := by unfold jump; rfl
@[simp] theorem jump_floor (w : Warp) (m : Mask) (g : Lane → Dword) : (jump w m g).floor = w.floor := by unfold jump; rfl
@[simp] theorem jump_lift (w : Warp) (m : Mask) (g : Lane → Dword) : (jump w m g).lift = w.lift := by unfold jump; rfl
@[simp] theorem jump_widx (w : Warp) (m : Mask) (g : Lane → Dword) : (jump w m g).widx = w.widx := by unfold jump; rfl
@[simp] theorem jump_tid (w : Warp) (m : Mask) (g : Lane → Dword) : (jump w m g).tid = w.tid := by unfold jump; rfl
@[simp] theorem jump_v (w : Warp) (m : Mask) (g : Lane → Dword) : (jump w m g).v = w.v := by unfold jump; rfl
@[simp] theorem jump_deferred (w : Warp) (m : Mask) (g : Lane → Dword) : (jump w m g).deferred = w.deferred := by unfold jump; rfl
@[simp] theorem jump_s (w : Warp) (m : Mask) (g : Lane → Dword) : (jump w m g).s = w.s := by unfold jump; rfl
@[simp] theorem jump_p (w : Warp) (m : Mask) (g : Lane → Dword) : (jump w m g).p = w.p := by unfold jump; rfl
@[simp] theorem jump_conv (w : Warp) (m : Mask) (g : Lane → Dword) : (jump w m g).conv = w.conv := by unfold jump; rfl
@[simp] theorem jump_fpEn (w : Warp) (m : Mask) (g : Lane → Dword) : (jump w m g).fpEn = w.fpEn := by unfold jump; rfl
@[simp] theorem jump_fpFlags (w : Warp) (m : Mask) (g : Lane → Dword) : (jump w m g).fpFlags = w.fpFlags := by unfold jump; rfl
@[simp] theorem jump_ftz (w : Warp) (m : Mask) (g : Lane → Dword) : (jump w m g).ftz = w.ftz := by unfold jump; rfl
@[simp] theorem jump_rm (w : Warp) (m : Mask) (g : Lane → Dword) : (jump w m g).rm = w.rm := by unfold jump; rfl
@[simp] theorem jump_stale (w : Warp) (m : Mask) (g : Lane → Dword) : (jump w m g).stale = w.stale := by unfold jump; rfl
@[simp] theorem jump_intrap (w : Warp) (m : Mask) (g : Lane → Dword) : (jump w m g).intrap = w.intrap := by unfold jump; rfl
@[simp] theorem jump_xrec (w : Warp) (m : Mask) (g : Lane → Dword) : (jump w m g).xrec = w.xrec := by unfold jump; rfl
@[simp] theorem jump_trapvec (w : Warp) (m : Mask) (g : Lane → Dword) : (jump w m g).trapvec = w.trapvec := by unfold jump; rfl
@[simp] theorem jump_trappc (w : Warp) (m : Mask) (g : Lane → Dword) : (jump w m g).trappc = w.trappc := by unfold jump; rfl
@[simp] theorem jump_trapcause (w : Warp) (m : Mask) (g : Lane → Dword) : (jump w m g).trapcause = w.trapcause := by unfold jump; rfl
@[simp] theorem jump_tmask (w : Warp) (m : Mask) (g : Lane → Dword) : (jump w m g).tmask = w.tmask := by unfold jump; rfl
@[simp] theorem jump_refage (w : Warp) (m : Mask) (g : Lane → Dword) : (jump w m g).refage = w.refage := by unfold jump; rfl
@[simp] theorem jump_loops (w : Warp) (m : Mask) (g : Lane → Dword) : (jump w m g).loops = w.loops := by unfold jump; rfl
@[simp] theorem jump_tcfg (w : Warp) (m : Mask) (g : Lane → Dword) : (jump w m g).tcfg = w.tcfg := by unfold jump; rfl
@[simp] theorem jump_uivec (w : Warp) (m : Mask) (g : Lane → Dword) : (jump w m g).uivec = w.uivec := by unfold jump; rfl
@[simp] theorem jump_uiepc (w : Warp) (m : Mask) (g : Lane → Dword) : (jump w m g).uiepc = w.uiepc := by unfold jump; rfl
@[simp] theorem jump_uiin (w : Warp) (m : Mask) (g : Lane → Dword) : (jump w m g).uiin = w.uiin := by unfold jump; rfl
@[simp] theorem jump_uentry (w : Warp) (m : Mask) (g : Lane → Dword) : (jump w m g).uentry = w.uentry := by unfold jump; rfl
@[simp] theorem jump_claim (w : Warp) (m : Mask) (g : Lane → Dword) : (jump w m g).claim = w.claim := by unfold jump; rfl
@[simp] theorem jump_svclane (w : Warp) (m : Mask) (g : Lane → Dword) : (jump w m g).svclane = w.svclane := by unfold jump; rfl
@[simp] theorem jump_svcpend (w : Warp) (m : Mask) (g : Lane → Dword) : (jump w m g).svcpend = w.svcpend := by unfold jump; rfl
@[simp] theorem jump_arrived (w : Warp) (m : Mask) (g : Lane → Dword) : (jump w m g).arrived = w.arrived := by unfold jump; rfl
@[simp] theorem jump_barEdges (w : Warp) (m : Mask) (g : Lane → Dword) : (jump w m g).barEdges = w.barEdges := by unfold jump; rfl
@[simp] theorem jump_openb (w : Warp) (m : Mask) (g : Lane → Dword) : (jump w m g).openb = w.openb := by unfold jump; rfl
@[simp] theorem jump_fails (w : Warp) (m : Mask) (g : Lane → Dword) : (jump w m g).fails = w.fails := by unfold jump; rfl
@[simp] theorem jump_mvfail (w : Warp) (m : Mask) (g : Lane → Dword) : (jump w m g).mvfail = w.mvfail := by unfold jump; rfl
@[simp] theorem jump_waits (w : Warp) (m : Mask) (g : Lane → Dword) : (jump w m g).waits = w.waits := by unfold jump; rfl
@[simp] theorem jump_parks (w : Warp) (m : Mask) (g : Lane → Dword) : (jump w m g).parks = w.parks := by unfold jump; rfl
@[simp] theorem jump_denied (w : Warp) (m : Mask) (g : Lane → Dword) : (jump w m g).denied = w.denied := by unfold jump; rfl
@[simp] theorem jump_spilled (w : Warp) (m : Mask) (g : Lane → Dword) : (jump w m g).spilled = w.spilled := by unfold jump; rfl
@[simp] theorem jump_alloc (w : Warp) (m : Mask) (g : Lane → Dword) : (jump w m g).alloc = w.alloc := by unfold jump; rfl
@[simp] theorem jump_fpq (w : Warp) (m : Mask) (g : Lane → Dword) : (jump w m g).fpq = w.fpq := by unfold jump; rfl
@[simp] theorem jump_run (w : Warp) (m : Mask) (g : Lane → Dword) : (jump w m g).run = w.run := by unfold jump; rfl
@[simp] theorem jump_lastLead (w : Warp) (m : Mask) (g : Lane → Dword) : (jump w m g).lastLead = w.lastLead := by unfold jump; rfl
@[simp] theorem jump_lastIssue (w : Warp) (m : Mask) (g : Lane → Dword) : (jump w m g).lastIssue = w.lastIssue := by unfold jump; rfl
@[simp] theorem jump_waitc (w : Warp) (m : Mask) (g : Lane → Dword) : (jump w m g).waitc = w.waitc := by unfold jump; rfl
@[simp] theorem jump_lastPrio (w : Warp) (m : Mask) (g : Lane → Dword) : (jump w m g).lastPrio = w.lastPrio := by unfold jump; rfl
@[simp] theorem jump_forced (w : Warp) (m : Mask) (g : Lane → Dword) : (jump w m g).forced = w.forced := by unfold jump; rfl
@[simp] theorem jump_readyAt (w : Warp) (m : Mask) (g : Lane → Dword) : (jump w m g).readyAt = w.readyAt := by unfold jump; rfl

/-! vWrite. -/

@[simp] theorem vWrite_part (w : Warp) (r : Nat) (m : Mask) (g : Lane → Val) : (vWrite w r m g).part = w.part := by unfold vWrite; split <;> rfl
@[simp] theorem vWrite_ctx (w : Warp) (r : Nat) (m : Mask) (g : Lane → Val) : (vWrite w r m g).ctx = w.ctx := by unfold vWrite; split <;> rfl
@[simp] theorem vWrite_wg (w : Warp) (r : Nat) (m : Mask) (g : Lane → Val) : (vWrite w r m g).wg = w.wg := by unfold vWrite; split <;> rfl
@[simp] theorem vWrite_seq (w : Warp) (r : Nat) (m : Mask) (g : Lane → Val) : (vWrite w r m g).seq = w.seq := by unfold vWrite; split <;> rfl
@[simp] theorem vWrite_floor (w : Warp) (r : Nat) (m : Mask) (g : Lane → Val) : (vWrite w r m g).floor = w.floor := by unfold vWrite; split <;> rfl
@[simp] theorem vWrite_lift (w : Warp) (r : Nat) (m : Mask) (g : Lane → Val) : (vWrite w r m g).lift = w.lift := by unfold vWrite; split <;> rfl
@[simp] theorem vWrite_widx (w : Warp) (r : Nat) (m : Mask) (g : Lane → Val) : (vWrite w r m g).widx = w.widx := by unfold vWrite; split <;> rfl
@[simp] theorem vWrite_tid (w : Warp) (r : Nat) (m : Mask) (g : Lane → Val) : (vWrite w r m g).tid = w.tid := by unfold vWrite; split <;> rfl
@[simp] theorem vWrite_pc (w : Warp) (r : Nat) (m : Mask) (g : Lane → Val) : (vWrite w r m g).pc = w.pc := by unfold vWrite; split <;> rfl
@[simp] theorem vWrite_s (w : Warp) (r : Nat) (m : Mask) (g : Lane → Val) : (vWrite w r m g).s = w.s := by unfold vWrite; split <;> rfl
@[simp] theorem vWrite_p (w : Warp) (r : Nat) (m : Mask) (g : Lane → Val) : (vWrite w r m g).p = w.p := by unfold vWrite; split <;> rfl
@[simp] theorem vWrite_conv (w : Warp) (r : Nat) (m : Mask) (g : Lane → Val) : (vWrite w r m g).conv = w.conv := by unfold vWrite; split <;> rfl
@[simp] theorem vWrite_fpEn (w : Warp) (r : Nat) (m : Mask) (g : Lane → Val) : (vWrite w r m g).fpEn = w.fpEn := by unfold vWrite; split <;> rfl
@[simp] theorem vWrite_fpFlags (w : Warp) (r : Nat) (m : Mask) (g : Lane → Val) : (vWrite w r m g).fpFlags = w.fpFlags := by unfold vWrite; split <;> rfl
@[simp] theorem vWrite_ftz (w : Warp) (r : Nat) (m : Mask) (g : Lane → Val) : (vWrite w r m g).ftz = w.ftz := by unfold vWrite; split <;> rfl
@[simp] theorem vWrite_rm (w : Warp) (r : Nat) (m : Mask) (g : Lane → Val) : (vWrite w r m g).rm = w.rm := by unfold vWrite; split <;> rfl
@[simp] theorem vWrite_stale (w : Warp) (r : Nat) (m : Mask) (g : Lane → Val) : (vWrite w r m g).stale = w.stale := by unfold vWrite; split <;> rfl
@[simp] theorem vWrite_intrap (w : Warp) (r : Nat) (m : Mask) (g : Lane → Val) : (vWrite w r m g).intrap = w.intrap := by unfold vWrite; split <;> rfl
@[simp] theorem vWrite_xrec (w : Warp) (r : Nat) (m : Mask) (g : Lane → Val) : (vWrite w r m g).xrec = w.xrec := by unfold vWrite; split <;> rfl
@[simp] theorem vWrite_trapvec (w : Warp) (r : Nat) (m : Mask) (g : Lane → Val) : (vWrite w r m g).trapvec = w.trapvec := by unfold vWrite; split <;> rfl
@[simp] theorem vWrite_trappc (w : Warp) (r : Nat) (m : Mask) (g : Lane → Val) : (vWrite w r m g).trappc = w.trappc := by unfold vWrite; split <;> rfl
@[simp] theorem vWrite_trapcause (w : Warp) (r : Nat) (m : Mask) (g : Lane → Val) : (vWrite w r m g).trapcause = w.trapcause := by unfold vWrite; split <;> rfl
@[simp] theorem vWrite_tmask (w : Warp) (r : Nat) (m : Mask) (g : Lane → Val) : (vWrite w r m g).tmask = w.tmask := by unfold vWrite; split <;> rfl
@[simp] theorem vWrite_refage (w : Warp) (r : Nat) (m : Mask) (g : Lane → Val) : (vWrite w r m g).refage = w.refage := by unfold vWrite; split <;> rfl
@[simp] theorem vWrite_loops (w : Warp) (r : Nat) (m : Mask) (g : Lane → Val) : (vWrite w r m g).loops = w.loops := by unfold vWrite; split <;> rfl
@[simp] theorem vWrite_tcfg (w : Warp) (r : Nat) (m : Mask) (g : Lane → Val) : (vWrite w r m g).tcfg = w.tcfg := by unfold vWrite; split <;> rfl
@[simp] theorem vWrite_uivec (w : Warp) (r : Nat) (m : Mask) (g : Lane → Val) : (vWrite w r m g).uivec = w.uivec := by unfold vWrite; split <;> rfl
@[simp] theorem vWrite_uiepc (w : Warp) (r : Nat) (m : Mask) (g : Lane → Val) : (vWrite w r m g).uiepc = w.uiepc := by unfold vWrite; split <;> rfl
@[simp] theorem vWrite_uiin (w : Warp) (r : Nat) (m : Mask) (g : Lane → Val) : (vWrite w r m g).uiin = w.uiin := by unfold vWrite; split <;> rfl
@[simp] theorem vWrite_uentry (w : Warp) (r : Nat) (m : Mask) (g : Lane → Val) : (vWrite w r m g).uentry = w.uentry := by unfold vWrite; split <;> rfl
@[simp] theorem vWrite_claim (w : Warp) (r : Nat) (m : Mask) (g : Lane → Val) : (vWrite w r m g).claim = w.claim := by unfold vWrite; split <;> rfl
@[simp] theorem vWrite_svclane (w : Warp) (r : Nat) (m : Mask) (g : Lane → Val) : (vWrite w r m g).svclane = w.svclane := by unfold vWrite; split <;> rfl
@[simp] theorem vWrite_svcpend (w : Warp) (r : Nat) (m : Mask) (g : Lane → Val) : (vWrite w r m g).svcpend = w.svcpend := by unfold vWrite; split <;> rfl
@[simp] theorem vWrite_arrived (w : Warp) (r : Nat) (m : Mask) (g : Lane → Val) : (vWrite w r m g).arrived = w.arrived := by unfold vWrite; split <;> rfl
@[simp] theorem vWrite_barEdges (w : Warp) (r : Nat) (m : Mask) (g : Lane → Val) : (vWrite w r m g).barEdges = w.barEdges := by unfold vWrite; split <;> rfl
@[simp] theorem vWrite_openb (w : Warp) (r : Nat) (m : Mask) (g : Lane → Val) : (vWrite w r m g).openb = w.openb := by unfold vWrite; split <;> rfl
@[simp] theorem vWrite_fails (w : Warp) (r : Nat) (m : Mask) (g : Lane → Val) : (vWrite w r m g).fails = w.fails := by unfold vWrite; split <;> rfl
@[simp] theorem vWrite_mvfail (w : Warp) (r : Nat) (m : Mask) (g : Lane → Val) : (vWrite w r m g).mvfail = w.mvfail := by unfold vWrite; split <;> rfl
@[simp] theorem vWrite_waits (w : Warp) (r : Nat) (m : Mask) (g : Lane → Val) : (vWrite w r m g).waits = w.waits := by unfold vWrite; split <;> rfl
@[simp] theorem vWrite_parks (w : Warp) (r : Nat) (m : Mask) (g : Lane → Val) : (vWrite w r m g).parks = w.parks := by unfold vWrite; split <;> rfl
@[simp] theorem vWrite_denied (w : Warp) (r : Nat) (m : Mask) (g : Lane → Val) : (vWrite w r m g).denied = w.denied := by unfold vWrite; split <;> rfl
@[simp] theorem vWrite_spilled (w : Warp) (r : Nat) (m : Mask) (g : Lane → Val) : (vWrite w r m g).spilled = w.spilled := by unfold vWrite; split <;> rfl
@[simp] theorem vWrite_alloc (w : Warp) (r : Nat) (m : Mask) (g : Lane → Val) : (vWrite w r m g).alloc = w.alloc := by unfold vWrite; split <;> rfl
@[simp] theorem vWrite_fpq (w : Warp) (r : Nat) (m : Mask) (g : Lane → Val) : (vWrite w r m g).fpq = w.fpq := by unfold vWrite; split <;> rfl
@[simp] theorem vWrite_run (w : Warp) (r : Nat) (m : Mask) (g : Lane → Val) : (vWrite w r m g).run = w.run := by unfold vWrite; split <;> rfl
@[simp] theorem vWrite_lastLead (w : Warp) (r : Nat) (m : Mask) (g : Lane → Val) : (vWrite w r m g).lastLead = w.lastLead := by unfold vWrite; split <;> rfl
@[simp] theorem vWrite_lastIssue (w : Warp) (r : Nat) (m : Mask) (g : Lane → Val) : (vWrite w r m g).lastIssue = w.lastIssue := by unfold vWrite; split <;> rfl
@[simp] theorem vWrite_waitc (w : Warp) (r : Nat) (m : Mask) (g : Lane → Val) : (vWrite w r m g).waitc = w.waitc := by unfold vWrite; split <;> rfl
@[simp] theorem vWrite_lastPrio (w : Warp) (r : Nat) (m : Mask) (g : Lane → Val) : (vWrite w r m g).lastPrio = w.lastPrio := by unfold vWrite; split <;> rfl
@[simp] theorem vWrite_forced (w : Warp) (r : Nat) (m : Mask) (g : Lane → Val) : (vWrite w r m g).forced = w.forced := by unfold vWrite; split <;> rfl
@[simp] theorem vWrite_readyAt (w : Warp) (r : Nat) (m : Mask) (g : Lane → Val) : (vWrite w r m g).readyAt = w.readyAt := by unfold vWrite; split <;> rfl

/-! vAwait. -/

@[simp] theorem vAwait_part (w : Warp) (r id : Nat) : (vAwait w r id).part = w.part := by unfold vAwait; rfl
@[simp] theorem vAwait_ctx (w : Warp) (r id : Nat) : (vAwait w r id).ctx = w.ctx := by unfold vAwait; rfl
@[simp] theorem vAwait_wg (w : Warp) (r id : Nat) : (vAwait w r id).wg = w.wg := by unfold vAwait; rfl
@[simp] theorem vAwait_seq (w : Warp) (r id : Nat) : (vAwait w r id).seq = w.seq := by unfold vAwait; rfl
@[simp] theorem vAwait_floor (w : Warp) (r id : Nat) : (vAwait w r id).floor = w.floor := by unfold vAwait; rfl
@[simp] theorem vAwait_lift (w : Warp) (r id : Nat) : (vAwait w r id).lift = w.lift := by unfold vAwait; rfl
@[simp] theorem vAwait_widx (w : Warp) (r id : Nat) : (vAwait w r id).widx = w.widx := by unfold vAwait; rfl
@[simp] theorem vAwait_tid (w : Warp) (r id : Nat) : (vAwait w r id).tid = w.tid := by unfold vAwait; rfl
@[simp] theorem vAwait_pc (w : Warp) (r id : Nat) : (vAwait w r id).pc = w.pc := by unfold vAwait; rfl
@[simp] theorem vAwait_s (w : Warp) (r id : Nat) : (vAwait w r id).s = w.s := by unfold vAwait; rfl
@[simp] theorem vAwait_p (w : Warp) (r id : Nat) : (vAwait w r id).p = w.p := by unfold vAwait; rfl
@[simp] theorem vAwait_conv (w : Warp) (r id : Nat) : (vAwait w r id).conv = w.conv := by unfold vAwait; rfl
@[simp] theorem vAwait_fpEn (w : Warp) (r id : Nat) : (vAwait w r id).fpEn = w.fpEn := by unfold vAwait; rfl
@[simp] theorem vAwait_fpFlags (w : Warp) (r id : Nat) : (vAwait w r id).fpFlags = w.fpFlags := by unfold vAwait; rfl
@[simp] theorem vAwait_ftz (w : Warp) (r id : Nat) : (vAwait w r id).ftz = w.ftz := by unfold vAwait; rfl
@[simp] theorem vAwait_rm (w : Warp) (r id : Nat) : (vAwait w r id).rm = w.rm := by unfold vAwait; rfl
@[simp] theorem vAwait_stale (w : Warp) (r id : Nat) : (vAwait w r id).stale = w.stale := by unfold vAwait; rfl
@[simp] theorem vAwait_intrap (w : Warp) (r id : Nat) : (vAwait w r id).intrap = w.intrap := by unfold vAwait; rfl
@[simp] theorem vAwait_xrec (w : Warp) (r id : Nat) : (vAwait w r id).xrec = w.xrec := by unfold vAwait; rfl
@[simp] theorem vAwait_trapvec (w : Warp) (r id : Nat) : (vAwait w r id).trapvec = w.trapvec := by unfold vAwait; rfl
@[simp] theorem vAwait_trappc (w : Warp) (r id : Nat) : (vAwait w r id).trappc = w.trappc := by unfold vAwait; rfl
@[simp] theorem vAwait_trapcause (w : Warp) (r id : Nat) : (vAwait w r id).trapcause = w.trapcause := by unfold vAwait; rfl
@[simp] theorem vAwait_tmask (w : Warp) (r id : Nat) : (vAwait w r id).tmask = w.tmask := by unfold vAwait; rfl
@[simp] theorem vAwait_refage (w : Warp) (r id : Nat) : (vAwait w r id).refage = w.refage := by unfold vAwait; rfl
@[simp] theorem vAwait_loops (w : Warp) (r id : Nat) : (vAwait w r id).loops = w.loops := by unfold vAwait; rfl
@[simp] theorem vAwait_tcfg (w : Warp) (r id : Nat) : (vAwait w r id).tcfg = w.tcfg := by unfold vAwait; rfl
@[simp] theorem vAwait_uivec (w : Warp) (r id : Nat) : (vAwait w r id).uivec = w.uivec := by unfold vAwait; rfl
@[simp] theorem vAwait_uiepc (w : Warp) (r id : Nat) : (vAwait w r id).uiepc = w.uiepc := by unfold vAwait; rfl
@[simp] theorem vAwait_uiin (w : Warp) (r id : Nat) : (vAwait w r id).uiin = w.uiin := by unfold vAwait; rfl
@[simp] theorem vAwait_uentry (w : Warp) (r id : Nat) : (vAwait w r id).uentry = w.uentry := by unfold vAwait; rfl
@[simp] theorem vAwait_claim (w : Warp) (r id : Nat) : (vAwait w r id).claim = w.claim := by unfold vAwait; rfl
@[simp] theorem vAwait_svclane (w : Warp) (r id : Nat) : (vAwait w r id).svclane = w.svclane := by unfold vAwait; rfl
@[simp] theorem vAwait_svcpend (w : Warp) (r id : Nat) : (vAwait w r id).svcpend = w.svcpend := by unfold vAwait; rfl
@[simp] theorem vAwait_arrived (w : Warp) (r id : Nat) : (vAwait w r id).arrived = w.arrived := by unfold vAwait; rfl
@[simp] theorem vAwait_barEdges (w : Warp) (r id : Nat) : (vAwait w r id).barEdges = w.barEdges := by unfold vAwait; rfl
@[simp] theorem vAwait_openb (w : Warp) (r id : Nat) : (vAwait w r id).openb = w.openb := by unfold vAwait; rfl
@[simp] theorem vAwait_fails (w : Warp) (r id : Nat) : (vAwait w r id).fails = w.fails := by unfold vAwait; rfl
@[simp] theorem vAwait_mvfail (w : Warp) (r id : Nat) : (vAwait w r id).mvfail = w.mvfail := by unfold vAwait; rfl
@[simp] theorem vAwait_waits (w : Warp) (r id : Nat) : (vAwait w r id).waits = w.waits := by unfold vAwait; rfl
@[simp] theorem vAwait_parks (w : Warp) (r id : Nat) : (vAwait w r id).parks = w.parks := by unfold vAwait; rfl
@[simp] theorem vAwait_denied (w : Warp) (r id : Nat) : (vAwait w r id).denied = w.denied := by unfold vAwait; rfl
@[simp] theorem vAwait_spilled (w : Warp) (r id : Nat) : (vAwait w r id).spilled = w.spilled := by unfold vAwait; rfl
@[simp] theorem vAwait_alloc (w : Warp) (r id : Nat) : (vAwait w r id).alloc = w.alloc := by unfold vAwait; rfl
@[simp] theorem vAwait_fpq (w : Warp) (r id : Nat) : (vAwait w r id).fpq = w.fpq := by unfold vAwait; rfl
@[simp] theorem vAwait_run (w : Warp) (r id : Nat) : (vAwait w r id).run = w.run := by unfold vAwait; rfl
@[simp] theorem vAwait_lastLead (w : Warp) (r id : Nat) : (vAwait w r id).lastLead = w.lastLead := by unfold vAwait; rfl
@[simp] theorem vAwait_lastIssue (w : Warp) (r id : Nat) : (vAwait w r id).lastIssue = w.lastIssue := by unfold vAwait; rfl
@[simp] theorem vAwait_waitc (w : Warp) (r id : Nat) : (vAwait w r id).waitc = w.waitc := by unfold vAwait; rfl
@[simp] theorem vAwait_lastPrio (w : Warp) (r id : Nat) : (vAwait w r id).lastPrio = w.lastPrio := by unfold vAwait; rfl
@[simp] theorem vAwait_forced (w : Warp) (r id : Nat) : (vAwait w r id).forced = w.forced := by unfold vAwait; rfl
@[simp] theorem vAwait_readyAt (w : Warp) (r id : Nat) : (vAwait w r id).readyAt = w.readyAt := by unfold vAwait; rfl

/-! sWrite. -/

@[simp] theorem sWrite_part (w : Warp) (n : Nat) (x : Val) : (sWrite w n x).part = w.part := by unfold sWrite; split <;> rfl
@[simp] theorem sWrite_ctx (w : Warp) (n : Nat) (x : Val) : (sWrite w n x).ctx = w.ctx := by unfold sWrite; split <;> rfl
@[simp] theorem sWrite_wg (w : Warp) (n : Nat) (x : Val) : (sWrite w n x).wg = w.wg := by unfold sWrite; split <;> rfl
@[simp] theorem sWrite_seq (w : Warp) (n : Nat) (x : Val) : (sWrite w n x).seq = w.seq := by unfold sWrite; split <;> rfl
@[simp] theorem sWrite_floor (w : Warp) (n : Nat) (x : Val) : (sWrite w n x).floor = w.floor := by unfold sWrite; split <;> rfl
@[simp] theorem sWrite_lift (w : Warp) (n : Nat) (x : Val) : (sWrite w n x).lift = w.lift := by unfold sWrite; split <;> rfl
@[simp] theorem sWrite_widx (w : Warp) (n : Nat) (x : Val) : (sWrite w n x).widx = w.widx := by unfold sWrite; split <;> rfl
@[simp] theorem sWrite_tid (w : Warp) (n : Nat) (x : Val) : (sWrite w n x).tid = w.tid := by unfold sWrite; split <;> rfl
@[simp] theorem sWrite_pc (w : Warp) (n : Nat) (x : Val) : (sWrite w n x).pc = w.pc := by unfold sWrite; split <;> rfl
@[simp] theorem sWrite_v (w : Warp) (n : Nat) (x : Val) : (sWrite w n x).v = w.v := by unfold sWrite; split <;> rfl
@[simp] theorem sWrite_deferred (w : Warp) (n : Nat) (x : Val) : (sWrite w n x).deferred = w.deferred := by unfold sWrite; split <;> rfl
@[simp] theorem sWrite_p (w : Warp) (n : Nat) (x : Val) : (sWrite w n x).p = w.p := by unfold sWrite; split <;> rfl
@[simp] theorem sWrite_conv (w : Warp) (n : Nat) (x : Val) : (sWrite w n x).conv = w.conv := by unfold sWrite; split <;> rfl
@[simp] theorem sWrite_fpEn (w : Warp) (n : Nat) (x : Val) : (sWrite w n x).fpEn = w.fpEn := by unfold sWrite; split <;> rfl
@[simp] theorem sWrite_fpFlags (w : Warp) (n : Nat) (x : Val) : (sWrite w n x).fpFlags = w.fpFlags := by unfold sWrite; split <;> rfl
@[simp] theorem sWrite_ftz (w : Warp) (n : Nat) (x : Val) : (sWrite w n x).ftz = w.ftz := by unfold sWrite; split <;> rfl
@[simp] theorem sWrite_rm (w : Warp) (n : Nat) (x : Val) : (sWrite w n x).rm = w.rm := by unfold sWrite; split <;> rfl
@[simp] theorem sWrite_stale (w : Warp) (n : Nat) (x : Val) : (sWrite w n x).stale = w.stale := by unfold sWrite; split <;> rfl
@[simp] theorem sWrite_intrap (w : Warp) (n : Nat) (x : Val) : (sWrite w n x).intrap = w.intrap := by unfold sWrite; split <;> rfl
@[simp] theorem sWrite_xrec (w : Warp) (n : Nat) (x : Val) : (sWrite w n x).xrec = w.xrec := by unfold sWrite; split <;> rfl
@[simp] theorem sWrite_trapvec (w : Warp) (n : Nat) (x : Val) : (sWrite w n x).trapvec = w.trapvec := by unfold sWrite; split <;> rfl
@[simp] theorem sWrite_trappc (w : Warp) (n : Nat) (x : Val) : (sWrite w n x).trappc = w.trappc := by unfold sWrite; split <;> rfl
@[simp] theorem sWrite_trapcause (w : Warp) (n : Nat) (x : Val) : (sWrite w n x).trapcause = w.trapcause := by unfold sWrite; split <;> rfl
@[simp] theorem sWrite_tmask (w : Warp) (n : Nat) (x : Val) : (sWrite w n x).tmask = w.tmask := by unfold sWrite; split <;> rfl
@[simp] theorem sWrite_refage (w : Warp) (n : Nat) (x : Val) : (sWrite w n x).refage = w.refage := by unfold sWrite; split <;> rfl
@[simp] theorem sWrite_loops (w : Warp) (n : Nat) (x : Val) : (sWrite w n x).loops = w.loops := by unfold sWrite; split <;> rfl
@[simp] theorem sWrite_tcfg (w : Warp) (n : Nat) (x : Val) : (sWrite w n x).tcfg = w.tcfg := by unfold sWrite; split <;> rfl
@[simp] theorem sWrite_uivec (w : Warp) (n : Nat) (x : Val) : (sWrite w n x).uivec = w.uivec := by unfold sWrite; split <;> rfl
@[simp] theorem sWrite_uiepc (w : Warp) (n : Nat) (x : Val) : (sWrite w n x).uiepc = w.uiepc := by unfold sWrite; split <;> rfl
@[simp] theorem sWrite_uiin (w : Warp) (n : Nat) (x : Val) : (sWrite w n x).uiin = w.uiin := by unfold sWrite; split <;> rfl
@[simp] theorem sWrite_uentry (w : Warp) (n : Nat) (x : Val) : (sWrite w n x).uentry = w.uentry := by unfold sWrite; split <;> rfl
@[simp] theorem sWrite_claim (w : Warp) (n : Nat) (x : Val) : (sWrite w n x).claim = w.claim := by unfold sWrite; split <;> rfl
@[simp] theorem sWrite_svclane (w : Warp) (n : Nat) (x : Val) : (sWrite w n x).svclane = w.svclane := by unfold sWrite; split <;> rfl
@[simp] theorem sWrite_svcpend (w : Warp) (n : Nat) (x : Val) : (sWrite w n x).svcpend = w.svcpend := by unfold sWrite; split <;> rfl
@[simp] theorem sWrite_arrived (w : Warp) (n : Nat) (x : Val) : (sWrite w n x).arrived = w.arrived := by unfold sWrite; split <;> rfl
@[simp] theorem sWrite_barEdges (w : Warp) (n : Nat) (x : Val) : (sWrite w n x).barEdges = w.barEdges := by unfold sWrite; split <;> rfl
@[simp] theorem sWrite_openb (w : Warp) (n : Nat) (x : Val) : (sWrite w n x).openb = w.openb := by unfold sWrite; split <;> rfl
@[simp] theorem sWrite_fails (w : Warp) (n : Nat) (x : Val) : (sWrite w n x).fails = w.fails := by unfold sWrite; split <;> rfl
@[simp] theorem sWrite_mvfail (w : Warp) (n : Nat) (x : Val) : (sWrite w n x).mvfail = w.mvfail := by unfold sWrite; split <;> rfl
@[simp] theorem sWrite_waits (w : Warp) (n : Nat) (x : Val) : (sWrite w n x).waits = w.waits := by unfold sWrite; split <;> rfl
@[simp] theorem sWrite_parks (w : Warp) (n : Nat) (x : Val) : (sWrite w n x).parks = w.parks := by unfold sWrite; split <;> rfl
@[simp] theorem sWrite_denied (w : Warp) (n : Nat) (x : Val) : (sWrite w n x).denied = w.denied := by unfold sWrite; split <;> rfl
@[simp] theorem sWrite_spilled (w : Warp) (n : Nat) (x : Val) : (sWrite w n x).spilled = w.spilled := by unfold sWrite; split <;> rfl
@[simp] theorem sWrite_alloc (w : Warp) (n : Nat) (x : Val) : (sWrite w n x).alloc = w.alloc := by unfold sWrite; split <;> rfl
@[simp] theorem sWrite_fpq (w : Warp) (n : Nat) (x : Val) : (sWrite w n x).fpq = w.fpq := by unfold sWrite; split <;> rfl
@[simp] theorem sWrite_run (w : Warp) (n : Nat) (x : Val) : (sWrite w n x).run = w.run := by unfold sWrite; split <;> rfl
@[simp] theorem sWrite_lastLead (w : Warp) (n : Nat) (x : Val) : (sWrite w n x).lastLead = w.lastLead := by unfold sWrite; split <;> rfl
@[simp] theorem sWrite_lastIssue (w : Warp) (n : Nat) (x : Val) : (sWrite w n x).lastIssue = w.lastIssue := by unfold sWrite; split <;> rfl
@[simp] theorem sWrite_waitc (w : Warp) (n : Nat) (x : Val) : (sWrite w n x).waitc = w.waitc := by unfold sWrite; split <;> rfl
@[simp] theorem sWrite_lastPrio (w : Warp) (n : Nat) (x : Val) : (sWrite w n x).lastPrio = w.lastPrio := by unfold sWrite; split <;> rfl
@[simp] theorem sWrite_forced (w : Warp) (n : Nat) (x : Val) : (sWrite w n x).forced = w.forced := by unfold sWrite; split <;> rfl
@[simp] theorem sWrite_readyAt (w : Warp) (n : Nat) (x : Val) : (sWrite w n x).readyAt = w.readyAt := by unfold sWrite; split <;> rfl

/-! sAwait. -/

@[simp] theorem sAwait_part (w : Warp) (n id : Nat) : (sAwait w n id).part = w.part := by unfold sAwait; split <;> rfl
@[simp] theorem sAwait_ctx (w : Warp) (n id : Nat) : (sAwait w n id).ctx = w.ctx := by unfold sAwait; split <;> rfl
@[simp] theorem sAwait_wg (w : Warp) (n id : Nat) : (sAwait w n id).wg = w.wg := by unfold sAwait; split <;> rfl
@[simp] theorem sAwait_seq (w : Warp) (n id : Nat) : (sAwait w n id).seq = w.seq := by unfold sAwait; split <;> rfl
@[simp] theorem sAwait_floor (w : Warp) (n id : Nat) : (sAwait w n id).floor = w.floor := by unfold sAwait; split <;> rfl
@[simp] theorem sAwait_lift (w : Warp) (n id : Nat) : (sAwait w n id).lift = w.lift := by unfold sAwait; split <;> rfl
@[simp] theorem sAwait_widx (w : Warp) (n id : Nat) : (sAwait w n id).widx = w.widx := by unfold sAwait; split <;> rfl
@[simp] theorem sAwait_tid (w : Warp) (n id : Nat) : (sAwait w n id).tid = w.tid := by unfold sAwait; split <;> rfl
@[simp] theorem sAwait_pc (w : Warp) (n id : Nat) : (sAwait w n id).pc = w.pc := by unfold sAwait; split <;> rfl
@[simp] theorem sAwait_v (w : Warp) (n id : Nat) : (sAwait w n id).v = w.v := by unfold sAwait; split <;> rfl
@[simp] theorem sAwait_deferred (w : Warp) (n id : Nat) : (sAwait w n id).deferred = w.deferred := by unfold sAwait; split <;> rfl
@[simp] theorem sAwait_p (w : Warp) (n id : Nat) : (sAwait w n id).p = w.p := by unfold sAwait; split <;> rfl
@[simp] theorem sAwait_conv (w : Warp) (n id : Nat) : (sAwait w n id).conv = w.conv := by unfold sAwait; split <;> rfl
@[simp] theorem sAwait_fpEn (w : Warp) (n id : Nat) : (sAwait w n id).fpEn = w.fpEn := by unfold sAwait; split <;> rfl
@[simp] theorem sAwait_fpFlags (w : Warp) (n id : Nat) : (sAwait w n id).fpFlags = w.fpFlags := by unfold sAwait; split <;> rfl
@[simp] theorem sAwait_ftz (w : Warp) (n id : Nat) : (sAwait w n id).ftz = w.ftz := by unfold sAwait; split <;> rfl
@[simp] theorem sAwait_rm (w : Warp) (n id : Nat) : (sAwait w n id).rm = w.rm := by unfold sAwait; split <;> rfl
@[simp] theorem sAwait_stale (w : Warp) (n id : Nat) : (sAwait w n id).stale = w.stale := by unfold sAwait; split <;> rfl
@[simp] theorem sAwait_intrap (w : Warp) (n id : Nat) : (sAwait w n id).intrap = w.intrap := by unfold sAwait; split <;> rfl
@[simp] theorem sAwait_xrec (w : Warp) (n id : Nat) : (sAwait w n id).xrec = w.xrec := by unfold sAwait; split <;> rfl
@[simp] theorem sAwait_trapvec (w : Warp) (n id : Nat) : (sAwait w n id).trapvec = w.trapvec := by unfold sAwait; split <;> rfl
@[simp] theorem sAwait_trappc (w : Warp) (n id : Nat) : (sAwait w n id).trappc = w.trappc := by unfold sAwait; split <;> rfl
@[simp] theorem sAwait_trapcause (w : Warp) (n id : Nat) : (sAwait w n id).trapcause = w.trapcause := by unfold sAwait; split <;> rfl
@[simp] theorem sAwait_tmask (w : Warp) (n id : Nat) : (sAwait w n id).tmask = w.tmask := by unfold sAwait; split <;> rfl
@[simp] theorem sAwait_refage (w : Warp) (n id : Nat) : (sAwait w n id).refage = w.refage := by unfold sAwait; split <;> rfl
@[simp] theorem sAwait_loops (w : Warp) (n id : Nat) : (sAwait w n id).loops = w.loops := by unfold sAwait; split <;> rfl
@[simp] theorem sAwait_tcfg (w : Warp) (n id : Nat) : (sAwait w n id).tcfg = w.tcfg := by unfold sAwait; split <;> rfl
@[simp] theorem sAwait_uivec (w : Warp) (n id : Nat) : (sAwait w n id).uivec = w.uivec := by unfold sAwait; split <;> rfl
@[simp] theorem sAwait_uiepc (w : Warp) (n id : Nat) : (sAwait w n id).uiepc = w.uiepc := by unfold sAwait; split <;> rfl
@[simp] theorem sAwait_uiin (w : Warp) (n id : Nat) : (sAwait w n id).uiin = w.uiin := by unfold sAwait; split <;> rfl
@[simp] theorem sAwait_uentry (w : Warp) (n id : Nat) : (sAwait w n id).uentry = w.uentry := by unfold sAwait; split <;> rfl
@[simp] theorem sAwait_claim (w : Warp) (n id : Nat) : (sAwait w n id).claim = w.claim := by unfold sAwait; split <;> rfl
@[simp] theorem sAwait_svclane (w : Warp) (n id : Nat) : (sAwait w n id).svclane = w.svclane := by unfold sAwait; split <;> rfl
@[simp] theorem sAwait_svcpend (w : Warp) (n id : Nat) : (sAwait w n id).svcpend = w.svcpend := by unfold sAwait; split <;> rfl
@[simp] theorem sAwait_arrived (w : Warp) (n id : Nat) : (sAwait w n id).arrived = w.arrived := by unfold sAwait; split <;> rfl
@[simp] theorem sAwait_barEdges (w : Warp) (n id : Nat) : (sAwait w n id).barEdges = w.barEdges := by unfold sAwait; split <;> rfl
@[simp] theorem sAwait_openb (w : Warp) (n id : Nat) : (sAwait w n id).openb = w.openb := by unfold sAwait; split <;> rfl
@[simp] theorem sAwait_fails (w : Warp) (n id : Nat) : (sAwait w n id).fails = w.fails := by unfold sAwait; split <;> rfl
@[simp] theorem sAwait_mvfail (w : Warp) (n id : Nat) : (sAwait w n id).mvfail = w.mvfail := by unfold sAwait; split <;> rfl
@[simp] theorem sAwait_waits (w : Warp) (n id : Nat) : (sAwait w n id).waits = w.waits := by unfold sAwait; split <;> rfl
@[simp] theorem sAwait_parks (w : Warp) (n id : Nat) : (sAwait w n id).parks = w.parks := by unfold sAwait; split <;> rfl
@[simp] theorem sAwait_denied (w : Warp) (n id : Nat) : (sAwait w n id).denied = w.denied := by unfold sAwait; split <;> rfl
@[simp] theorem sAwait_spilled (w : Warp) (n id : Nat) : (sAwait w n id).spilled = w.spilled := by unfold sAwait; split <;> rfl
@[simp] theorem sAwait_alloc (w : Warp) (n id : Nat) : (sAwait w n id).alloc = w.alloc := by unfold sAwait; split <;> rfl
@[simp] theorem sAwait_fpq (w : Warp) (n id : Nat) : (sAwait w n id).fpq = w.fpq := by unfold sAwait; split <;> rfl
@[simp] theorem sAwait_run (w : Warp) (n id : Nat) : (sAwait w n id).run = w.run := by unfold sAwait; split <;> rfl
@[simp] theorem sAwait_lastLead (w : Warp) (n id : Nat) : (sAwait w n id).lastLead = w.lastLead := by unfold sAwait; split <;> rfl
@[simp] theorem sAwait_lastIssue (w : Warp) (n id : Nat) : (sAwait w n id).lastIssue = w.lastIssue := by unfold sAwait; split <;> rfl
@[simp] theorem sAwait_waitc (w : Warp) (n id : Nat) : (sAwait w n id).waitc = w.waitc := by unfold sAwait; split <;> rfl
@[simp] theorem sAwait_lastPrio (w : Warp) (n id : Nat) : (sAwait w n id).lastPrio = w.lastPrio := by unfold sAwait; split <;> rfl
@[simp] theorem sAwait_forced (w : Warp) (n id : Nat) : (sAwait w n id).forced = w.forced := by unfold sAwait; split <;> rfl
@[simp] theorem sAwait_readyAt (w : Warp) (n id : Nat) : (sAwait w n id).readyAt = w.readyAt := by unfold sAwait; split <;> rfl

/-! pWrite. -/

@[simp] theorem pWrite_part (w : Warp) (n : Nat) (m x : Mask) : (pWrite w n m x).part = w.part := by unfold pWrite; split <;> rfl
@[simp] theorem pWrite_ctx (w : Warp) (n : Nat) (m x : Mask) : (pWrite w n m x).ctx = w.ctx := by unfold pWrite; split <;> rfl
@[simp] theorem pWrite_wg (w : Warp) (n : Nat) (m x : Mask) : (pWrite w n m x).wg = w.wg := by unfold pWrite; split <;> rfl
@[simp] theorem pWrite_seq (w : Warp) (n : Nat) (m x : Mask) : (pWrite w n m x).seq = w.seq := by unfold pWrite; split <;> rfl
@[simp] theorem pWrite_floor (w : Warp) (n : Nat) (m x : Mask) : (pWrite w n m x).floor = w.floor := by unfold pWrite; split <;> rfl
@[simp] theorem pWrite_lift (w : Warp) (n : Nat) (m x : Mask) : (pWrite w n m x).lift = w.lift := by unfold pWrite; split <;> rfl
@[simp] theorem pWrite_widx (w : Warp) (n : Nat) (m x : Mask) : (pWrite w n m x).widx = w.widx := by unfold pWrite; split <;> rfl
@[simp] theorem pWrite_tid (w : Warp) (n : Nat) (m x : Mask) : (pWrite w n m x).tid = w.tid := by unfold pWrite; split <;> rfl
@[simp] theorem pWrite_pc (w : Warp) (n : Nat) (m x : Mask) : (pWrite w n m x).pc = w.pc := by unfold pWrite; split <;> rfl
@[simp] theorem pWrite_v (w : Warp) (n : Nat) (m x : Mask) : (pWrite w n m x).v = w.v := by unfold pWrite; split <;> rfl
@[simp] theorem pWrite_deferred (w : Warp) (n : Nat) (m x : Mask) : (pWrite w n m x).deferred = w.deferred := by unfold pWrite; split <;> rfl
@[simp] theorem pWrite_s (w : Warp) (n : Nat) (m x : Mask) : (pWrite w n m x).s = w.s := by unfold pWrite; split <;> rfl
@[simp] theorem pWrite_conv (w : Warp) (n : Nat) (m x : Mask) : (pWrite w n m x).conv = w.conv := by unfold pWrite; split <;> rfl
@[simp] theorem pWrite_fpEn (w : Warp) (n : Nat) (m x : Mask) : (pWrite w n m x).fpEn = w.fpEn := by unfold pWrite; split <;> rfl
@[simp] theorem pWrite_fpFlags (w : Warp) (n : Nat) (m x : Mask) : (pWrite w n m x).fpFlags = w.fpFlags := by unfold pWrite; split <;> rfl
@[simp] theorem pWrite_ftz (w : Warp) (n : Nat) (m x : Mask) : (pWrite w n m x).ftz = w.ftz := by unfold pWrite; split <;> rfl
@[simp] theorem pWrite_rm (w : Warp) (n : Nat) (m x : Mask) : (pWrite w n m x).rm = w.rm := by unfold pWrite; split <;> rfl
@[simp] theorem pWrite_stale (w : Warp) (n : Nat) (m x : Mask) : (pWrite w n m x).stale = w.stale := by unfold pWrite; split <;> rfl
@[simp] theorem pWrite_intrap (w : Warp) (n : Nat) (m x : Mask) : (pWrite w n m x).intrap = w.intrap := by unfold pWrite; split <;> rfl
@[simp] theorem pWrite_xrec (w : Warp) (n : Nat) (m x : Mask) : (pWrite w n m x).xrec = w.xrec := by unfold pWrite; split <;> rfl
@[simp] theorem pWrite_trapvec (w : Warp) (n : Nat) (m x : Mask) : (pWrite w n m x).trapvec = w.trapvec := by unfold pWrite; split <;> rfl
@[simp] theorem pWrite_trappc (w : Warp) (n : Nat) (m x : Mask) : (pWrite w n m x).trappc = w.trappc := by unfold pWrite; split <;> rfl
@[simp] theorem pWrite_trapcause (w : Warp) (n : Nat) (m x : Mask) : (pWrite w n m x).trapcause = w.trapcause := by unfold pWrite; split <;> rfl
@[simp] theorem pWrite_tmask (w : Warp) (n : Nat) (m x : Mask) : (pWrite w n m x).tmask = w.tmask := by unfold pWrite; split <;> rfl
@[simp] theorem pWrite_refage (w : Warp) (n : Nat) (m x : Mask) : (pWrite w n m x).refage = w.refage := by unfold pWrite; split <;> rfl
@[simp] theorem pWrite_loops (w : Warp) (n : Nat) (m x : Mask) : (pWrite w n m x).loops = w.loops := by unfold pWrite; split <;> rfl
@[simp] theorem pWrite_tcfg (w : Warp) (n : Nat) (m x : Mask) : (pWrite w n m x).tcfg = w.tcfg := by unfold pWrite; split <;> rfl
@[simp] theorem pWrite_uivec (w : Warp) (n : Nat) (m x : Mask) : (pWrite w n m x).uivec = w.uivec := by unfold pWrite; split <;> rfl
@[simp] theorem pWrite_uiepc (w : Warp) (n : Nat) (m x : Mask) : (pWrite w n m x).uiepc = w.uiepc := by unfold pWrite; split <;> rfl
@[simp] theorem pWrite_uiin (w : Warp) (n : Nat) (m x : Mask) : (pWrite w n m x).uiin = w.uiin := by unfold pWrite; split <;> rfl
@[simp] theorem pWrite_uentry (w : Warp) (n : Nat) (m x : Mask) : (pWrite w n m x).uentry = w.uentry := by unfold pWrite; split <;> rfl
@[simp] theorem pWrite_claim (w : Warp) (n : Nat) (m x : Mask) : (pWrite w n m x).claim = w.claim := by unfold pWrite; split <;> rfl
@[simp] theorem pWrite_svclane (w : Warp) (n : Nat) (m x : Mask) : (pWrite w n m x).svclane = w.svclane := by unfold pWrite; split <;> rfl
@[simp] theorem pWrite_svcpend (w : Warp) (n : Nat) (m x : Mask) : (pWrite w n m x).svcpend = w.svcpend := by unfold pWrite; split <;> rfl
@[simp] theorem pWrite_arrived (w : Warp) (n : Nat) (m x : Mask) : (pWrite w n m x).arrived = w.arrived := by unfold pWrite; split <;> rfl
@[simp] theorem pWrite_barEdges (w : Warp) (n : Nat) (m x : Mask) : (pWrite w n m x).barEdges = w.barEdges := by unfold pWrite; split <;> rfl
@[simp] theorem pWrite_openb (w : Warp) (n : Nat) (m x : Mask) : (pWrite w n m x).openb = w.openb := by unfold pWrite; split <;> rfl
@[simp] theorem pWrite_fails (w : Warp) (n : Nat) (m x : Mask) : (pWrite w n m x).fails = w.fails := by unfold pWrite; split <;> rfl
@[simp] theorem pWrite_mvfail (w : Warp) (n : Nat) (m x : Mask) : (pWrite w n m x).mvfail = w.mvfail := by unfold pWrite; split <;> rfl
@[simp] theorem pWrite_waits (w : Warp) (n : Nat) (m x : Mask) : (pWrite w n m x).waits = w.waits := by unfold pWrite; split <;> rfl
@[simp] theorem pWrite_parks (w : Warp) (n : Nat) (m x : Mask) : (pWrite w n m x).parks = w.parks := by unfold pWrite; split <;> rfl
@[simp] theorem pWrite_denied (w : Warp) (n : Nat) (m x : Mask) : (pWrite w n m x).denied = w.denied := by unfold pWrite; split <;> rfl
@[simp] theorem pWrite_spilled (w : Warp) (n : Nat) (m x : Mask) : (pWrite w n m x).spilled = w.spilled := by unfold pWrite; split <;> rfl
@[simp] theorem pWrite_alloc (w : Warp) (n : Nat) (m x : Mask) : (pWrite w n m x).alloc = w.alloc := by unfold pWrite; split <;> rfl
@[simp] theorem pWrite_fpq (w : Warp) (n : Nat) (m x : Mask) : (pWrite w n m x).fpq = w.fpq := by unfold pWrite; split <;> rfl
@[simp] theorem pWrite_run (w : Warp) (n : Nat) (m x : Mask) : (pWrite w n m x).run = w.run := by unfold pWrite; split <;> rfl
@[simp] theorem pWrite_lastLead (w : Warp) (n : Nat) (m x : Mask) : (pWrite w n m x).lastLead = w.lastLead := by unfold pWrite; split <;> rfl
@[simp] theorem pWrite_lastIssue (w : Warp) (n : Nat) (m x : Mask) : (pWrite w n m x).lastIssue = w.lastIssue := by unfold pWrite; split <;> rfl
@[simp] theorem pWrite_waitc (w : Warp) (n : Nat) (m x : Mask) : (pWrite w n m x).waitc = w.waitc := by unfold pWrite; split <;> rfl
@[simp] theorem pWrite_lastPrio (w : Warp) (n : Nat) (m x : Mask) : (pWrite w n m x).lastPrio = w.lastPrio := by unfold pWrite; split <;> rfl
@[simp] theorem pWrite_forced (w : Warp) (n : Nat) (m x : Mask) : (pWrite w n m x).forced = w.forced := by unfold pWrite; split <;> rfl
@[simp] theorem pWrite_readyAt (w : Warp) (n : Nat) (m x : Mask) : (pWrite w n m x).readyAt = w.readyAt := by unfold pWrite; split <;> rfl

/-! unmap. -/

@[simp] theorem unmap_part (w : Warp) (rs : List Nat) : (unmap w rs).part = w.part := by unfold unmap; rfl
@[simp] theorem unmap_ctx (w : Warp) (rs : List Nat) : (unmap w rs).ctx = w.ctx := by unfold unmap; rfl
@[simp] theorem unmap_wg (w : Warp) (rs : List Nat) : (unmap w rs).wg = w.wg := by unfold unmap; rfl
@[simp] theorem unmap_seq (w : Warp) (rs : List Nat) : (unmap w rs).seq = w.seq := by unfold unmap; rfl
@[simp] theorem unmap_floor (w : Warp) (rs : List Nat) : (unmap w rs).floor = w.floor := by unfold unmap; rfl
@[simp] theorem unmap_lift (w : Warp) (rs : List Nat) : (unmap w rs).lift = w.lift := by unfold unmap; rfl
@[simp] theorem unmap_widx (w : Warp) (rs : List Nat) : (unmap w rs).widx = w.widx := by unfold unmap; rfl
@[simp] theorem unmap_tid (w : Warp) (rs : List Nat) : (unmap w rs).tid = w.tid := by unfold unmap; rfl
@[simp] theorem unmap_pc (w : Warp) (rs : List Nat) : (unmap w rs).pc = w.pc := by unfold unmap; rfl
@[simp] theorem unmap_deferred (w : Warp) (rs : List Nat) : (unmap w rs).deferred = w.deferred := by unfold unmap; rfl
@[simp] theorem unmap_s (w : Warp) (rs : List Nat) : (unmap w rs).s = w.s := by unfold unmap; rfl
@[simp] theorem unmap_p (w : Warp) (rs : List Nat) : (unmap w rs).p = w.p := by unfold unmap; rfl
@[simp] theorem unmap_conv (w : Warp) (rs : List Nat) : (unmap w rs).conv = w.conv := by unfold unmap; rfl
@[simp] theorem unmap_fpEn (w : Warp) (rs : List Nat) : (unmap w rs).fpEn = w.fpEn := by unfold unmap; rfl
@[simp] theorem unmap_fpFlags (w : Warp) (rs : List Nat) : (unmap w rs).fpFlags = w.fpFlags := by unfold unmap; rfl
@[simp] theorem unmap_ftz (w : Warp) (rs : List Nat) : (unmap w rs).ftz = w.ftz := by unfold unmap; rfl
@[simp] theorem unmap_rm (w : Warp) (rs : List Nat) : (unmap w rs).rm = w.rm := by unfold unmap; rfl
@[simp] theorem unmap_stale (w : Warp) (rs : List Nat) : (unmap w rs).stale = w.stale := by unfold unmap; rfl
@[simp] theorem unmap_intrap (w : Warp) (rs : List Nat) : (unmap w rs).intrap = w.intrap := by unfold unmap; rfl
@[simp] theorem unmap_xrec (w : Warp) (rs : List Nat) : (unmap w rs).xrec = w.xrec := by unfold unmap; rfl
@[simp] theorem unmap_trapvec (w : Warp) (rs : List Nat) : (unmap w rs).trapvec = w.trapvec := by unfold unmap; rfl
@[simp] theorem unmap_trappc (w : Warp) (rs : List Nat) : (unmap w rs).trappc = w.trappc := by unfold unmap; rfl
@[simp] theorem unmap_trapcause (w : Warp) (rs : List Nat) : (unmap w rs).trapcause = w.trapcause := by unfold unmap; rfl
@[simp] theorem unmap_tmask (w : Warp) (rs : List Nat) : (unmap w rs).tmask = w.tmask := by unfold unmap; rfl
@[simp] theorem unmap_refage (w : Warp) (rs : List Nat) : (unmap w rs).refage = w.refage := by unfold unmap; rfl
@[simp] theorem unmap_loops (w : Warp) (rs : List Nat) : (unmap w rs).loops = w.loops := by unfold unmap; rfl
@[simp] theorem unmap_tcfg (w : Warp) (rs : List Nat) : (unmap w rs).tcfg = w.tcfg := by unfold unmap; rfl
@[simp] theorem unmap_uivec (w : Warp) (rs : List Nat) : (unmap w rs).uivec = w.uivec := by unfold unmap; rfl
@[simp] theorem unmap_uiepc (w : Warp) (rs : List Nat) : (unmap w rs).uiepc = w.uiepc := by unfold unmap; rfl
@[simp] theorem unmap_uiin (w : Warp) (rs : List Nat) : (unmap w rs).uiin = w.uiin := by unfold unmap; rfl
@[simp] theorem unmap_uentry (w : Warp) (rs : List Nat) : (unmap w rs).uentry = w.uentry := by unfold unmap; rfl
@[simp] theorem unmap_claim (w : Warp) (rs : List Nat) : (unmap w rs).claim = w.claim := by unfold unmap; rfl
@[simp] theorem unmap_svclane (w : Warp) (rs : List Nat) : (unmap w rs).svclane = w.svclane := by unfold unmap; rfl
@[simp] theorem unmap_svcpend (w : Warp) (rs : List Nat) : (unmap w rs).svcpend = w.svcpend := by unfold unmap; rfl
@[simp] theorem unmap_arrived (w : Warp) (rs : List Nat) : (unmap w rs).arrived = w.arrived := by unfold unmap; rfl
@[simp] theorem unmap_barEdges (w : Warp) (rs : List Nat) : (unmap w rs).barEdges = w.barEdges := by unfold unmap; rfl
@[simp] theorem unmap_openb (w : Warp) (rs : List Nat) : (unmap w rs).openb = w.openb := by unfold unmap; rfl
@[simp] theorem unmap_fails (w : Warp) (rs : List Nat) : (unmap w rs).fails = w.fails := by unfold unmap; rfl
@[simp] theorem unmap_mvfail (w : Warp) (rs : List Nat) : (unmap w rs).mvfail = w.mvfail := by unfold unmap; rfl
@[simp] theorem unmap_waits (w : Warp) (rs : List Nat) : (unmap w rs).waits = w.waits := by unfold unmap; rfl
@[simp] theorem unmap_parks (w : Warp) (rs : List Nat) : (unmap w rs).parks = w.parks := by unfold unmap; rfl
@[simp] theorem unmap_denied (w : Warp) (rs : List Nat) : (unmap w rs).denied = w.denied := by unfold unmap; rfl
@[simp] theorem unmap_spilled (w : Warp) (rs : List Nat) : (unmap w rs).spilled = w.spilled := by unfold unmap; rfl
@[simp] theorem unmap_alloc (w : Warp) (rs : List Nat) : (unmap w rs).alloc = w.alloc := by unfold unmap; rfl
@[simp] theorem unmap_fpq (w : Warp) (rs : List Nat) : (unmap w rs).fpq = w.fpq := by unfold unmap; rfl
@[simp] theorem unmap_run (w : Warp) (rs : List Nat) : (unmap w rs).run = w.run := by unfold unmap; rfl
@[simp] theorem unmap_lastLead (w : Warp) (rs : List Nat) : (unmap w rs).lastLead = w.lastLead := by unfold unmap; rfl
@[simp] theorem unmap_lastIssue (w : Warp) (rs : List Nat) : (unmap w rs).lastIssue = w.lastIssue := by unfold unmap; rfl
@[simp] theorem unmap_waitc (w : Warp) (rs : List Nat) : (unmap w rs).waitc = w.waitc := by unfold unmap; rfl
@[simp] theorem unmap_lastPrio (w : Warp) (rs : List Nat) : (unmap w rs).lastPrio = w.lastPrio := by unfold unmap; rfl
@[simp] theorem unmap_forced (w : Warp) (rs : List Nat) : (unmap w rs).forced = w.forced := by unfold unmap; rfl
@[simp] theorem unmap_readyAt (w : Warp) (rs : List Nat) : (unmap w rs).readyAt = w.readyAt := by unfold unmap; rfl

/-! release. -/

@[simp] theorem release_part (w : Warp) (b : Bool) (rs ds : List Nat) : (release w b rs ds).part = w.part := by unfold release; split <;> rfl
@[simp] theorem release_ctx (w : Warp) (b : Bool) (rs ds : List Nat) : (release w b rs ds).ctx = w.ctx := by unfold release; split <;> rfl
@[simp] theorem release_wg (w : Warp) (b : Bool) (rs ds : List Nat) : (release w b rs ds).wg = w.wg := by unfold release; split <;> rfl
@[simp] theorem release_seq (w : Warp) (b : Bool) (rs ds : List Nat) : (release w b rs ds).seq = w.seq := by unfold release; split <;> rfl
@[simp] theorem release_floor (w : Warp) (b : Bool) (rs ds : List Nat) : (release w b rs ds).floor = w.floor := by unfold release; split <;> rfl
@[simp] theorem release_lift (w : Warp) (b : Bool) (rs ds : List Nat) : (release w b rs ds).lift = w.lift := by unfold release; split <;> rfl
@[simp] theorem release_widx (w : Warp) (b : Bool) (rs ds : List Nat) : (release w b rs ds).widx = w.widx := by unfold release; split <;> rfl
@[simp] theorem release_tid (w : Warp) (b : Bool) (rs ds : List Nat) : (release w b rs ds).tid = w.tid := by unfold release; split <;> rfl
@[simp] theorem release_pc (w : Warp) (b : Bool) (rs ds : List Nat) : (release w b rs ds).pc = w.pc := by unfold release; split <;> rfl
@[simp] theorem release_s (w : Warp) (b : Bool) (rs ds : List Nat) : (release w b rs ds).s = w.s := by unfold release; split <;> rfl
@[simp] theorem release_p (w : Warp) (b : Bool) (rs ds : List Nat) : (release w b rs ds).p = w.p := by unfold release; split <;> rfl
@[simp] theorem release_conv (w : Warp) (b : Bool) (rs ds : List Nat) : (release w b rs ds).conv = w.conv := by unfold release; split <;> rfl
@[simp] theorem release_fpEn (w : Warp) (b : Bool) (rs ds : List Nat) : (release w b rs ds).fpEn = w.fpEn := by unfold release; split <;> rfl
@[simp] theorem release_fpFlags (w : Warp) (b : Bool) (rs ds : List Nat) : (release w b rs ds).fpFlags = w.fpFlags := by unfold release; split <;> rfl
@[simp] theorem release_ftz (w : Warp) (b : Bool) (rs ds : List Nat) : (release w b rs ds).ftz = w.ftz := by unfold release; split <;> rfl
@[simp] theorem release_rm (w : Warp) (b : Bool) (rs ds : List Nat) : (release w b rs ds).rm = w.rm := by unfold release; split <;> rfl
@[simp] theorem release_stale (w : Warp) (b : Bool) (rs ds : List Nat) : (release w b rs ds).stale = w.stale := by unfold release; split <;> rfl
@[simp] theorem release_intrap (w : Warp) (b : Bool) (rs ds : List Nat) : (release w b rs ds).intrap = w.intrap := by unfold release; split <;> rfl
@[simp] theorem release_xrec (w : Warp) (b : Bool) (rs ds : List Nat) : (release w b rs ds).xrec = w.xrec := by unfold release; split <;> rfl
@[simp] theorem release_trapvec (w : Warp) (b : Bool) (rs ds : List Nat) : (release w b rs ds).trapvec = w.trapvec := by unfold release; split <;> rfl
@[simp] theorem release_trappc (w : Warp) (b : Bool) (rs ds : List Nat) : (release w b rs ds).trappc = w.trappc := by unfold release; split <;> rfl
@[simp] theorem release_trapcause (w : Warp) (b : Bool) (rs ds : List Nat) : (release w b rs ds).trapcause = w.trapcause := by unfold release; split <;> rfl
@[simp] theorem release_tmask (w : Warp) (b : Bool) (rs ds : List Nat) : (release w b rs ds).tmask = w.tmask := by unfold release; split <;> rfl
@[simp] theorem release_refage (w : Warp) (b : Bool) (rs ds : List Nat) : (release w b rs ds).refage = w.refage := by unfold release; split <;> rfl
@[simp] theorem release_loops (w : Warp) (b : Bool) (rs ds : List Nat) : (release w b rs ds).loops = w.loops := by unfold release; split <;> rfl
@[simp] theorem release_tcfg (w : Warp) (b : Bool) (rs ds : List Nat) : (release w b rs ds).tcfg = w.tcfg := by unfold release; split <;> rfl
@[simp] theorem release_uivec (w : Warp) (b : Bool) (rs ds : List Nat) : (release w b rs ds).uivec = w.uivec := by unfold release; split <;> rfl
@[simp] theorem release_uiepc (w : Warp) (b : Bool) (rs ds : List Nat) : (release w b rs ds).uiepc = w.uiepc := by unfold release; split <;> rfl
@[simp] theorem release_uiin (w : Warp) (b : Bool) (rs ds : List Nat) : (release w b rs ds).uiin = w.uiin := by unfold release; split <;> rfl
@[simp] theorem release_uentry (w : Warp) (b : Bool) (rs ds : List Nat) : (release w b rs ds).uentry = w.uentry := by unfold release; split <;> rfl
@[simp] theorem release_claim (w : Warp) (b : Bool) (rs ds : List Nat) : (release w b rs ds).claim = w.claim := by unfold release; split <;> rfl
@[simp] theorem release_svclane (w : Warp) (b : Bool) (rs ds : List Nat) : (release w b rs ds).svclane = w.svclane := by unfold release; split <;> rfl
@[simp] theorem release_svcpend (w : Warp) (b : Bool) (rs ds : List Nat) : (release w b rs ds).svcpend = w.svcpend := by unfold release; split <;> rfl
@[simp] theorem release_arrived (w : Warp) (b : Bool) (rs ds : List Nat) : (release w b rs ds).arrived = w.arrived := by unfold release; split <;> rfl
@[simp] theorem release_barEdges (w : Warp) (b : Bool) (rs ds : List Nat) : (release w b rs ds).barEdges = w.barEdges := by unfold release; split <;> rfl
@[simp] theorem release_openb (w : Warp) (b : Bool) (rs ds : List Nat) : (release w b rs ds).openb = w.openb := by unfold release; split <;> rfl
@[simp] theorem release_fails (w : Warp) (b : Bool) (rs ds : List Nat) : (release w b rs ds).fails = w.fails := by unfold release; split <;> rfl
@[simp] theorem release_mvfail (w : Warp) (b : Bool) (rs ds : List Nat) : (release w b rs ds).mvfail = w.mvfail := by unfold release; split <;> rfl
@[simp] theorem release_waits (w : Warp) (b : Bool) (rs ds : List Nat) : (release w b rs ds).waits = w.waits := by unfold release; split <;> rfl
@[simp] theorem release_parks (w : Warp) (b : Bool) (rs ds : List Nat) : (release w b rs ds).parks = w.parks := by unfold release; split <;> rfl
@[simp] theorem release_denied (w : Warp) (b : Bool) (rs ds : List Nat) : (release w b rs ds).denied = w.denied := by unfold release; split <;> rfl
@[simp] theorem release_spilled (w : Warp) (b : Bool) (rs ds : List Nat) : (release w b rs ds).spilled = w.spilled := by unfold release; split <;> rfl
@[simp] theorem release_alloc (w : Warp) (b : Bool) (rs ds : List Nat) : (release w b rs ds).alloc = w.alloc := by unfold release; split <;> rfl
@[simp] theorem release_fpq (w : Warp) (b : Bool) (rs ds : List Nat) : (release w b rs ds).fpq = w.fpq := by unfold release; split <;> rfl
@[simp] theorem release_run (w : Warp) (b : Bool) (rs ds : List Nat) : (release w b rs ds).run = w.run := by unfold release; split <;> rfl
@[simp] theorem release_lastLead (w : Warp) (b : Bool) (rs ds : List Nat) : (release w b rs ds).lastLead = w.lastLead := by unfold release; split <;> rfl
@[simp] theorem release_lastIssue (w : Warp) (b : Bool) (rs ds : List Nat) : (release w b rs ds).lastIssue = w.lastIssue := by unfold release; split <;> rfl
@[simp] theorem release_waitc (w : Warp) (b : Bool) (rs ds : List Nat) : (release w b rs ds).waitc = w.waitc := by unfold release; split <;> rfl
@[simp] theorem release_lastPrio (w : Warp) (b : Bool) (rs ds : List Nat) : (release w b rs ds).lastPrio = w.lastPrio := by unfold release; split <;> rfl
@[simp] theorem release_forced (w : Warp) (b : Bool) (rs ds : List Nat) : (release w b rs ds).forced = w.forced := by unfold release; split <;> rfl
@[simp] theorem release_readyAt (w : Warp) (b : Bool) (rs ds : List Nat) : (release w b rs ds).readyAt = w.readyAt := by unfold release; split <;> rfl
/-! Maps. -/

@[simp] theorem get?_ins_same {α : Type} (m : FMap α) (n : Nat) (a : α) : FMap.get? (FMap.ins m n a) n = some a := by
  induction m with
  | nil => simp [FMap.ins, FMap.get?]
  | cons e t ih =>
    obtain ⟨k, b⟩ := e
    simp only [FMap.ins]
    split
    · simp [FMap.get?]
    · split
      · simp [FMap.get?]
      · simp [FMap.get?, *]

theorem get?_ins_other {α : Type} (m : FMap α) (n k : Nat) (a : α) (h : k ≠ n) :
    FMap.get? (FMap.ins m n a) k = FMap.get? m k := by
  induction m with
  | nil => simp [FMap.ins, FMap.get?, h]
  | cons e t ih =>
    obtain ⟨j, b⟩ := e
    simp only [FMap.ins]
    split
    · rename_i hj; subst hj; simp [FMap.get?, h]
    · split
      · simp [FMap.get?, h]
      · simp [FMap.get?, ih]

@[simp] theorem get?_modify_same {α : Type} (m : FMap α) (n : Nat) (f : α → α) :
    FMap.get? (FMap.modify m n f) n = (FMap.get? m n).map f := by
  induction m with
  | nil => simp [FMap.modify, FMap.get?]
  | cons e t ih =>
    obtain ⟨k, b⟩ := e
    simp only [FMap.modify]
    split
    · simp [FMap.get?, *]
    · simp [FMap.get?, *]

theorem get?_modify_other {α : Type} (m : FMap α) (n k : Nat) (f : α → α) (h : k ≠ n) :
    FMap.get? (FMap.modify m n f) k = FMap.get? m k := by
  induction m with
  | nil => simp [FMap.modify]
  | cons e t ih =>
    obtain ⟨j, b⟩ := e
    simp only [FMap.modify]
    split
    · rename_i hj; subst hj; simp [FMap.get?, h]
    · simp [FMap.get?, ih]

theorem modify_ins_same {α : Type} (m : FMap α) (n : Nat) (a : α) (f : α → α) :
    FMap.modify (FMap.ins m n a) n f = FMap.ins m n (f a) := by
  induction m with
  | nil => simp [FMap.ins, FMap.modify]
  | cons e t ih =>
    obtain ⟨k, b⟩ := e
    by_cases h1 : n = k
    · simp [FMap.ins, FMap.modify, h1]
    · by_cases h2 : n < k
      · simp [FMap.ins, FMap.modify, h1, h2]
      · simp [FMap.ins, FMap.modify, h1, h2, ih]

/-! Warps and workgroups of a state. -/

@[simp] theorem warp?_setWarp_same (s : State) (pl : Nat) (w : Warp) : warp? (setWarp s pl w) pl = some w := by
  simp [warp?, setWarp]

theorem warp?_setWarp_other (s : State) (pl q : Nat) (w : Warp) (h : q ≠ pl) : warp? (setWarp s pl w) q = warp? s q := by
  simp [warp?, setWarp, get?_ins_other _ _ _ _ h]

@[simp] theorem warp?_modWarp_same (s : State) (pl : Nat) (f : Warp → Warp) : warp? (modWarp s pl f) pl = (warp? s pl).map f := by
  simp [warp?, modWarp]

theorem warp?_modWarp_other (s : State) (pl q : Nat) (f : Warp → Warp) (h : q ≠ pl) : warp? (modWarp s pl f) q = warp? s q := by
  simp [warp?, modWarp, get?_modify_other _ _ _ _ h]

theorem modWarp_setWarp (s : State) (pl : Nat) (w : Warp) (f : Warp → Warp) :
    modWarp (setWarp s pl w) pl f = setWarp s pl (f w) := by
  simp [modWarp, setWarp, modify_ins_same]

@[simp] theorem wg?_setWarp (s : State) (pl : Nat) (w : Warp) (g : Nat) : wg? (setWarp s pl w) g = wg? s g := rfl
@[simp] theorem wg?_modWarp (s : State) (pl : Nat) (f : Warp → Warp) (g : Nat) : wg? (modWarp s pl f) g = wg? s g := rfl
@[simp] theorem part_setWarp (s : State) (pl : Nat) (w : Warp) (p : Nat) : part (setWarp s pl w) p = part s p := rfl
@[simp] theorem part_modWarp (s : State) (pl : Nat) (f : Warp → Warp) (p : Nat) : part (modWarp s pl f) p = part s p := rfl
@[simp] theorem coreSt_setWarp (s : State) (pl : Nat) (w : Warp) (c : Nat) : coreSt (setWarp s pl w) c = coreSt s c := rfl
@[simp] theorem part_modPart_same (s : State) (p : Nat) (f : Part → Part) : part (modPart s p f) p = f (part s p) := by
  simp [part, modPart, FMap.getD]

theorem part_modPart_other (s : State) (p q : Nat) (f : Part → Part) (h : q ≠ p) : part (modPart s p f) q = part s q := by
  simp [part, modPart, FMap.getD, get?_ins_other _ _ _ _ h]

/-- A source's value does not depend on the warps of the state: it is read from the issue. -/
@[simp] theorem srcVal_setWarp (s : State) (pl : Nat) (w : Warp) (i : Iss) (t : OpT) (o : Opd) (l : Lane) :
    srcVal (setWarp s pl w) i t o l = srcVal s i t o l := rfl

@[simp] theorem intArg_setWarp (s : State) (pl : Nat) (w : Warp) (i : Iss) (t : IType) (o : Opd) (l : Lane) :
    intArg (setWarp s pl w) i t o l = intArg s i t o l := rfl

end Sys2Proof.Machine
end

