-- ==== Sys2Proof/Laws/Memory.lean ====
section
/-! SUPPORT. Memory: a write is read back and leaves every other byte alone, and every operation on memory keeps its canonical
form. -/

namespace Sys2Proof.Machine

open Sys2Proof

/-! Lists of cells. -/

theorem memAbove_mono {lo lo' : Nat} {m : List Host.Cell} (h : lo' ≤ lo) (hm : memAbove lo m = true) : memAbove lo' m = true := by
  cases m with
  | nil => rfl
  | cons e t => simp only [memAbove, Bool.and_eq_true, decide_eq_true_eq] at *; exact ⟨⟨by omega, hm.1.2⟩, hm.2⟩

theorem memPut_above {lo a : Nat} {b : Byte} {m : List Host.Cell} (hm : memAbove lo m = true) (ha : lo ≤ a) :
    memAbove lo (memPut m a b) = true := by
  induction m generalizing lo with
  | nil => by_cases hb : b = 0#8 <;> simp [memPut, memAbove, hb, ha]
  | cons e t ih =>
    obtain ⟨k, c⟩ := e
    simp only [memAbove, Bool.and_eq_true, decide_eq_true_eq] at hm
    obtain ⟨⟨hk, hc⟩, ht⟩ := hm
    simp only [memPut]
    split
    · split
      · exact memAbove_mono (by omega) ht
      · rename_i hb; simp [memAbove, hk, ht, hb]
    · split
      · split
        · simp only [memAbove, Bool.and_eq_true, decide_eq_true_eq]; exact ⟨⟨hk, hc⟩, ht⟩
        · rename_i hb
          simp only [memAbove, Bool.and_eq_true, decide_eq_true_eq]
          exact ⟨⟨ha, by simpa using hb⟩, ⟨by omega, hc⟩, ht⟩
      · simp only [memAbove, Bool.and_eq_true, decide_eq_true_eq]
        exact ⟨⟨hk, hc⟩, ih ht (by omega)⟩

/-- A write keeps the canonical form. -/
theorem memPut_wf {a : Nat} {b : Byte} {m : List Host.Cell} (hm : Memory.wf m = true) : Memory.wf (memPut m a b) = true :=
  memPut_above hm (Nat.zero_le _)

/-- So do writes of several bytes. -/
theorem memPuts_wf {a : Nat} {l : List Byte} {m : List Host.Cell} (hm : Memory.wf m = true) : Memory.wf (memPuts m a l) = true := by
  induction l generalizing a m with
  | nil => exact hm
  | cons b t ih => exact ih (memPut_wf hm)

theorem memAbove_filter {lo : Nat} {m : List Host.Cell} (p : Host.Cell → Bool) (hm : memAbove lo m = true) :
    memAbove lo (m.filter p) = true := by
  induction m generalizing lo with
  | nil => rfl
  | cons e t ih =>
    obtain ⟨k, c⟩ := e
    simp only [memAbove, Bool.and_eq_true, decide_eq_true_eq] at hm
    simp only [List.filter_cons]
    split
    · simp only [memAbove, Bool.and_eq_true, decide_eq_true_eq]; exact ⟨hm.1, ih hm.2⟩
    · exact memAbove_mono (by omega) (ih hm.2)

/-- Clearing a range keeps the canonical form. -/
theorem memClear_wf {m : List Host.Cell} (lo hi : Nat) (hm : Memory.wf m = true) : Memory.wf (memClear m lo hi) = true :=
  memAbove_filter _ hm

theorem memGet_below {lo a : Nat} {m : List Host.Cell} (hm : memAbove lo m = true) (ha : a < lo) : memGet m a = 0#8 := by
  induction m generalizing lo with
  | nil => rfl
  | cons e t ih =>
    obtain ⟨k, c⟩ := e
    simp only [memAbove, Bool.and_eq_true, decide_eq_true_eq] at hm
    have hk : a ≠ k := by omega
    simp only [memGet, hk, if_false]
    exact ih hm.2 (by omega)

theorem memGet_memPut_above {lo a x : Nat} {b : Byte} {m : List Host.Cell} (hm : memAbove lo m = true) :
    memGet (memPut m a b) x = if x = a then b else memGet m x := by
  induction m generalizing lo with
  | nil =>
    by_cases hb : b = 0#8
    · subst hb; simp [memPut, memGet]
    · simp [memPut, hb, memGet]
  | cons e t ih =>
    obtain ⟨k, c⟩ := e
    simp only [memAbove, Bool.and_eq_true, decide_eq_true_eq] at hm
    simp only [memPut]
    by_cases hak : a = k
    · subst hak
      by_cases hb : b = 0#8
      · subst hb
        by_cases hx : x = a
        · subst hx; simpa using memGet_below hm.2 (Nat.lt_succ_self x)
        · simp [memGet, hx]
      · by_cases hx : x = a <;> simp [memGet, hx, hb]
    · by_cases hlt : a < k
      · by_cases hb : b = 0#8
        · subst hb
          by_cases hx : x = a
          · subst hx
            have h0 : memGet t x = 0#8 := memGet_below hm.2 (by omega)
            simp [memGet, hak, hlt, h0]
          · simp [memGet, hak, hlt, hx]
        · by_cases hx : x = a <;> simp [memGet, hak, hlt, hb, hx]
      · by_cases hx : x = k
        · subst hx; simp [memGet, hak, hlt, Ne.symm hak]
        · simp [memGet, hak, hlt, hx, ih hm.2]

/-- Read after write. -/
theorem memGet_memPut {a x : Nat} {b : Byte} {m : List Host.Cell} (hm : Memory.wf m = true) :
    memGet (memPut m a b) x = if x = a then b else memGet m x := memGet_memPut_above hm

/-- Read after a write of several bytes. -/
theorem memGet_memPuts {a x : Nat} {l : List Byte} {m : List Host.Cell} (hm : Memory.wf m = true) :
    memGet (memPuts m a l) x = if a ≤ x ∧ x < a + l.length then l.getD (x - a) 0#8 else memGet m x := by
  induction l generalizing a m with
  | nil => simp [memPuts]
  | cons b t ih =>
    simp only [memPuts, List.length_cons]
    rw [ih (memPut_wf hm), memGet_memPut hm]
    by_cases hx : x = a
    · subst hx; simp
    · by_cases hin : a + 1 ≤ x ∧ x < a + 1 + t.length
      · have h2 : a ≤ x ∧ x < a + (t.length + 1) := by omega
        have h3 : x - a = (x - (a + 1)) + 1 := by omega
        simp [hin, h2, h3]
      · have h2 : ¬ (a ≤ x ∧ x < a + (t.length + 1)) := by omega
        rw [if_neg hin, if_neg h2, if_neg hx]

/-! Operations on the state. -/

theorem memOk_of_mem {s t : State} (h : t.mem = s.mem) (hs : MemOk s) : MemOk t := by unfold MemOk at *; rw [h]; exact hs

theorem setMem_memOk (s : State) (m : List Host.Cell) (h : Memory.wf m = true) : MemOk { s with mem := m } := h

@[simp] theorem endEvent_mem (s : State) (n : Nat) : (endEvent s n).mem = s.mem := by
  unfold endEvent; split
  · rfl
  · dsimp only; split <;> rfl

theorem foldl_memOk {α : Type} (f : State → α → State) (h : ∀ s a, MemOk s → MemOk (f s a)) (l : List α) (s : State)
    (hs : MemOk s) : MemOk (l.foldl f s) := by
  induction l generalizing s with
  | nil => exact hs
  | cons a t ih => exact ih _ (h s a hs)

@[simp] theorem eccCount_mem (s : State) (c : Nat) (u : Bool) : (eccCount s c u).mem = s.mem := by
  unfold eccCount dctlSet; rfl

@[simp] theorem atomWritten_mem (s : State) (a : Atom) : (atomWritten s a).mem = s.mem := by unfold atomWritten; split <;> rfl

@[simp] theorem atomRead_mem (s : State) (a : Atom) (k : Option Nat) : (atomRead s a k).mem = s.mem := by
  unfold atomRead; split
  · split <;> simp
  · split <;> simp

/-- An access to an atom changes no byte of memory. -/
@[simp] theorem atomAccess_mem (s : State) (pa : Nat) (b : Bool) : (atomAccess s pa b).mem = s.mem := by
  unfold atomAccess; repeat' (first | rfl | simp | split)

@[simp] theorem atomsClean_mem (s : State) (lo hi : Nat) : (atomsClean s lo hi).mem = s.mem := by
  unfold atomsClean; dsimp only; split <;> rfl

theorem zeroRange_memOk (s : State) (lo hi : Nat) (hs : MemOk s) : MemOk (zeroRange s lo hi) := by
  unfold zeroRange
  exact foldl_memOk _ (fun s a h => memOk_of_mem (endEvent_mem s a) h) _ _ (memClear_wf lo hi (memOk_of_mem (atomsClean_mem _ _ _) hs))

theorem scrubOne_memOk (s : State) (c g : Nat) (hs : MemOk s) : MemOk (scrubOne s c g) := by
  unfold scrubOne
  split
  · exact hs
  · dsimp only
    split <;> exact memOk_of_mem rfl (zeroRange_memOk s _ _ hs)

theorem scrubAt_memOk (s : State) (pa : Nat) (hs : MemOk s) : MemOk (scrubAt s pa) := by
  unfold scrubAt
  split
  · split
    · exact scrubOne_memOk s _ _ hs
    · exact hs
  · exact hs

@[simp] theorem farKeep_mem (s : State) (pa n : Nat) : (farKeep s pa n).mem = s.mem := by unfold farKeep; split <;> rfl

theorem putBytes_memOk (s : State) (key : Option Nat) (pa : Nat) (l : List Byte) (hs : MemOk s) : MemOk (putBytes s key pa l) := by
  have hf : MemOk (farKeep s pa l.length) := memOk_of_mem (farKeep_mem _ _ _) hs
  unfold putBytes
  cases key with
  | none =>
    exact setMem_memOk _ _ (memPuts_wf hf)
  | some k =>
    dsimp only
    split
    · exact setMem_memOk _ _ (memPuts_wf hf)
    · exact setMem_memOk _ _ (memPuts_wf hf)

@[simp] theorem cairnWrite_mem (s : State) (o c p lo hi : Nat) : (cairnWrite s o c p lo hi).mem = s.mem := rfl
@[simp] theorem outRange_mem (s : State) (p pa : Nat) : (outRange s p pa).mem = s.mem := rfl
@[simp] theorem poisonSector_mem (s : State) (n : Nat) (m : Mark) : (poisonSector s n m).mem = s.mem := rfl
@[simp] theorem cleanSector_mem (s : State) (n : Nat) : (cleanSector s n).mem = s.mem := by
  unfold cleanSector; split
  · rfl
  · simp

@[simp] theorem poisonAfter_mem (o : Option Nat) (l : List Store) (s : State) (n : Nat) : (poisonAfter o l s n).mem = s.mem := by
  unfold poisonAfter
  split
  · rfl
  · dsimp only; split
    · simp
    · split <;> simp

theorem physStore_memOk (o k : Option Nat) (s : State) (w : Store) (hs : MemOk s) : MemOk (physStore o k s w) := by
  unfold physStore
  split
  · exact memOk_of_mem (outRange_mem _ _ _) hs
  · split
    · exact hs
    · exact putBytes_memOk _ _ _ _ (scrubAt_memOk _ _ hs)

/-- The stores of an issue keep the canonical form. -/
theorem physStores_memOk (s : State) (o k : Option Nat) (l : List Store) (hs : MemOk s) : MemOk (physStores s o k l) := by
  unfold physStores
  exact foldl_memOk _ (physStore_memOk o k) _ _
    (foldl_memOk _ (fun s a h => memOk_of_mem (poisonAfter_mem o l s a) h) _ _
      (foldl_memOk _ (fun s (w : Store) h => scrubAt_memOk s w.pa h) _ _ hs))

/-- So does a write at a physical address. -/
theorem physWrite_memOk (s : State) (o k : Option Nat) (pa : Nat) (l : List Byte) (hs : MemOk s) :
    MemOk (physWrite s o k pa l) := physStores_memOk _ _ _ _ hs

/-- And of a 64-bit word. -/
theorem physWrite64_memOk (s : State) (o : Option Nat) (pa x : Nat) (hs : MemOk s) : MemOk (physWrite64 s o pa x) :=
  physWrite_memOk _ _ _ _ _ hs

@[simp] theorem deliverMark_mem (s : State) (pa : Nat) : (deliverMark s pa).1.mem = s.mem := by
  unfold deliverMark; dsimp only; split
  · rfl
  · split <;> rfl

/-- A read keeps the canonical form: it may scrub. -/
theorem physRead_memOk (s : State) (o k : Option Nat) (pa n : Nat) (hs : MemOk s) : MemOk (physRead s o k pa n).1 := by
  unfold physRead
  split
  · exact memOk_of_mem (outRange_mem _ _ _) hs
  · split
    · exact hs
    · exact memOk_of_mem ((deliverMark_mem _ _).trans (atomAccess_mem _ _ _)) (scrubAt_memOk _ _ hs)

theorem physReadN_memOk (f : Nat) (s : State) (o k : Option Nat) (pa n : Nat) (hs : MemOk s) :
    MemOk (physReadN s o k f pa n).1 := by
  induction f generalizing s pa n with
  | zero => exact hs
  | succ f ih =>
    unfold physReadN
    split
    · exact hs
    · exact ih _ _ _ (physRead_memOk s o k pa _ hs)

/-- Bytes that L2 gives up keep the canonical form. -/
theorem farTake_memOk (s : State) (lo hi : Nat) (hs : MemOk s) : MemOk (farTake s lo hi) := by
  unfold farTake
  simp only
  split
  · exact hs
  · refine setMem_memOk _ _ ?_
    generalize s.far.filter _ = l
    have h : Memory.wf s.mem = true := hs
    generalize s.mem = m at h
    induction l generalizing m with
    | nil => exact h
    | cons e t ih => exact ih _ (memPut_wf h)

/-- Memory is canonical at reset. -/
theorem reset_memOk : MemOk State.reset := rfl

end Sys2Proof.Machine
end

