-- ==== Sys2Proof/Laws/PerInstr.lean ====
section
/-! SUPPORT. The family Words, instruction by instruction: a step without a word encodes to nothing, and every instruction word encodes
to one word, or to two where it has a literal. -/

namespace Sys2Proof.Laws.Words

open Sys2Proof

/-- The words of an instruction: none for a step, else one, and a second exactly for a literal or a literal-length ILLEG. -/
def Statement (i : Instr) : Prop := (encode i = [] ↔ formOf i = Form.event) ∧ (encode i).length ≤ 2

theorem of_formF (i : Instr) (k : FKind) (f : WordF) (h : formOf i = .f k f) : Statement i := by
  simp [Statement, encode, h]

theorem of_formM (i : Instr) (k : MKind) (m : WordM) (h : formOf i = .m k m) : Statement i := by
  simp [Statement, encode, h]

theorem of_formB (i : Instr) (k : BKind) (b : WordB) (h : formOf i = .b k b) : Statement i := by
  simp [Statement, encode, h]

theorem of_formH (i : Instr) (x y : Half) (h : formOf i = .h x y) : Statement i := by simp [Statement, encode, h]

theorem of_event (i : Instr) (h : formOf i = .event) : Statement i := by simp [Statement, encode, h]

theorem iadd (f : WordF) : Statement (.iadd f) := of_formF _ _ f rfl
theorem iaddc (f : WordF) : Statement (.iaddc f) := of_formF _ _ f rfl
theorem isub (f : WordF) : Statement (.isub f) := of_formF _ _ f rfl
theorem isubb (f : WordF) : Statement (.isubb f) := of_formF _ _ f rfl
theorem imul (f : WordF) : Statement (.imul f) := of_formF _ _ f rfl
theorem imulh (f : WordF) : Statement (.imulh f) := of_formF _ _ f rfl
theorem imad (f : WordF) : Statement (.imad f) := of_formF _ _ f rfl
theorem imadw (f : WordF) : Statement (.imadw f) := of_formF _ _ f rfl
theorem idiv (f : WordF) : Statement (.idiv f) := of_formF _ _ f rfl
theorem irem (f : WordF) : Statement (.irem f) := of_formF _ _ f rfl
theorem iabs (f : WordF) : Statement (.iabs f) := of_formF _ _ f rfl
theorem ineg (f : WordF) : Statement (.ineg f) := of_formF _ _ f rfl
theorem imin (f : WordF) : Statement (.imin f) := of_formF _ _ f rfl
theorem imax (f : WordF) : Statement (.imax f) := of_formF _ _ f rfl
theorem isad (f : WordF) : Statement (.isad f) := of_formF _ _ f rfl
theorem lea (f : WordF) : Statement (.lea f) := of_formF _ _ f rfl
theorem idp4 (f : WordF) : Statement (.idp4 f) := of_formF _ _ f rfl
theorem idp2 (f : WordF) : Statement (.idp2 f) := of_formF _ _ f rfl
theorem and (f : WordF) : Statement (.and f) := of_formF _ _ f rfl
theorem or (f : WordF) : Statement (.or f) := of_formF _ _ f rfl
theorem xor (f : WordF) : Statement (.xor f) := of_formF _ _ f rfl
theorem andn (f : WordF) : Statement (.andn f) := of_formF _ _ f rfl
theorem orn (f : WordF) : Statement (.orn f) := of_formF _ _ f rfl
theorem shl (f : WordF) : Statement (.shl f) := of_formF _ _ f rfl
theorem shr (f : WordF) : Statement (.shr f) := of_formF _ _ f rfl
theorem sar (f : WordF) : Statement (.sar f) := of_formF _ _ f rfl
theorem rot (f : WordF) : Statement (.rot f) := of_formF _ _ f rfl
theorem fsh (f : WordF) : Statement (.fsh f) := of_formF _ _ f rfl
theorem bfe (f : WordF) : Statement (.bfe f) := of_formF _ _ f rfl
theorem bfi (f : WordF) : Statement (.bfi f) := of_formF _ _ f rfl
theorem popc (f : WordF) : Statement (.popc f) := of_formF _ _ f rfl
theorem clz (f : WordF) : Statement (.clz f) := of_formF _ _ f rfl
theorem ctz (f : WordF) : Statement (.ctz f) := of_formF _ _ f rfl
theorem brev (f : WordF) : Statement (.brev f) := of_formF _ _ f rfl
theorem bswz (f : WordF) : Statement (.bswz f) := of_formF _ _ f rfl
theorem blut (f : WordF) : Statement (.blut f) := of_formF _ _ f rfl
theorem icmp (f : WordF) : Statement (.icmp f) := of_formF _ _ f rfl
theorem sel (f : WordF) : Statement (.sel f) := of_formF _ _ f rfl
theorem mov (f : WordF) : Statement (.mov f) := of_formF _ _ f rfl
theorem movl (f : WordF) : Statement (.movl f) := of_formF _ _ f rfl
theorem cvti (f : WordF) : Statement (.cvti f) := of_formF _ _ f rfl
theorem p2v (f : WordF) : Statement (.p2v f) := of_formF _ _ f rfl
theorem v2p (f : WordF) : Statement (.v2p f) := of_formF _ _ f rfl
theorem iclamp (f : WordF) : Statement (.iclamp f) := of_formF _ _ f rfl
theorem plut (f : WordF) : Statement (.plut f) := of_formF _ _ f rfl
theorem pairedWord (hi lo : Half) : Statement (.pairedWord hi lo) := of_formH _ hi lo rfl
theorem fadd (f : WordF) : Statement (.fadd f) := of_formF _ _ f rfl
theorem fsub (f : WordF) : Statement (.fsub f) := of_formF _ _ f rfl
theorem fmul (f : WordF) : Statement (.fmul f) := of_formF _ _ f rfl
theorem ffma (f : WordF) : Statement (.ffma f) := of_formF _ _ f rfl
theorem fmin (f : WordF) : Statement (.fmin f) := of_formF _ _ f rfl
theorem fmax (f : WordF) : Statement (.fmax f) := of_formF _ _ f rfl
theorem fminm (f : WordF) : Statement (.fminm f) := of_formF _ _ f rfl
theorem fmaxm (f : WordF) : Statement (.fmaxm f) := of_formF _ _ f rfl
theorem fcmp (f : WordF) : Statement (.fcmp f) := of_formF _ _ f rfl
theorem fclass (f : WordF) : Statement (.fclass f) := of_formF _ _ f rfl
theorem fsgn (f : WordF) : Statement (.fsgn f) := of_formF _ _ f rfl
theorem fscale (f : WordF) : Statement (.fscale f) := of_formF _ _ f rfl
theorem frnd (f : WordF) : Statement (.frnd f) := of_formF _ _ f rfl
theorem fdot2 (f : WordF) : Statement (.fdot2 f) := of_formF _ _ f rfl
theorem fdot4 (f : WordF) : Statement (.fdot4 f) := of_formF _ _ f rfl
theorem fadd2 (f : WordF) : Statement (.fadd2 f) := of_formF _ _ f rfl
theorem fmul2 (f : WordF) : Statement (.fmul2 f) := of_formF _ _ f rfl
theorem ffma2 (f : WordF) : Statement (.ffma2 f) := of_formF _ _ f rfl
theorem frcp (f : WordF) : Statement (.frcp f) := of_formF _ _ f rfl
theorem frsq (f : WordF) : Statement (.frsq f) := of_formF _ _ f rfl
theorem fsqrt (f : WordF) : Statement (.fsqrt f) := of_formF _ _ f rfl
theorem fdiv (f : WordF) : Statement (.fdiv f) := of_formF _ _ f rfl
theorem fexp2 (f : WordF) : Statement (.fexp2 f) := of_formF _ _ f rfl
theorem flog2 (f : WordF) : Statement (.flog2 f) := of_formF _ _ f rfl
theorem fsinpi (f : WordF) : Statement (.fsinpi f) := of_formF _ _ f rfl
theorem fcospi (f : WordF) : Statement (.fcospi f) := of_formF _ _ f rfl
theorem ftanh (f : WordF) : Statement (.ftanh f) := of_formF _ _ f rfl
theorem fcvt (f : WordF) : Statement (.fcvt f) := of_formF _ _ f rfl
theorem ftoi (f : WordF) : Statement (.ftoi f) := of_formF _ _ f rfl
theorem itof (f : WordF) : Statement (.itof f) := of_formF _ _ f rfl
theorem fcvtsr (f : WordF) : Statement (.fcvtsr f) := of_formF _ _ f rfl
theorem fgete (f : WordF) : Statement (.fgete f) := of_formF _ _ f rfl
theorem fgetm (f : WordF) : Statement (.fgetm f) := of_formF _ _ f rfl
theorem rngpx (f : WordF) : Statement (.rngpx f) := of_formF _ _ f rfl
theorem rngf (f : WordF) : Statement (.rngf f) := of_formF _ _ f rfl
theorem bra (b : WordB) : Statement (.bra b) := of_formB _ _ b rfl
theorem brx (b : WordB) : Statement (.brx b) := of_formB _ _ b rfl
theorem call (b : WordB) : Statement (.call b) := of_formB _ _ b rfl
theorem callx (b : WordB) : Statement (.callx b) := of_formB _ _ b rfl
theorem ret (b : WordB) : Statement (.ret b) := of_formB _ _ b rfl
theorem loop (b : WordB) : Statement (.loop b) := of_formB _ _ b rfl
theorem lbrk (b : WordB) : Statement (.lbrk b) := of_formB _ _ b rfl
theorem exit (f : WordF) : Statement (.exit f) := of_formF _ _ f rfl
theorem nop (f : WordF) : Statement (.nop f) := of_formF _ _ f rfl
theorem trap (f : WordF) : Statement (.trap f) := of_formF _ _ f rfl
theorem tret (f : WordF) : Statement (.tret f) := of_formF _ _ f rfl
theorem bkpt (f : WordF) : Statement (.bkpt f) := of_formF _ _ f rfl
theorem movxRead (f : WordF) : Statement (.movxRead f) := of_formF _ _ f rfl
theorem movxWrite (f : WordF) : Statement (.movxWrite f) := of_formF _ _ f rfl
theorem illeg (low : BitVec 52) : Statement (.illeg low) := by
  simp only [Statement, encode, formOf]; split <;> simp
theorem shfl (f : WordF) : Statement (.shfl f) := of_formF _ _ f rfl
theorem vote (f : WordF) : Statement (.vote f) := of_formF _ _ f rfl
theorem bcast (f : WordF) : Statement (.bcast f) := of_formF _ _ f rfl
theorem matchx (f : WordF) : Statement (.matchx f) := of_formF _ _ f rfl
theorem wsync (f : WordF) : Statement (.wsync f) := of_formF _ _ f rfl
theorem redx (f : WordF) : Statement (.redx f) := of_formF _ _ f rfl
theorem scanx (f : WordF) : Statement (.scanx f) := of_formF _ _ f rfl
theorem reform (b : WordB) : Statement (.reform b) := of_formB _ _ b rfl
theorem bar (f : WordF) : Statement (.bar f) := of_formF _ _ f rfl
theorem pref (m : WordM) : Statement (.pref m) := of_formM _ _ m rfl
theorem ld (m : WordM) : Statement (.ld m) := of_formM _ _ m rfl
theorem st (m : WordM) : Statement (.st m) := of_formM _ _ m rfl
theorem atom (m : WordM) : Statement (.atom m) := of_formM _ _ m rfl
theorem red (m : WordM) : Statement (.red m) := of_formM _ _ m rfl
theorem lds (m : WordM) : Statement (.lds m) := of_formM _ _ m rfl
theorem sts (m : WordM) : Statement (.sts m) := of_formM _ _ m rfl
theorem atoms (m : WordM) : Statement (.atoms m) := of_formM _ _ m rfl
theorem loadComplete (id : Nat) : Statement (.loadComplete id) := of_event _ rfl
theorem waitv (m : WordM) : Statement (.waitv m) := of_formM _ _ m rfl
theorem waitvReread (place : Nat) (l : Lane) : Statement (.waitvReread place l) := of_event _ rfl
theorem fence (f : WordF) : Statement (.fence f) := of_formF _ _ f rfl
theorem cctlIinv (m : WordM) : Statement (.cctlIinv m) := of_formM _ _ m rfl
theorem cctlL1inv (m : WordM) : Statement (.cctlL1inv m) := of_formM _ _ m rfl
theorem cctlClean (m : WordM) : Statement (.cctlClean m) := of_formM _ _ m rfl
theorem cctlDemote (m : WordM) : Statement (.cctlDemote m) := of_formM _ _ m rfl
theorem retain (f : WordF) : Statement (.retain f) := of_formF _ _ f rfl
theorem unpin (f : WordF) : Statement (.unpin f) := of_formF _ _ f rfl
theorem copy (f : WordF) : Statement (.copy f) := of_formF _ _ f rfl
theorem copyo (f : WordF) : Statement (.copyo f) := of_formF _ _ f rfl
theorem region (f : WordF) : Statement (.region f) := of_formF _ _ f rfl
theorem rgnclr (f : WordF) : Statement (.rgnclr f) := of_formF _ _ f rfl
theorem touch (f : WordF) : Statement (.touch f) := of_formF _ _ f rfl
theorem cseal (f : WordF) : Statement (.cseal f) := of_formF _ _ f rfl
theorem cwait (f : WordF) : Statement (.cwait f) := of_formF _ _ f rfl
theorem ctest (f : WordF) : Statement (.ctest f) := of_formF _ _ f rfl
theorem waitp (f : WordF) : Statement (.waitp f) := of_formF _ _ f rfl
theorem bari (f : WordF) : Statement (.bari f) := of_formF _ _ f rfl
theorem bara (f : WordF) : Statement (.bara f) := of_formF _ _ f rfl
theorem barw (f : WordF) : Statement (.barw f) := of_formF _ _ f rfl
theorem bart (f : WordF) : Statement (.bart f) := of_formF _ _ f rfl
theorem barcnt (f : WordF) : Statement (.barcnt f) := of_formF _ _ f rfl
theorem copyComplete (id : Nat) : Statement (.copyComplete id) := of_event _ rfl
theorem chunkPresent (id chunk : Nat) : Statement (.chunkPresent id chunk) := of_event _ rfl
theorem stagingComplete (id : Nat) : Statement (.stagingComplete id) := of_event _ rfl
theorem tld (f : WordF) : Statement (.tld f) := of_formF _ _ f rfl
theorem tst (f : WordF) : Statement (.tst f) := of_formF _ _ f rfl
theorem tzero (f : WordF) : Statement (.tzero f) := of_formF _ _ f rfl
theorem mma (f : WordF) : Statement (.mma f) := of_formF _ _ f rfl
theorem mloop (f : WordF) : Statement (.mloop f) := of_formF _ _ f rfl
theorem mvloop (f : WordF) : Statement (.mvloop f) := of_formF _ _ f rfl
theorem mgenIdent (f : WordF) : Statement (.mgenIdent f) := of_formF _ _ f rfl
theorem mgenOnes (f : WordF) : Statement (.mgenOnes f) := of_formF _ _ f rfl
theorem mgenPerm (f : WordF) : Statement (.mgenPerm f) := of_formF _ _ f rfl
theorem accz (f : WordF) : Statement (.accz f) := of_formF _ _ f rfl
theorem accld (f : WordF) : Statement (.accld f) := of_formF _ _ f rfl
theorem accst (f : WordF) : Statement (.accst f) := of_formF _ _ f rfl
theorem accrd (f : WordF) : Statement (.accrd f) := of_formF _ _ f rfl
theorem mwait (f : WordF) : Statement (.mwait f) := of_formF _ _ f rfl
theorem kStepComplete (core unit : Nat) : Statement (.kStepComplete core unit) := of_event _ rfl
theorem matrixComplete (core track : Nat) : Statement (.matrixComplete core track) := of_event _ rfl
theorem spawn (f : WordF) : Statement (.spawn f) := of_formF _ _ f rfl
theorem spawnj (f : WordF) : Statement (.spawnj f) := of_formF _ _ f rfl
theorem yield (f : WordF) : Statement (.yield f) := of_formF _ _ f rfl
theorem tsend (f : WordF) : Statement (.tsend f) := of_formF _ _ f rfl
theorem svc (f : WordF) : Statement (.svc f) := of_formF _ _ f rfl
theorem sret (f : WordF) : Statement (.sret f) := of_formF _ _ f rfl
theorem errinjReg (f : WordF) : Statement (.errinjReg f) := of_formF _ _ f rfl
theorem errinjMem (f : WordF) : Statement (.errinjMem f) := of_formF _ _ f rfl
theorem errinjCe (f : WordF) : Statement (.errinjCe f) := of_formF _ _ f rfl
theorem errinjSpad (f : WordF) : Statement (.errinjSpad f) := of_formF _ _ f rfl
theorem uisend (f : WordF) : Statement (.uisend f) := of_formF _ _ f rfl
theorem uiwait (f : WordF) : Statement (.uiwait f) := of_formF _ _ f rfl
theorem uiret (f : WordF) : Statement (.uiret f) := of_formF _ _ f rfl
theorem longComplete (id : Nat) : Statement (.longComplete id) := of_event _ rfl
theorem rotation (place : Nat) : Statement (.rotation place) := of_event _ rfl
theorem waitcPriority (core track : Nat) : Statement (.waitcPriority core track) := of_event _ rfl
theorem spillRestore (place : Nat) : Statement (.spillRestore place) := of_event _ rfl
theorem lineAgeTrigger (core line : Nat) : Statement (.lineAgeTrigger core line) := of_event _ rfl
theorem lineDispatch (core : Nat) : Statement (.lineDispatch core) := of_event _ rfl
theorem warpEnd (place : Nat) : Statement (.warpEnd place) := of_event _ rfl
theorem faultTableAdmit (part : Nat) : Statement (.faultTableAdmit part) := of_event _ rfl
theorem faultdoneRetry (part origin : Nat) (oseq : Dword) : Statement (.faultdoneRetry part origin oseq) := of_event _ rfl
theorem faultdoneDeny (part origin : Nat) (oseq : Dword) : Statement (.faultdoneDeny part origin oseq) := of_event _ rfl
theorem pageIn (part : Nat) : Statement (.pageIn part) := of_event _ rfl
theorem tlbinvPage (part ctx vpage : Nat) : Statement (.tlbinvPage part ctx vpage) := of_event _ rfl
theorem tlbinvContext (part ctx : Nat) : Statement (.tlbinvContext part ctx) := of_event _ rfl
theorem tlbinvPartition (part : Nat) : Statement (.tlbinvPartition part) := of_event _ rfl
theorem tlbinvDone (part : Nat) : Statement (.tlbinvDone part) := of_event _ rfl
theorem retregWrite (part i : Nat) (v : BitVec 128) : Statement (.retregWrite part i v) := of_event _ rfl
theorem notify (part q : Nat) (tail : BitVec 16) : Statement (.notify part q tail) := of_event _ rfl
theorem candidateRead (part q : Nat) : Statement (.candidateRead part q) := of_event _ rfl
theorem workgroupPlace (part : Nat) : Statement (.workgroupPlace part) := of_event _ rfl
theorem recordStart (wg : Nat) : Statement (.recordStart wg) := of_event _ rfl
theorem workgroupEnd (wg : Nat) : Statement (.workgroupEnd wg) := of_event _ rfl
theorem joinDecrement (launch : Nat) : Statement (.joinDecrement launch) := of_event _ rfl
theorem fenceCore (part : Nat) : Statement (.fenceCore part) := of_event _ rfl
theorem swap (core : Nat) : Statement (.swap core) := of_event _ rfl
theorem sliceEnd (wg : Nat) : Statement (.sliceEnd wg) := of_event _ rfl
theorem drainTimeout (wg : Nat) : Statement (.drainTimeout wg) := of_event _ rfl
theorem workgroupRestore (part : Nat) : Statement (.workgroupRestore part) := of_event _ rfl
theorem uiDiversion (place : Nat) : Statement (.uiDiversion place) := of_event _ rfl
theorem taskLanding (part sess : Nat) : Statement (.taskLanding part sess) := of_event _ rfl
theorem sessionEstablish (part sess : Nat) (tx rx : Bool) (keyslot peerPart peerDev peerSess port : Nat) : Statement (.sessionEstablish part sess tx rx keyslot peerPart peerDev peerSess port) := of_event _ rfl
theorem completionTimeout (port : Nat) : Statement (.completionTimeout port) := of_event _ rfl
theorem expanderLostNotice (place : Nat) : Statement (.expanderLostNotice place) := of_event _ rfl
theorem portClr (part port : Nat) : Statement (.portClr part port) := of_event _ rfl
theorem snpdata (q : HostSnoop) : Statement (.snpdata q) := of_event _ rfl
theorem snpinv (take : HostTake) : Statement (.snpinv take) := of_event _ rfl
theorem snpcur (q : HostSnoop) : Statement (.snpcur q) := of_event _ rfl
theorem birsp (line : Nat) (data : Option (BitVec 512)) : Statement (.birsp line data) := of_event _ rfl
theorem extentAccepted (part i : Nat) (accept : Bool) : Statement (.extentAccepted part i accept) := of_event _ rfl
theorem extentReleased (part i : Nat) : Statement (.extentReleased part i) := of_event _ rfl
theorem checkpointSave (part : Nat) (remote : Bool) (dest : Nat) : Statement (.checkpointSave part remote dest) := of_event _ rfl
theorem checkpointRestore (part : Nat) (remote : Bool) (dest : Nat) : Statement (.checkpointRestore part remote dest) := of_event _ rfl
theorem checkpointResume (part : Nat) : Statement (.checkpointResume part) := of_event _ rfl
theorem checkpointUnit (part : Nat) : Statement (.checkpointUnit part) := of_event _ rfl
theorem partset (q : MgmtTo) (d : Desc) (scrub : Bool) : Statement (.partset q d scrub) := of_event _ rfl
theorem keyload (part slot key : Nat) : Statement (.keyload part slot key) := of_event _ rfl
theorem keykill (part slot : Nat) : Statement (.keykill part slot) := of_event _ rfl
theorem keykillAck (slot engine : Nat) : Statement (.keykillAck slot engine) := of_event _ rfl
theorem ctxprot (part ctx slot : Nat) : Statement (.ctxprot part ctx slot) := of_event _ rfl
theorem ctxunprot (part ctx : Nat) : Statement (.ctxunprot part ctx) := of_event _ rfl
theorem dbgunlock (part : Nat) (mask : BitVec 16) (token : Nat) : Statement (.dbgunlock part mask token) := of_event _ rfl
theorem attest (part : Nat) : Statement (.attest part) := of_event _ rfl
theorem pcmdUnknown (part cmd : Nat) : Statement (.pcmdUnknown part cmd) := of_event _ rfl
theorem scrubGranule (channel : Nat) : Statement (.scrubGranule channel) := of_event _ rfl
theorem cread (q : Auth) (addr len : Nat) : Statement (.cread q addr len) := of_event _ rfl
theorem cwrite (q : Auth) (addr : Nat) (data : Dword) : Statement (.cwrite q addr data) := of_event _ rfl
theorem functionLevelReset (part : Nat) : Statement (.functionLevelReset part) := of_event _ rfl
theorem fatal (unit syndrome : Nat) : Statement (.fatal unit syndrome) := of_event _ rfl
theorem clockGate (core : Nat) : Statement (.clockGate core) := of_event _ rfl
theorem activate (pch bank row : Nat) : Statement (.activate pch bank row) := of_event _ rfl
theorem directedRefresh (pch bank row : Nat) : Statement (.directedRefresh pch bank row) := of_event _ rfl
theorem refreshWindowWrap (pch bank : Nat) : Statement (.refreshWindowWrap pch bank) := of_event _ rfl
theorem sparingStart (pch src : Nat) : Statement (.sparingStart pch src) := of_event _ rfl
theorem sparingRowCopy (pch : Nat) : Statement (.sparingRowCopy pch) := of_event _ rfl
theorem remapEntryWrite (stack i : Nat) (v : Word) : Statement (.remapEntryWrite stack i v) := of_event _ rfl
theorem tokenRefill (controller : Nat) : Statement (.tokenRefill controller) := of_event _ rfl
theorem lodgeStart (part j : Nat) : Statement (.lodgeStart part j) := of_event _ rfl
theorem lodgeQueueNotify (part j : Nat) (tail : BitVec 16) : Statement (.lodgeQueueNotify part j tail) := of_event _ rfl
theorem lodgeRecordWrite (part : Nat) (errorQueue : Bool) : Statement (.lodgeRecordWrite part errorQueue) := of_event _ rfl
theorem registerWrite (part off size : Nat) (v : BitVec 128) : Statement (.registerWrite part off size v) := of_event _ rfl
theorem writeAcknowledged (id : Nat) : Statement (.writeAcknowledged id) := of_event _ rfl
theorem atomicComplete (id : Nat) : Statement (.atomicComplete id) := of_event _ rfl
theorem l2rctlWrite (part : Nat) (v : Dword) : Statement (.l2rctlWrite part v) := of_event _ rfl
theorem hostInterruptWrite (req : Requester) (ctx off size : Nat) (data : BitVec 128) : Statement (.hostInterruptWrite req ctx off size data) := of_event _ rfl
theorem fabricUint (port : Nat) (m : Message) : Statement (.fabricUint port m) := of_event _ rfl
theorem fabricTask (port : Nat) (m : Message) : Statement (.fabricTask port m) := of_event _ rfl
theorem portLoss (port cause : Nat) : Statement (.portLoss port cause) := of_event _ rfl
theorem linkTrain (port width rate : Nat) : Statement (.linkTrain port width rate) := of_event _ rfl
theorem hostMemRead (req : Requester) (dpa len : Nat) : Statement (.hostMemRead req dpa len) := of_event _ rfl
theorem hostMemWrite (req : Requester) (dpa : Nat) (data : List Byte) : Statement (.hostMemWrite req dpa data) := of_event _ rfl
theorem hostAtomicop (req : Requester) (dpa : Nat) (wide : Bool) (op : AtomicOp) : Statement (.hostAtomicop req dpa wide op) := of_event _ rfl
theorem extentOffer (part i : Nat) : Statement (.extentOffer part i) := of_event _ rfl
theorem extentRelease (part i : Nat) : Statement (.extentRelease part i) := of_event _ rfl
theorem patrolRequest (q : Auth) (part cmd : Nat) (arg : List Byte) (d : Desc) (scrub : Bool) : Statement (.patrolRequest q part cmd arg d scrub) := of_event _ rfl
theorem dbgmem (q : Auth) (part : Nat) (control : Bool) (addr : Nat) (op : DbgOp) : Statement (.dbgmem q part control addr op) := of_event _ rfl
theorem mgmtReset (q : Auth) (cold : Bool) : Statement (.mgmtReset q cold) := of_event _ rfl
theorem bootstage (ok : Bool) (unit : Nat) : Statement (.bootstage ok unit) := of_event _ rfl
theorem thermal (temp power : Nat) : Statement (.thermal temp power) := of_event _ rfl
theorem issueAtLend : Statement .issueAtLend := of_event _ rfl
theorem mctpControl : Statement .mctpControl := of_event _ rfl
theorem coldReset : Statement .coldReset := of_event _ rfl
theorem warmReset : Statement .warmReset := of_event _ rfl

end Sys2Proof.Laws.Words

theorem Sys2Proof.Laws.Words.open (share nonce signature : Nat) : Sys2Proof.Laws.Words.Statement (Sys2Proof.Instr.open share nonce signature) := Sys2Proof.Laws.Words.of_event _ rfl
end

