-- ==== Sys2Proof/Laws/Words.lean ====
section
/-! SUPPORT. What running a word does: the one lemma by which every word that acts is unfolded, its form for a word that only
computes, and the frame of such a word. -/

namespace Sys2Proof.Machine

open Sys2Proof

/-- A word that acts, waits for nothing of its own and is not ILLEGAL runs its effect. -/
theorem runWord_acts {x : Instr} {s : State} {i : Iss} (h : Acts x s i) {g : Guard} (hg : g = guardOfInstr x)
    {wait : State → Iss → Bool} (hw : wait s i = false) {bad : State → Iss → Option Nat} (hb : bad s i = none)
    (eff : State → Iss → Res) :
    runWord x g wait bad eff s = .next (settleRes s i x (release i.w i.whole (lastUses x) (destsOf x).1) (eff (wordState s i x) i)) := by
  subst hg
  simp only [runWord, h.iss, h.lend, h.full, hw, hb, h.stale, h.lease, wordState, Bool.or_self, Bool.false_eq_true, if_false,
    Option.map_none, Option.orElse_none]

/-- A word that has executed and goes on. -/
theorem settleRes_retire {x : Instr} {s : State} {i : Iss} (h : Acts x s i) (t : State) :
    settleRes s i x (release i.w i.whole (lastUses x) (destsOf x).1) (.retire t) =
      retired (modWarp t i.place (fun w => advance w i.a (8 * i.len))) i := by
  simp only [settleRes, h.room, if_true]

/-- A word that has executed and has moved its lanes. -/
theorem settleRes_moved {x : Instr} {s : State} {i : Iss} (h : Acts x s i) (t : State) :
    settleRes s i x (release i.w i.whole (lastUses x) (destsOf x).1) (.moved t) = retired t i := by
  simp only [settleRes, h.room, if_true]

/-- A word that consumes its sources and changes its warp. -/
theorem consuming_clean {x : Instr} {s : State} {i : Iss} (h : Clean x s i) (f : State → Iss → Warp → Warp) (t : State) :
    consuming x f t i = .retire (modWarp t i.place (f t i)) := by
  simp only [consuming, h.clean]

/-- A word that consumes its sources, changes its warp and goes on. -/
theorem runWord_consuming {x : Instr} {s : State} {i : Iss} (h : Clean x s i) {g : Guard} (hg : g = guardOfInstr x)
    (f : State → Iss → Warp → Warp) :
    runWord x g noWait noBad (consuming x f) s = .next (wordDone s i x (f (wordState s i x) i)) := by
  rw [runWord_acts h.toActs hg (by rfl) (by rfl), consuming_clean h, settleRes_retire h.toActs]
  rfl

/-- A word that changes its warp and goes on. -/
theorem runWord_retire {x : Instr} {s : State} {i : Iss} (h : Acts x s i) {g : Guard} (hg : g = guardOfInstr x)
    (f : State → Iss → Warp → Warp) :
    runWord x g noWait noBad (fun s i => .retire (modWarp s i.place (f s i))) s = .next (wordDone s i x (f (wordState s i x) i)) := by
  rw [runWord_acts h hg (by rfl) (by rfl), settleRes_retire h]
  rfl

/-- A word that computes one result per lane. -/
theorem runCalc_clean {x : Instr} {s : State} {i : Iss} (h : Clean x s i) {f : WordF} (hg : f.guard = guardOfInstr x)
    (wide : Bool) (val : State → Iss → Lane → Nat) :
    runCalc x f wide val s =
      .next (wordDone s i x (fun w => writeDst w i.l f.dst wide (val (wordState s i x) i))) := by
  rw [runCalc, runWord_consuming h hg]

/-- A word that computes, in the form in which statements give its result. -/
theorem writes_of_calc {mk : WordF → Instr} {wide : WordF → Bool} {v val : WordF → State → Iss → Lane → Nat}
    (he : ∀ f s, exec (mk f) s = runCalc (mk f) f (wide f) (val f) s) (hg : ∀ f, f.guard = guardOfInstr (mk f))
    (hv : ∀ f s pl w i l, val f (setWarp s pl w) i l = v f s i l) : Writes mk wide v := by
  intro f s i h
  rw [he, runCalc_clean h (hg f)]
  have hx : val f (wordState s i (mk f)) i = v f s i := funext fun l => hv f s _ _ i l
  rw [hx]

/-- An integer word, in the form in which statements give its result. -/
theorem writesTyped_of_int {mk : WordF → Instr} {sat : WordF → Bool} {g g' : WordF → Int → Int → Int → Int}
    (he : ∀ f s, exec (mk f) s = runInt (mk f) f (sat f) (g f) s) (hg : ∀ f, f.guard = guardOfInstr (mk f))
    (hv : ∀ f a b c, (if sat f then satT (tyInt f) (g f a b c) else g f a b c) = g' f a b c) : WritesTyped mk g' := by
  refine writes_of_calc (val := fun f s i l =>
    (tyInt f).enc (if sat f then satT (tyInt f) (g f (intArg s i (tyInt f) f.a l) (intArg s i (tyInt f) f.b l)
      (intArg s i (tyInt f) f.c l)) else g f (intArg s i (tyInt f) f.a l) (intArg s i (tyInt f) f.b l)
      (intArg s i (tyInt f) f.c l))) (fun f s => (he f s).trans rfl) hg (fun f s pl w i l => ?_)
  simp only [intArg_setWarp, hv]

/-- A word of bits, in the form in which statements give its result. -/
theorem writesBits_of_calc {mk : WordF → Instr} {wide : WordF → Bool} {g : WordF → Nat → Nat → Nat → Nat → Nat}
    {a3 val : WordF → State → Iss → Lane → Nat}
    (he : ∀ f s, exec (mk f) s = runCalc (mk f) f (wide f) (val f) s) (hg : ∀ f, f.guard = guardOfInstr (mk f))
    (hv : ∀ f s pl w i l, val f (setWarp s pl w) i l = g f (tyInt f).bits (srcVal s i (.int (tyInt f).bits) f.a l)
      (srcVal s i (.int (tyInt f).bits) f.b l) (a3 f s i l)) : WritesBits mk wide g a3 :=
  writes_of_calc he hg hv

/-- A word that consumes its sources and changes its warp, in the form of statements. -/
theorem changes_of_consuming {mk : WordF → Instr} {u u' : WordF → State → Iss → Warp → Warp}
    (he : ∀ f s, exec (mk f) s = runWord (mk f) f.guard noWait noBad (consuming (mk f) (u f)) s)
    (hg : ∀ f, f.guard = guardOfInstr (mk f)) (hv : ∀ f s pl w i, u f (setWarp s pl w) i = u' f s i) : Changes mk u' := by
  intro f s i h
  rw [he, runWord_consuming h (hg f), wordState, hv]

/-- A word that carries its sources, in the form of statements. -/
theorem carries_of_retire {mk : WordF → Instr} {u u' : WordF → State → Iss → Warp → Warp}
    (he : ∀ f s, exec (mk f) s = runWord (mk f) f.guard noWait noBad (fun s i => .retire (modWarp s i.place (u f s i))) s)
    (hg : ∀ f, f.guard = guardOfInstr (mk f)) (hv : ∀ f s pl w i, u f (setWarp s pl w) i = u' f s i) : Carries mk u' := by
  intro f s i h
  rw [he, runWord_retire h (hg f), wordState, hv]

/-- A short floating-point word, in the form of statements. -/
theorem writesFp_of {mk : WordF → Instr} {wide : WordF → Bool} {val v : WordF → State → Iss → Lane → Nat × Flags}
    (he : ∀ f s, exec (mk f) s = runFp (mk f) f (wide f) (val f) s) (hg : ∀ f, f.guard = guardOfInstr (mk f))
    (hv : ∀ f s pl w i l, val f (setWarp s pl w) i l = v f s i l) : WritesFp mk wide v := by
  refine changes_of_consuming (u := fun f s i w => mergeFlags i (dstCode f.dst) (fun l => (val f s i l).2)
    (writeDst w i.l f.dst (wide f) (fun l => (val f s i l).1))) (fun f s => (he f s).trans rfl) hg (fun f s pl w i => ?_)
  simp only [hv]

/-- A word on sources of its own format, in the form of statements. -/
theorem writesFp3_of {mk : WordF → Instr} {g : FType → WordF → RMode → Bool → Nat → Nat → Nat → Nat × Flags}
    (he : ∀ f s, exec (mk f) s = runFp3 (mk f) f (g (tyFp f) f) s) (hg : ∀ f, f.guard = guardOfInstr (mk f)) :
    WritesFp3 mk g :=
  writesFp_of (fun f s => (he f s).trans rfl) hg (fun _ _ _ _ _ _ => rfl)

/-- A long word, in the form of statements. -/
theorem delivers_of {mk : WordF → Instr} {wide : WordF → Bool} {val v : WordF → State → Iss → Lane → Nat × Flags}
    (he : ∀ f s, exec (mk f) s = runLong (mk f) f (wide f) (val f) s) (hg : ∀ f, f.guard = guardOfInstr (mk f))
    (hv : ∀ f s pl w i l, val f (setWarp s pl w) i l = v f s i l) : Delivers mk wide v := by
  intro f s i h
  rw [he, runLong, runWord_acts h.toActs (hg f) (by rfl) (by rfl)]
  simp only [h.clean]
  split
  · rw [settleRes_retire h.toActs]; rfl
  · rw [settleRes_retire h.toActs]; simp only [wordState, hv, wordAfter, setWarp_nextId]; rfl

/-- A special function, in the form of statements. -/
theorem delivers_of_fun {mk : WordF → Instr} {k : FFun} (he : ∀ f s, exec (mk f) s = runFun (mk f) f k s)
    (hg : ∀ f, f.guard = guardOfInstr (mk f)) :
    Delivers mk isF64 (fun f s i l => fpFun k (tyFp f) (wordMode i f) i.w.ftz (fpArg s i (tyFp f) f.a l)) :=
  delivers_of (fun f s => (he f s).trans rfl) hg (fun _ _ _ _ _ _ => rfl)

end Sys2Proof.Machine
end

