-- ==== Sys2Proof/Tests/Slice0.lean ====
section
/-! SUPPORT. Tests: words written out from the spec decode to their instructions, ill-formed terms are refused, instructions give the
results of the spec's worked examples, and every statement's hypotheses are met by a concrete state. -/

namespace Sys2Proof.Tests

set_option Elab.async false

open Sys2Proof Sys2Proof.Machine

/-! Decoding: words of every group, from the worked encodings of the spec (sections 04 to 18). -/

def g7 : Guard := Guard.always
def vr (n : Fin 256) (last wait : Bool) : Opd := .src (.v n) last wait
def sr (n : Fin 160) (wait : Bool) : Opd := .src (.s n) false wait
def ic (n : Fin 48) : Opd := .src (.int n) false true
def lit (x : Dword) : Opd := .src (.lit x) false true
def reads (w : Dword) (x : Instr) : Prop := decodeWord false w 0 = .ok x
def readsLit (w l : Dword) (x : Instr) : Prop := decodeWord false w l = .ok x
def refused (w : Dword) (d : Nat) (o : Nat) : Prop :=
  (match decodeWord false w 0 with
    | .ok _ => none
    | .error r => some (r.check.detail, r.opnd, r.low)) = some (d, o, false)

theorem test_decode_integer :
    readsLit 0x0057_0281_3FE0_0990 0x25 (.imul ⟨g7, vr 5 false false, vr 4 true true, lit 0x25, .none, 0x10, 0⟩) ∧
    reads 0x0027_0401_00C0_31F0 (.iaddc ⟨g7, vr 8 false false, vr 4 false true, vr 6 false true, .pred false 3, 0x30, 0⟩) := by
  unfold reads readsLit; decide +kernel

theorem test_decode_logic :
    reads 0x09E7_0500_4040_31F0 (.blut ⟨g7, vr 10 false false, vr 1 false true, vr 2 false true, vr 3 false true, 0x30, 6⟩) ∧
    reads 0x08F7_96CB_0000_0130 (.ctz ⟨g7, sr 45 false, sr 44 true, .none, .none, 0x30, 0⟩) := by
  unfold reads; decide +kernel

theorem test_decode_paired :
    reads 0x8081_0270_2203_0131 (.pairedWord ⟨.iadd, 2, vr 9 true true, 0⟩ ⟨.fmul, 3, vr 2 false true, 0x11⟩) := by
  unfold reads; decide +kernel

theorem test_decode_float :
    reads 0x1812_0201_6180_0993 (.fadd ⟨⟨false, 2⟩, vr 4 false false, vr 5 true true, sr 12 true, .none, 0x13, 0⟩) ∧
    reads 0x1847_0400_8072_89D1 (.ffma ⟨g7, vr 8 false false, vr 2 true true, vr 3 false true, sr 40 true, 0x11, 0⟩) := by
  unfold reads; decide +kernel

theorem test_decode_conversion :
    reads 0x20A7_0302_4000_A12A (.fcvt ⟨g7, vr 6 false false, vr 9 false true, .none, .ext 10 false, 0x2A, 0⟩) ∧
    reads 0x20B7_0381_0000_2111 (.ftoi ⟨g7, vr 7 false false, vr 4 false true, .none, .ext 2 false, 0x11, 0⟩) ∧
    reads 0x2107_0802_2440_0180 (.rngpx ⟨g7, vr 16 false false, vr 8 false true, sr 34 true, .none, 0, 0⟩) := by
  unfold reads; decide +kernel

theorem test_decode_control :
    reads 0x2817_FFFF_FD00_0000 (.bra ⟨g7, -3, .none, 0⟩) ∧ reads 0x2837_0000_0C00_07C0 (.call ⟨g7, 12, .none, 0x7C0⟩) ∧
    reads 0x2857_0000_001F_6000 (.ret ⟨g7, 0, vr 62 true true, 0⟩) ∧ reads 0x2867_0000_04EA_A000 (.loop ⟨g7, 4, ic 21, 0⟩) ∧
    reads 0x2871_0000_0000_0000 (.lbrk ⟨⟨false, 1⟩, 0, .none, 0⟩) := by
  unfold reads; decide +kernel

theorem test_decode_traps :
    reads 0x28A2_0075_4000_0100 (.trap ⟨⟨false, 2⟩, .none, ic 21, .none, .none, 0, 0⟩) ∧
    reads 0x28B7_0000_0000_0000 (.tret ⟨g7, .none, .none, .none, .none, 0, 0⟩) ∧
    reads 0x28D7_9400_0120_0002 (.movxRead ⟨g7, sr 40 false, .none, .ext 9 false, .none, 2, 0⟩) ∧
    reads 0x28D7_004A_0120_0103 (.movxWrite ⟨g7, .none, sr 40 true, .ext 9 false, .none, 3, 0⟩) ∧
    reads 0x2FF7_0000_0000_1234 (.illeg 0x7_0000_0000_1234) := by
  unfold reads; decide +kernel

theorem test_decode_lanes :
    reads 0x3017_0602_FA3C_F1F3 (.shfl ⟨g7, vr 12 false false, vr 11 false true, ic 17, ic 15, 0x33, 0⟩) ∧
    reads 0x3167_9402_003A_C157 (.redx ⟨g7, sr 40 false, vr 8 false true, .ext 1 false, .src (.special 12) false true, 0x17, 6⟩) ∧
    reads 0x3077_0073_C000_0100 (.wsync ⟨g7, .none, ic 15, .none, .none, 0, 0⟩) ∧
    reads 0x3087_0000_0900_0004 (.reform ⟨g7, 9, .none, 4⟩) ∧
    reads 0x3097_0000_0000_0000 (.bar ⟨g7, .none, .none, .none, .none, 0, 0⟩) := by
  unfold reads; decide +kernel

theorem test_decode_memory :
    reads 0x38C7_0381_0000_0408 (.ld ⟨g7, vr 7 false false, vr 4 false true, 0, .normal, .rlx, .dev, 0, 4⟩) ∧
    reads 0x3957_064A_0004_072C (.st ⟨g7, vr 12 true true, sr 40 true, 0x40, .normal, .rel, .sys, 0, 5⟩) ∧
    reads 0x3A97_A04A_0000_0518 (.atom ⟨g7, sr 64 true, sr 40 true, 0, .normal, .acq, .dev, 0, 9⟩) ∧
    readsLit 0x4147_FFC0_0000_0508 0xA902314E (.sts ⟨g7, lit 0xA902314E, sr 0 true, 0, .normal, .rlx, .dev, 0, 4⟩) := by
  unfold reads readsLit; decide +kernel

theorem test_decode_order :
    reads 0x4907_E84A_0000_0508 (.waitv ⟨g7, ic 16, sr 40 true, 0, .normal, .rlx, .dev, 0, 0⟩) ∧
    reads 0x4817_0000_0000_002C (.fence ⟨g7, .none, .none, .none, .none, 0x2C, 0⟩) ∧
    reads 0x4827_0040_0000_0408 (.cctlIinv ⟨g7, .none, sr 0 true, 0, .normal, .rlx, .dev, 0, 0⟩) ∧
    reads 0x4837_9441_211D_01C0 (.retain ⟨g7, sr 40 false, sr 4 true, sr 8 true, ic 16, 0, 0⟩) := by
  unfold reads; decide +kernel

theorem test_decode_copies :
    readsLit 0x50A1_007F_FAA0_0180 0x38 (.bari ⟨⟨false, 1⟩, .none, lit 0x38, ic 21, .none, 0, 0⟩) ∧
    readsLit 0x5021_0042_3FE0_0180 0x38 (.copyo ⟨⟨false, 1⟩, .none, sr 8 true, lit 0x38, .none, 0, 0⟩) ∧
    readsLit 0x50B7_947F_FA20_0181 0x38 (.bara ⟨g7, sr 40 false, lit 0x38, ic 17, .none, 1, 0⟩) ∧
    readsLit 0x50C7_007F_E500_0180 0x38 (.barw ⟨g7, .none, lit 0x38, sr 40 true, .none, 0, 0⟩) ∧
    reads 0x5067_A800_0000_0000 (.cseal ⟨g7, sr 80 false, .none, .none, .none, 0, 0⟩) ∧
    reads 0x5057_0074_4000_0100 (.touch ⟨g7, .none, ic 17, .none, .none, 0, 0⟩) := by
  unfold reads readsLit; decide +kernel

theorem test_decode_matrix :
    reads 0x5817_0000_3A1D_00C0 (.tld ⟨g7, .none, .ext 0 false, ic 16, ic 16, 0, 0⟩) ∧
    reads 0x5847_0000_0020_0040 (.mma ⟨g7, .none, .ext 0 false, .ext 1 false, .ext 0 true, 0, 0⟩) ∧
    reads 0x5857_0076_2200_01C4 (.mloop ⟨g7, .none, ic 24, sr 16 true, .ext 0 true, 4, 0⟩) ∧
    reads 0x58B7_0474_0000_0149 (.accrd ⟨g7, vr 8 false false, ic 16, .ext 0 false, .ext 0 true, 9, 0⟩) ∧
    reads 0x5887_0000_0000_0040 (.accz ⟨g7, .none, .none, .none, .ext 0 true, 0, 0⟩) ∧
    reads 0x5877_0000_4000_0002 (.mgenOnes ⟨g7, .none, .ext 1 false, .none, .none, 2, 0⟩) := by
  unfold reads; decide +kernel

theorem test_decode_chairlift :
    reads 0x6017_994A_0000_0100 (.spawn ⟨g7, sr 50 false, sr 40 true, .none, .none, 0, 0⟩) ∧
    reads 0x6027_994A_2540_0180 (.spawnj ⟨g7, sr 50 false, sr 40 true, sr 42 true, .none, 0, 0⟩) ∧
    reads 0x6037_9A00_0000_0000 (.yield ⟨g7, sr 52 false, .none, .none, .none, 0, 0⟩) ∧
    reads 0x6047_994A_2552_C1C0 (.tsend ⟨g7, sr 50 false, sr 40 true, sr 42 true, sr 44 true, 0, 0⟩) := by
  unfold reads; decide +kernel

theorem test_decode_supervisor :
    reads 0x6817_0074_C000_0100 (.svc ⟨g7, .none, ic 19, .none, .none, 0, 0⟩) ∧
    reads 0x6827_000F_8000_0900 (.sret ⟨g7, .none, vr 62 true true, .none, .none, 0, 0⟩) ∧
    reads 0x6837_0480_0000_0000 (.errinjReg ⟨g7, vr 9 false false, .none, .none, .none, 0, 0⟩) ∧
    reads 0x6837_004A_0000_0103 (.errinjSpad ⟨g7, .none, sr 40 true, .none, .none, 3, 0⟩) ∧
    reads 0x6847_004A_3ABD_11C0 (.uisend ⟨g7, .none, sr 40 true, ic 21, ic 17, 0, 0⟩) ∧
    reads 0x6857_9E00_0000_0001 (.uiwait ⟨g7, sr 60 false, .none, .none, .none, 1, 0⟩) := by
  unfold reads; decide +kernel

/-- The table of malformed words of section 04. -/
theorem test_refused_words :
    refused 0 1 0 ∧ refused 0xFFFF_FFFF_FFFF_FFFF 1 0 ∧ refused 0x7007_0000_0000_0000 3 0 ∧ refused 0xC081_0270_2203_0131 2 0 ∧
    refused 0x1817_0201_40C0_0198 9 1 ∧ refused 0x8081_8270_2205_0131 15 4 := by
  unfold refused; decide +kernel

/-- Cross-lane words are not for the Lodge (R95). -/
theorem test_refused_lodge : (decodeWord true 0x3097_0000_0000_0000 0).toOption = none := by decide +kernel

/-! WellFormed: an ill-formed term for each of its checks. -/

def addOf (d a b c : Opd) (m : BitVec 6) (k : BitVec 4) : Instr := .iadd ⟨g7, d, a, b, c, m, k⟩
def ldOf (d b : Opd) (o : BitVec 18) (c : CacheClass) (x : BitVec 2) (z : BitVec 4) : Instr := .ld ⟨g7, d, b, o, c, .rlx, .dev, x, z⟩

theorem test_wf_accepts :
    (addOf (vr 1 false false) (vr 2 true true) (ic 3) .none 0x10 0).wf = true ∧
    (ldOf (vr 7 false false) (vr 4 false true) 0 .normal 0 4).wf = true ∧ (Instr.bra ⟨g7, -3, .none, 0⟩).wf = true := by
  decide +kernel

theorem test_wf_word_form :
    (addOf (vr 1 false false) (vr 2 true true) (ic 3) .none 0x10 1).wf = false ∧
    (addOf (vr 1 false false) (vr 2 true true) (ic 3) .none 0x17 0).wf = false ∧
    (addOf .none (vr 2 true true) (ic 3) .none 0x10 0).wf = false ∧
    (addOf (vr 1 true false) (vr 2 true true) (ic 3) .none 0x10 0).wf = false ∧
    (addOf (vr 1 false false) (.pred false 0) (ic 3) .none 0x10 0).wf = false ∧
    (addOf (vr 1 false false) (vr 2 true true) .none .none 0x10 0).wf = false ∧
    (addOf (vr 1 false false) (vr 2 true true) (ic 3) (ic 3) 0x10 0).wf = false ∧
    (addOf (vr 1 false false) (lit 1) (lit 1) .none 0x10 0).wf = false ∧
    (addOf (sr 1 false) (vr 2 true true) (ic 3) .none 0x10 0).wf = false ∧
    (addOf (vr 1 false false) (vr 3 true true) (vr 2 true true) .none 0x18 0).wf = false ∧
    (Instr.movxRead ⟨g7, sr 40 false, .none, .ext 9 false, .none, 3, 0⟩).wf = false := by
  decide +kernel

theorem test_wf_memory_form :
    (ldOf (vr 7 false false) (vr 4 false true) 0 .normal 0 15).wf = false ∧
    (ldOf (vr 7 false false) (vr 4 false true) 0 .normal 3 4).wf = false ∧
    (ldOf .none (vr 4 false true) 0 .normal 0 4).wf = false ∧
    (ldOf (vr 7 false false) (lit 1) 0 .normal 0 4).wf = false ∧
    (ldOf (sr 7 false) (vr 4 false true) 0 .normal 0 4).wf = false ∧
    (Instr.cctlIinv ⟨g7, .none, sr 0 true, 8, .normal, .rlx, .dev, 0, 0⟩).wf = false ∧
    (Instr.atom ⟨g7, sr 64 true, sr 40 true, 0, .normal, .acq, .dev, 0, 15⟩).wf = false := by
  decide +kernel

theorem test_wf_branch_form :
    (Instr.bra ⟨g7, 0, .none, 1⟩).wf = false ∧ (Instr.lbrk ⟨g7, 1, .none, 0⟩).wf = false ∧
    (Instr.ret ⟨g7, 0, .none, 0⟩).wf = false := by
  decide +kernel

theorem test_wf_paired_form :
    (Instr.pairedWord ⟨.iadd, 3, vr 9 true true, 0⟩ ⟨.fmul, 3, vr 2 false true, 0x11⟩).wf = false ∧
    (Instr.pairedWord ⟨.iadd, 2, vr 9 true true, 0⟩ ⟨.fmul, 2, vr 2 false true, 0x11⟩).wf = false ∧
    (Instr.pairedWord ⟨.iadd, 2, .none, 0⟩ ⟨.fmul, 3, vr 2 false true, 0x11⟩).wf = false ∧
    (Instr.pairedWord ⟨.iadd, 2, vr 9 true true, 0⟩ ⟨.fmul, 3, lit 0, 0x11⟩).wf = false ∧
    (Instr.pairedWord ⟨.iadd, 2, vr 9 true true, 0⟩ ⟨.fmul, 3, vr 2 false true, 0x1F⟩).wf = false := by
  decide +kernel

/-! Results: the worked examples and boundary tables of the spec. -/

/-- The warp of the tests: 32 lanes on core 0 at 0x10000, nothing mapped. -/
def w0 : Warp := loadWarp

/-- A machine in which a warp issues a word in the lanes of a mask. -/
def at0 (w : Warp) (m : Mask := BitVec.allOnes 32) : State :=
  { State.reset with
    scrub := [(0, ⟨granules 0, [], none⟩)]
    mem := loadCells [] 64 0
    parts := [(0, { Part.empty with desc := loadDesc })]
    wgs := [(0, { loadWg with spadBytes := 4096 })]
    warps := [(0, w)]
    cores := [(0, Core.empty)]
    cur := some ⟨0, m, BitVec.ofNat 64 loadPc, 1⟩ }

/-- v registers that hold one value in every lane. -/
def withV (w : Warp) (l : List (Nat × Nat)) : Warp :=
  l.foldl (fun w e => vWrite w e.1 (BitVec.allOnes 32) (fun _ => Val.clean (BitVec.ofNat 32 e.2))) w

/-- s registers that hold values. -/
def withS (w : Warp) (l : List (Nat × Nat)) : Warp := l.foldl (fun w e => sWrite w e.1 (Val.clean (BitVec.ofNat 32 e.2))) w

/-- The warp after a word. -/
def after (x : Instr) (s : State) : Option Warp :=
  match exec x s with
  | .next t => warp? t 0
  | _ => none

/-- v register r of lane 0 after a word. -/
def vAfter (x : Instr) (w : Warp) (r : Nat) : Option Nat := (after x (at0 w)).map (fun w => (vRead w r 0).bits.toNat)

/-- v8 and the flags after a word with v4, v6, v2 as its sources. -/
def compute (mk : WordF → Instr) (m : BitVec 6) (a b c : Nat) (sc : Opd := .none) (sb : Opd := vr 6 false true) : Option (Nat × Nat) :=
  (after (mk ⟨g7, vr 8 false false, vr 4 false true, sb, sc, m, 0⟩) (at0 (withV w0 [(4, a), (6, b), (2, c)]))).map
    (fun w => ((vRead w 8 0).bits.toNat, w.fpFlags.toNat))

def int (mk : WordF → Instr) (m : BitVec 6) (a b c : Nat) (sc : Opd := .none) : Option Nat := (compute mk m a b c sc).map Prod.fst

/-- Section 05, Boundaries. -/
theorem test_sums : int .iadd 0 0x71 0x23 0 = some 0xFFFFFF94 ∧ int .iadd 1 0x71 0x23 0 = some 0x7F ∧
    int .isub 0x28 0x13 0x20 0 = some 0xFFF3 ∧ int .isub 0x29 0x13 0x20 0 = some 0 := by decide +kernel
theorem test_iabs : int .iabs 0x10 0x80000000 0 0 = some 0x80000000 ∧ int .iabs 0x11 0x80000000 0 0 = some 0x7FFFFFFF := by
  decide +kernel
theorem test_division : int .idiv 0x10 0xFFFFFFF9 2 0 = some 0xFFFFFFFD ∧ int .irem 0x10 0xFFFFFFF9 2 0 = some 0xFFFFFFFF ∧
    int .idiv 0x10 0x80000000 0xFFFFFFFF 0 = some 0x80000000 ∧ int .irem 0x10 0x80000000 0xFFFFFFFF 0 = some 0 := by
  decide +kernel
theorem test_division_zero : int .idiv 0x20 0x12D 0 0 = some 0xFF ∧ int .irem 0x20 0x12D 0 0 = some 0x2D := by decide +kernel
theorem test_shifts : int .sar 0x10 0x80000040 35 0 = some 0xFFFFFFFF ∧ int .sar 0x11 0x80000040 35 0 = some 0xF0000008 ∧
    int .shl 0x30 0x80000040 35 0 = some 0 ∧ int .shl 0x31 0x80000040 35 0 = some 0x200 := by decide +kernel
theorem test_fields : int .fsh 0x30 0x12345678 0x9ABCDEF0 40 (vr 2 false true) = some 0x12345678 ∧
    int .fsh 0x32 0x12345678 0x9ABCDEF0 40 (vr 2 false true) = some 0x789ABCDE ∧
    int .bfe 0x10 0xA5C0 0x506 0 = some 0xFFFFFFF7 ∧ int .bfe 0x30 0xA5C0 0x506 0 = some 0x17 ∧
    int .bfi 0x30 0x17 0xFFFF0000 0x506 (vr 2 false true) = some 0xFFFF05C0 := by decide +kernel
theorem test_bswz : int .bswz 0x30 0x44332211 0x88776655 0x27000501 (vr 2 false true) = some 0xFF116622 ∧
    int .bswz 0x30 0x44332211 0x88776655 0x30000501 (vr 2 false true) = some 0x88116622 := by decide +kernel
/-- Section 05: a limb with its carry, and the lookup 0xD8. -/
theorem test_iaddc : ((after (.iaddc ⟨g7, vr 8 false false, vr 4 false true, vr 6 false true, .pred false 3, 0x30, 0⟩)
    (at0 (withV w0 [(4, 0xFFFFFFF3), (6, 0x2A)]))).map (fun w => ((vRead w 8 0).bits.toNat, pRead w 3 0))) = some (0x1D, true) := by
  decide +kernel
theorem test_blut : vAfter (.blut ⟨g7, vr 10 false false, vr 1 false true, vr 2 false true, vr 3 false true, 0x30, 6⟩)
    (withV w0 [(1, 0x0F0F00FF), (2, 0x12345678), (3, 0xABCDEF01)]) 10 = some 0xA2C4EF78 := by decide +kernel
/-- Section 06, conversions lane by lane: NX is 1, OF with NX 5, NV 16. -/
theorem test_fcvt : compute .fcvt 0x2A 0x41310000 0 0 (.ext 10 false) .none = some (0x53, 1) ∧
    compute .fcvt 0x2A 0x43FA0000 0 0 (.ext 10 false) .none = some (0x7E, 5) ∧
    compute .fcvt 0x2A 0x7F800000 0 0 (.ext 10 false) .none = some (0x7F, 16) ∧
    compute .fcvt 0x2A 0xC0200000 0 0 (.ext 10 false) .none = some (0xC2, 0) := by decide +kernel
theorem test_ftoi : compute .ftoi 0x11 0x41310000 0 0 (.ext 2 false) .none = some (0xB, 1) ∧
    compute .ftoi 0x11 0xBF800001 0 0 (.ext 2 false) .none = some (0xFFFFFFFF, 1) ∧
    compute .ftoi 0x11 0x4F000000 0 0 (.ext 2 false) .none = some (0x7FFFFFFF, 16) := by decide +kernel
/-- Section 06: the random draw of zero counters and key. -/
theorem test_rngpx : philox 0 0 0 0 0 0 = [0x6627E8D5, 0xE169C58D, 0xBC57AC4C, 0x9B00DBD8] := by decide +kernel
theorem test_rngf : int .rngf 0x10 0x6627E8D5 0 0 = some 0x3ECC4FD0 := by decide +kernel
/-- Section 06: 7/3, 1/0 and 0/0. -/
theorem test_fdiv : fpDiv .f32 .rne false 0x40E00000 0x40400000 = (0x40155555, 1) ∧
    fpDiv .f32 .rne false 0x3F800000 0 = (0x7F800000, 8) ∧ fpDiv .f32 .rne false 0 0 = (0x7FC00000, 16) := by decide +kernel
/-- Section 07: LOOP with a count of 5 opens a level; the count falls by one at the back-edge; LBRK leaves. -/
theorem test_loop : (after (.loop ⟨g7, 4, ic 21, 0⟩) (at0 w0)).map (fun w => w.loops) =
    some [⟨0x10008, 0x10020, 5, BitVec.allOnes 32⟩] := by decide +kernel
theorem test_back_edge :
    (after .issueAtLend (at0 { w0 with loops := [⟨0x10008, BitVec.ofNat 64 loadPc, 5, 0x0007FFFF⟩] } 0x0007FFFF)).map
      (fun w => (w.loops, w.pc[0], w.pc[31])) = some ([⟨0x10008, 0x10000, 4, 0x0007FFFF⟩], 0x10008, 0x10000) := by decide +kernel
/-- Section 07: TRAP 5 in lanes 1 and 6 of a group of eight enters the handler. -/
theorem test_trap : (after (.trap ⟨⟨false, 2⟩, .none, ic 21, .none, .none, 0, 0⟩)
    (at0 (pWrite { w0 with trapvec := 0x9000 } 2 (BitVec.allOnes 32) 0x42) 0xFF)).map
      (fun w => (w.trappc, w.trapcause, w.tmask, w.intrap, w.pc[7], w.pc[8])) =
    some (0x10000, 0x0000004200050007, 0xFF, true, 0x9000, 0x10000) := by decide +kernel
theorem test_tret : (after (.tret ⟨g7, .none, .none, .none, .none, 0, 0⟩)
    (at0 { w0 with trappc := 0x401A40, tmask := 0xFF, intrap := true } 0xFF)).map (fun w => (w.intrap, w.pc[0], w.pc[8])) =
    some (false, 0x401A40, 0x10000) := by decide +kernel
/-- Section 09: the reduction and the scan with lane 3 off-path and lane 6 exited. -/
def laneWarp : Warp :=
  vWrite { w0 with conv := 0xFFFFFFBF } 8 0xB7 (fun l => Val.clean ((([(0, 0x3FC00000), (1, 0x3E800000), (2, 0x40400000),
    (4, 0x4B800000), (5, 0x3F800000), (7, 0xCB800000)] : List (Nat × Word)).find? (fun e => e.1 == l.val)).elim 0 Prod.snd))
theorem test_redx : (after (.redx ⟨g7, sr 40 false, vr 8 false true, .ext 1 false, lit 0xFF, 0x13, 6⟩)
    (at0 laneWarp 0xFFFFFFB7)).map (fun w => ((sRead w 40).bits, w.fpFlags, pMask w 3)) =
    some (0x40980000, 1, 0xFFFFFFB7) := by decide +kernel
theorem test_scanx : (after (.scanx ⟨g7, vr 9 false false, vr 8 false true, .ext 1 false, lit 0xFF, 0x13, 6⟩)
    (at0 laneWarp 0xFFFFFFB7)).map (fun w => ((vRead w 9 2).bits, (vRead w 9 5).bits, (vRead w 9 31).bits)) =
    some (0x40980000, 0x4B800002, 0x40800000) := by decide +kernel
theorem test_shfl : (after (.shfl ⟨g7, vr 10 false false, vr 8 false true, ic 22, lit 0xFF, 4, 0⟩)
    (at0 laneWarp 0xFFFFFFB7)).map (fun w => ((vRead w 10 0).bits, pRead w 4 0)) = some (0, true) := by decide +kernel
/-- Section 14: the object words of the worked example: five expected, three and then two arrivals. -/
theorem test_object_word : arrive (2 ^ 63 + 5 * 2 ^ 16 + 5) 3 = 2 ^ 63 + 5 * 2 ^ 16 + 2 ∧
    arrive (2 ^ 63 + 5 * 2 ^ 16 + 2) 2 = 2 ^ 63 + 2 ^ 32 + 5 * 2 ^ 16 + 5 := by decide +kernel
/-- A store and then a load of the stored bytes, little-endian (R6). -/
theorem test_store_load : (match exec (.st ⟨g7, sr 41 true, sr 42 true, 0, .normal, .rlx, .dev, 0, 4⟩)
      (at0 (withS w0 [(41, 0x11223344), (42, 0x20000)])) with
    | .next t => memGets t.mem 0x20000 4
    | _ => []) = [0x44, 0x33, 0x22, 0x11] := by decide +kernel

/-! Witnesses: for each statement with hypotheses, a concrete state and operands that meet them. -/

/-- The instruction of a word. -/
def word (w : Dword) (l : Dword := 0) : Instr := (decodeWord false w l).toOption.getD (.illeg 0)

/-- The issue in progress of a state, for a word. -/
def issue (x : Instr) (s : State) : Iss := (issOf s (guardOfInstr x)).getD ⟨0, 0, 0, 0, 0, w0⟩

/-- The word acts: Acts as a computation. -/
def actsB (x : Instr) (s : State) : Bool :=
  let i := issue x s
  (issOf s (guardOfInstr x)).isSome && !lendWait i && !operandsWait i.w x && (staleTrap i x).isNone && (leaseTrap i x).isNone &&
    (i.l == 0#32 || poolRoom s i.place i.pc (release i.w i.whole (lastUses x) (destsOf x).1) (destsOf x).1)

/-- The word is clean: Clean as a computation. -/
def cleanB (x : Instr) (s : State) : Bool := actsB x s && (poisonTrap (issue x s) (sourcesOf x)).isNone

theorem acts_of {x : Instr} {s : State} (h : actsB x s = true) : Acts x s (issue x s) := by
  simp only [actsB, Bool.and_eq_true, Bool.not_eq_true', Option.isNone_iff_eq_none] at h
  obtain ⟨⟨⟨⟨⟨h0, h1⟩, h2⟩, h3⟩, h4⟩, h5⟩ := h
  obtain ⟨i, hi⟩ := Option.isSome_iff_exists.mp h0
  have e : issue x s = i := by simp [issue, hi]
  exact ⟨by rw [e]; exact hi, h1, h2, h3, h4, h5⟩

theorem clean_of {x : Instr} {s : State} (h : cleanB x s = true) : Clean x s (issue x s) := by
  simp only [cleanB, Bool.and_eq_true, Option.isNone_iff_eq_none] at h
  exact ⟨acts_of h.1, h.2⟩

/-- The words of a list are well formed and issue cleanly in all 32 lanes of the test warp. -/
def allClean (l : List Nat) : Bool :=
  l.all (fun w => (decodeWord false (BitVec.ofNat 64 w) 0).toOption.isSome && (word (BitVec.ofNat 64 w)).wf &&
    cleanB (word (BitVec.ofNat 64 w)) (at0 w0))

/-- A word is well formed, issues cleanly, and its issue has a property. -/
def meets (s : State) (p : Iss → Bool) (x : Instr) : Bool := x.wf && cleanB x s && p (issue x s)

theorem clean_meets {s : State} {p : Iss → Bool} {x : Instr} (h : meets s p x = true) :
    Clean x s (issue x s) ∧ p (issue x s) = true := by
  simp only [meets, Bool.and_eq_true] at h
  exact ⟨clean_of h.1.2, h.2⟩

/-- A guard that holds in no lane of the test warp, whose p1 is 0. -/
def gNone : Guard := ⟨false, 1⟩
def one (mk : WordF → Instr) (a : Opd := .none) (m : BitVec 6 := 0) (g : Guard := g7) : Instr := mk ⟨g, .none, a, .none, .none, m, 0⟩

/-- IADD, ISUB, IMUL, IMAD, IMULH, IABS, INEG, IMIN, IMAX, ISAD, ICLAMP, IDIV, IREM, IADDC, ISUBB, IMADW, LEA, IDP4,
IDP2. -/
def integerWords : List Nat :=
  [0x17040100c00000, 0x37040100c00000, 0x57040100c00000, 0x77040100c001c0, 0x67040100c00030, 0xb7040100000000,
   0xc7040100000000, 0xd7040100c00000, 0xe7040100c00000, 0xf7040100c001c0, 0x1097040100c001c0, 0x97040100c00000,
   0xa7040100c00000, 0x27040100c001f0, 0x47040100c001f0, 0x87040100c001f0, 0x107040100c00030, 0x117040100c001c0,
   0x127040100c001c8]
/-- The premises of IntegerArithmeticResults, DivisionResults, CarryChainResults, WideAndDotResults, ComputeLeaves. -/
theorem wit_integer_words : allClean integerWords = true := by decide +kernel

/-- AND, OR, XOR, ANDN, ORN, BLUT, SHL, SHR, SAR, ROT, FSH, BFE, BFI, POPC, CLZ, CTZ, BREV, BSWZ, ICMP, SEL, MOV, MOVL,
CVTI, P2V, V2P, PLUT. -/
def logicWords : List Nat :=
  [0x817040100c00030, 0x827040100c00030, 0x837040100c00030, 0x847040100c00030, 0x857040100c00030, 0x987040100c001c0,
   0x867040100c00030, 0x877040100c00030, 0x887040100c00030, 0x897040100c00030, 0x8a7040100c001f0, 0x8b7040100c00030,
   0x8c7040100c001f0, 0x8d7040100000030, 0x8e7040100000030, 0x8f7040100000030, 0x907040100000030, 0x917040100c001f0,
   0x1017000100c001c0, 0x1037040100c001f0, 0x1047040100000030, 0x1057040100c00038, 0x1067040100000000, 0x1077040000000030,
   0x1087000100c00030, 0x1107000100c001c0]
/-- The premises of LogicResults, ShiftResults, FieldResults, CountAndSwizzleResults, SelectAndMoveResults, ComputeLeaves. -/
theorem wit_logic_words : allClean logicWords = true := by decide +kernel

/-- FADD, FSUB, FMUL, FFMA, FMIN, FMAX, FMINM, FMAXM, FSGN, FRND, FSCALE, FCLASS, FCMP, FADD2, FMUL2, FFMA2, FDOT2,
FDOT4, FCVT, FTOI, ITOF, FCVTSR, FGETE, FGETM, RNGF. -/
def floatWords : List Nat :=
  [0x1817040100c00000, 0x1827040100c00000, 0x1837040100c00000, 0x1847040100c001c0, 0x1857040100c00000, 0x1867040100c00000,
   0x1877040100c00000, 0x1887040100c00000, 0x18b7040100c00000, 0x18d7040100000000, 0x18c7040100c00000, 0x18a7040100000000,
   0x1897000100c00000, 0x1907040100c00000, 0x1917040100c00000, 0x1927040100c001c0, 0x18e7040100c001c0, 0x18f7040100c001e0,
   0x20a7040100000000, 0x20b7040100000000, 0x20c7040100000000, 0x20d7040100c00000, 0x20e7040100000000, 0x20f7040100000000,
   0x2117040100000010]
/-- The premises of FloatArithmeticResults, PackedFloatResults, ConversionResults, SignReplaced, FloatLeaves. -/
theorem wit_float_words : allClean floatWords = true := by decide +kernel

/-- FRCP, FRSQ, FSQRT, FEXP2, FLOG2, FSINPI, FCOSPI, FTANH, FDIV, RNGPX. -/
def longWords : List Nat :=
  [0x2017040100000000, 0x2027040100000000, 0x2037040100000000, 0x2057040100000000, 0x2067040100000000, 0x2077040100000000,
   0x2087040100000000, 0x2097040100000000, 0x2047040100c00000, 0x2107040100c00000]
/-- The premises of LongWordsDeliver. -/
theorem wit_long_words : allClean longWords = true := by decide +kernel

/-- SHFL, BCAST, VOTE, MATCHX, REDX, SCANX, WSYNC. -/
def laneWords : List Nat :=
  [0x3017040100d281c0, 0x3057040125000000, 0x3027000100128100, 0x3067040100128000, 0x3107040100128030, 0x3187040100128030,
   0x3077004a00000000]
/-- The premises of LaneWordResults, ReduceAndScanResults. -/
theorem wit_lane_words : allClean laneWords = true := by decide +kernel


theorem wit_BranchesTransfer : ([.bra ⟨g7, -3, .none, 0⟩, .brx ⟨g7, 0, vr 4 false true, 0⟩, .call ⟨g7, 12, .none, 0x7C0⟩,
    .callx ⟨g7, 0, vr 4 false true, 0x7C0⟩, .ret ⟨g7, 0, vr 62 false true, 0⟩] : List Instr).all
      (meets (at0 w0) (fun i => !atLend i)) = true ∧
    meets (at0 (withV w0 [(62, 4)])) (fun i => !atLend i) (.ret ⟨g7, 0, vr 62 false true, 0⟩) = true := by decide +kernel

def loopOf (g : Guard) (n : Fin 48) : WordB := ⟨g, 4, ic n, 0⟩
def inLoop (c : Word) : Warp := { w0 with loops := [⟨0x10000, 0x10020, c, BitVec.allOnes 32⟩] }

/-- How the fetch of the word at a body's end ends: 0 a word, 1 a park, 2 a trap, 3 a denial met before. -/
def pastB (s : State) (i : Iss) (x : Instr) (last : Dword) : Nat :=
  if (fetchDenied i.w i.a i.pc).isSome then 3
  else match (fetchAt (wordState s i x) i.place i.w last).2 with
    | .word _ => 0
    | .park _ => 1
    | .trap _ _ _ => 2

/-- A denial of the fetch of the word at 0x10000. -/
def deniedFetch : Denied := ⟨0x10000, 0x10, 7, BitVec.allOnes 32, true⟩

/-- LOOP of a count of 0, to a body's end that is mapped, that is not, that was denied, and that lies outside the address space. -/
theorem wit_LoopsOpen :
    meets (at0 w0) (fun i => (loopBad (loopOf gNone 21) (at0 w0) i).isNone && i.l == 0) (.loop (loopOf gNone 21)) = true ∧
    meets (at0 w0) (fun i => (loopBad (loopOf g7 21) (at0 w0) i).isNone && i.l != 0 && uniVal (at0 w0) i (.int 32) (ic 21) != 0)
      (.loop (loopOf g7 21)) = true ∧
    ([(w0, BitVec.ofNat 64 loadPc, 0), (w0, 2 ^ 30 - 8, 1), (w0, 2 ^ 57 - 8, 2), ({ w0 with denied := [deniedFetch] }, 0x10000, 3)] :
      List (Warp × Dword × Nat)).all (fun e =>
        let s := { at0 e.1 with cur := some ⟨0, BitVec.allOnes 32, e.2.1, 1⟩ }
        meets s (fun i => (loopBad (loopOf g7 16) s i).isNone && i.l != 0 && uniVal s i (.int 32) (ic 16) == 0 &&
          pastB s i (.loop (loopOf g7 16)) (dispTarget i (loopOf g7 16)) == e.2.2) (.loop (loopOf g7 16))) = true := by
  decide +kernel

theorem wit_LoopsBreak :
    meets (at0 (inLoop 5)) (fun i => (lbrkBad ⟨gNone, 0, .none, 0⟩ (at0 (inLoop 5)) i).isNone && i.l == 0)
      (.lbrk ⟨gNone, 0, .none, 0⟩) = true ∧
    ([(0x10020, 0), (2 ^ 30, 1), (2 ^ 60, 2), (0x10028, 3)] : List (Dword × Nat)).all (fun e =>
      let s := at0 { w0 with
        loops := [⟨0x10000, e.1, 5, BitVec.allOnes 32⟩]
        denied := if e.2 = 3 then [deniedFetch] else [] }
      meets s (fun i => (lbrkBad ⟨g7, 0, .none, 0⟩ s i).isNone && i.l != 0 && i.w.loops.length == 1 &&
        pastB s i (.lbrk ⟨g7, 0, .none, 0⟩) e.1 == e.2) (.lbrk ⟨g7, 0, .none, 0⟩)) = true := by decide +kernel

theorem wit_BackEdgeTaken : (∀ c ∈ ([0, 1, 2] : List Word), ∃ (s : State) (i : Issue) (w : Warp) (v : LoopLevel), s.cur = some i ∧
    warp? s i.place = some w ∧ w.loops.getLast? = some v ∧ v.last = i.pc ∧ v.count = c) ∧
    (∃ s : State, s.cur = none) ∧ (∃ (s : State) (c : Issue) (w : Warp), s.cur = some c ∧ warp? s c.place = some w ∧
      ∀ v, w.loops.getLast? = some v → v.last ≠ c.pc) := by
  refine ⟨fun c _ => ⟨at0 { w0 with loops := [⟨0x10000, BitVec.ofNat 64 loadPc, c, BitVec.allOnes 32⟩] }, _, _, _, rfl, rfl, rfl, rfl,
    rfl⟩, ⟨State.reset, rfl⟩, at0 w0, _, w0, rfl, rfl, fun v h => ?_⟩
  cases h

theorem wit_NopOnlyMoves : ∃ f s i, Acts (.nop f) s i :=
  ⟨⟨g7, .none, .none, .none, .none, 0, 0⟩, at0 w0, _, acts_of (by decide +kernel)⟩

theorem wit_ExitRemovesLanes :
    meets (at0 w0) (fun i => (exitBad (at0 w0) i).isNone) (one .exit) = true := by decide +kernel

theorem wit_UserTrapsRaise : [g7, gNone].all (fun g => [one .trap (ic 21) 0 g, one .bkpt (ic 21) 0 g].all
    (meets (at0 w0) (fun i => !atLend i && ((i.l == 0) == (g == gNone))))) = true := by decide +kernel

theorem wit_IllegRaises : ∃ n s i, Acts (.illeg n) s i := ⟨0x1234, at0 w0, _, acts_of (by decide +kernel)⟩

def trapWarp : Warp := { w0 with trapvec := 0x9000 }

theorem wit_TrapEntersHandler : ∃ s w, warp? s 0 = some w ∧ w.intrap = false ∧ w.trapvec ≠ 0#64 ∧ w.svclane = none ∧
    isLodge 0 = false :=
  ⟨at0 trapWarp, trapWarp, rfl, rfl, by decide, rfl, by decide⟩

/-- A warp in its handler, entered by lanes 0 to 7. -/
def handlerWarp (pc : Dword) : Warp := { w0 with intrap := true, tmask := 0xFF, trappc := pc }

theorem wit_TrapReturnResumes :
    (let s := at0 (handlerWarp 0x10000) 0x0F
     let i := issue (one .tret) s
     (issOf s g7).isSome && i.w.intrap && i.w.svclane.isNone && !Mask.sub i.w.tmask i.a) = true ∧
    ([(0x10000, g7), (0x10000, gNone), (0x10004, g7)] : List (Dword × Guard)).all (fun e =>
      meets (at0 (handlerWarp e.1) 0xFF) (fun i => !tretWait (at0 (handlerWarp e.1) 0xFF) i &&
        (tretBad (at0 (handlerWarp e.1) 0xFF) i).isNone) (one .tret .none 0 e.2)) = true := by decide +kernel

theorem wit_HandlerRoundTrip : ∃ (w : Warp) (a : Mask) (pc : Dword), a ≠ 0 ∧ ∀ l : Lane, a.has l = true → w.pc[l] = pc :=
  ⟨w0, 0xFF, 0x10000, by decide, by decide +kernel⟩

theorem wit_MovxAccesses :
    meets (at0 w0) (fun i => !movxWait false ⟨g7, sr 40 false, .none, .ext 9 false, .none, 2, 0⟩ (at0 w0) i)
      (.movxRead ⟨g7, sr 40 false, .none, .ext 9 false, .none, 2, 0⟩) = true ∧
    [g7, gNone].all (fun g => meets (at0 w0) (fun i => !movxWait true ⟨g, .none, sr 40 true, .ext 9 false, .none, 3, 0⟩ (at0 w0) i)
      (.movxWrite ⟨g, .none, sr 40 true, .ext 9 false, .none, 3, 0⟩)) = true := by decide +kernel

theorem wit_LaneWordResults :
    ([.shfl ⟨g7, vr 12 false false, vr 11 false true, ic 17, ic 15, 0x33, 0⟩,
      .bcast ⟨g7, vr 12 false false, vr 11 false true, ic 17, .none, 0, 0⟩] : List Instr).all (fun x =>
      actsB x (at0 w0) && (poisonTrap (issue x (at0 w0)) (sideSources x)).isNone && (issue x (at0 w0)).l != 0) = true := by
  decide +kernel

def scanOf (k : BitVec 4) : WordF := ⟨g7, vr 9 false false, vr 8 false true, .ext 0 false, ic 15, 0x10, k⟩

theorem wit_ReductionsOverPresentLanes : ([0, 1, 2, 3, 4, 5] : List (BitVec 4)).all (fun k =>
    let s := at0 (withV w0 [(8, 0xFFFFFFFF)])
    let i := issue (.redx (scanOf k)) s
    (presentSet s i (scanOf k).c != 0) && allLanes.all (fun l =>
      decide (srcVal s i (.int (tyInt (scanOf k)).bits) (scanOf k).a l < 2 ^ (tyInt (scanOf k)).bits))) = true := by
  decide +kernel

/-- A reduction over no lane, and the forms on floating-point numbers. -/
theorem wit_TreesAndFolds : (presentSet (at0 w0) (issue (.redx (scanOf 1)) (at0 w0)) (ic 16)).lanes = [] ∧
    (scanOf 6).sub.toNat = 6 ∧ (scanOf 7).sub.toNat = 7 ∧ (tyFp { scanOf 7 with mod := 0x13 }).fmt.hasInf = true := by decide +kernel

theorem wit_ScanIsPrefixSum : (scanOf 0).sub = 0 ∧
    (let s := at0 (withV w0 [(8, 0xFFFFFFFF)])
     let i := issue (.scanx (scanOf 0)) s
     allLanes.all (fun l => decide (srcVal s i (.int (tyInt (scanOf 0)).bits) (scanOf 0).a l < 2 ^ (tyInt (scanOf 0)).bits))) =
      true := by decide +kernel

def syncOf : WordF := ⟨g7, .none, ic 15, .none, .none, 0, 0⟩

theorem wit_BarriersSynchronise :
    (let i := issue (.wsync syncOf) (at0 w0 0xFF)
     (issOf (at0 w0 0xFF) g7).isSome && !inService i && !Mask.sub (memberMask (at0 w0 0xFF) i syncOf.a &&& i.w.conv) i.a) = true ∧
    meets (at0 w0) (fun i => (wsyncBad syncOf (at0 w0) i).isNone && Mask.sub (memberMask (at0 w0) i syncOf.a &&& i.w.conv) i.a)
      (.wsync syncOf) = true ∧
    [false, true].all (fun v => let s := at0 { w0 with xrec := { w0.xrec with v := v } }
      meets s (fun i => !fpOutstanding i.w && (barBad ⟨g7, .none, .none, .none, .none, 0, 0⟩ s i).isNone && i.w.xrec.v == v)
        (one .bar)) = true := by decide +kernel

theorem wit_BarrierReleasesAll : ∃ s w, barComplete s 0 = true ∧ warp? s 0 = some w ∧ isLodge 0 = false ∧ w.wg = 0 ∧ w.loops = [] :=
  ⟨at0 { w0 with arrived := BitVec.allOnes 32 }, _, by decide +kernel, rfl, by decide, rfl, rfl⟩

def reformOf : WordB := ⟨g7, 9, .none, 4⟩

/-- REFORM in lanes and in none; in a warp that is not stale, and in a stale one whose v0 is unmapped. -/
theorem wit_ReformFilesLanes : ([(g7, false), (gNone, false), (g7, true)] : List (Guard × Bool)).all (fun e =>
    let b := { reformOf with guard := e.1 }
    let s := at0 { w0 with stale := e.2 }
    let i := issue (.reform b) s
    actsB (.reform b) s && !reformWait b s i && (reformBad s i).isNone && i.w.stale == e.2 && !vMapped i.w 0 &&
      (match reformLine (wordState s i (.reform b)) i b with
        | some n =>
          let line := reformState (wordState s i (.reform b)) i b n
          (Mask.ofFn (fun l => (i.l.lanes.take (32 - line.entries.length)).contains l) == 0) == (e.1 == gNone)
        | none => false)) = true := by decide +kernel

/-! Memory. -/

/-- A word of format M with its base in s42, data in an s register. -/
def memW (g : Guard) (d : Opd) (sub : BitVec 4) (o : Order := .rlx) : WordM := ⟨g, d, sr 42 true, 0, .normal, o, .dev, 0, sub⟩
/-- s41 holds data, s42 an address of memory. -/
def memAt : State := at0 (withS w0 [(41, 0x11223344), (42, 0x20000)])
/-- s41 holds data, s42 an address of scratchpad. -/
def spadAt : State := at0 (withS w0 [(41, 0x11223344), (42, 0x40)])

/-- A global word's checks pass, as a computation. -/
def goB (x : Instr) (m : WordM) (n : Nat) (acc : Access) (t3 wr data : Bool) (s : State) (p : State → List Item → Bool) : Bool :=
  let i := issue x s
  actsB x s && i.l != 0 && (match checkGlobal (wordState s i x) i (addressRefs x data) (sourcesOf x) (accUnit m n) acc t3 5
      (accList (wordState s i x) i m n) with
    | .go u items => items.all (fun y => pteTier y.leaf != 3) && (snoopHold u i wr items).isNone && p u items
    | _ => false)

theorem granted_of {x : Instr} {m : WordM} {n : Nat} {acc : Access} {t3 wr data : Bool} {s : State} {p : State → List Item → Bool}
    (h : goB x m n acc t3 wr data s p = true) :
    ∃ u items, Granted x m n acc t3 wr data s (issue x s) u items ∧ p u items = true := by
  simp only [goB, Bool.and_eq_true] at h
  obtain ⟨⟨ha, hl⟩, h⟩ := h
  split at h
  · rename_i u items hg
    simp only [Bool.and_eq_true, List.all_eq_true, Option.isNone_iff_eq_none, bne_iff_ne, ne_eq] at h
    exact ⟨u, items, ⟨acts_of ha, by simpa using hl, hg, fun y hy => h.1.1 y hy, h.1.2⟩, h.2⟩
  · cases h

/-- A scratchpad word's checks pass, as a computation. -/
def spadB (x : Instr) (m : WordM) (n align : Nat) (data : Bool) (s : State) (p : List (Lane × Nat) → Bool) : Bool :=
  let i := issue x s
  actsB x s && i.l != 0 && (match checkSpad (wordState s i x) i m (addressRefs x data) (sourcesOf x) n align with
    | .go _ l => p l
    | _ => false)

theorem spadGranted_of {x : Instr} {m : WordM} {n align : Nat} {data : Bool} {s : State} {p : List (Lane × Nat) → Bool}
    (h : spadB x m n align data s p = true) :
    ∃ g l, SpadGranted x m n align data s (issue x s) g l ∧ p l = true := by
  simp only [spadB, Bool.and_eq_true] at h
  obtain ⟨⟨ha, hl⟩, h⟩ := h
  split at h
  · rename_i g l hg
    exact ⟨g, l, ⟨acts_of ha, by simpa using hl, hg⟩, h⟩
  · cases h

def ldW : WordM := memW g7 (sr 41 false) 4
def stW : WordM := memW g7 (sr 41 true) 4

theorem wit_LoadsDeliver :
    actsB (.ld (memW gNone (sr 41 false) 4)) memAt = true ∧ (issue (.ld (memW gNone (sr 41 false) 4)) memAt).l = 0 ∧
    goB (.ld ldW) ldW 4 .load true false false memAt (fun _ _ => true) = true ∧
    spadB (.lds ldW) ldW 4 4 false spadAt (fun _ => true) = true := by decide +kernel

/-- An s register poisoned: its data may not leave under .SYS. -/
def marked (s : State) (r : Nat) : State := modWarp s 0 (fun w => sWrite w r ⟨5, some .anon⟩)

theorem wit_StoresPerform :
    actsB (.st (memW gNone (sr 41 true) 4)) memAt = true ∧ (issue (.st (memW gNone (sr 41 true) 4)) memAt).l = 0 ∧
    goB (.st stW) stW 4 .store true true false memAt (fun u items =>
      (offDevice (issue (.st stW) memAt) stW (items.map (fun x => (x, itemData u (issue (.st stW) memAt) stW 4 x)))).isNone) =
        true ∧
    ([(spadAt, .dev, false), (spadAt, .sys, false), (marked spadAt 41, .dev, true), (marked spadAt 41, .sys, true)] :
      List (State × Scope × Bool)).all (fun e => let m : WordM := { stW with scp := e.2.1 }
        spadB (.sts m) m 4 4 false e.1 (fun l => let i := issue (.sts m) e.1
          let u := wordState e.1 i (.sts m)
          (l.any (fun a => (storeData u i m 4 a.1).2.isSome) == e.2.2) && !l.any (fun a => matOwes u i.w.wg u.nextId (a.2, 4)))) =
      true := by
  decide +kernel

/-- The widest form whose bytes reach a sector's end, and memory outside it. -/
theorem wit_MemoryFrame : memAt.uerr = [] ∧ goB (.st stW) stW 4 .store true true false (at0 (withS w0 [(41, 1), (42, 0x2001C)])) (fun u items =>
      (offDevice (issue (.st stW) memAt) stW (items.map (fun x => (x, itemData u (issue (.st stW) memAt) stW 4 x)))).isNone &&
      items.all (fun x => decide (x.pa / 32 < 0x20020 / 32) && decide ((x.pa + 3) / 32 < 0x20020 / 32)) && items.length != 0) =
        true := by decide +kernel

theorem wit_StoreThenLoad : ∃ s pa, ∃ l : List Byte, Reaches s pa l.length ∧ 0 < l.length ∧ FMap.get? s.poison (pa / 32) = none ∧
    s.uerr = [] ∧ MemOk s ∧ pa % 32 + l.length = 32 :=
  ⟨memAt, 0x2001C, [1, 2, 3, 4], ⟨by decide +kernel, by decide +kernel, by decide⟩, by decide, by decide +kernel, rfl,
    by unfold MemOk; decide +kernel, by decide⟩

/-- Data in an s register, with poison or not; at device scope or .SYS. -/
def atomW (g : Guard) (p : Scope) (sub : BitVec 4 := 0) : WordM := { memW g (sr 44 true) sub with scp := p }
theorem wit_AtomicsPerform :
    ([.atom (atomW gNone .dev), .red (atomW gNone .dev), .atoms (atomW gNone .dev)] : List Instr).all (fun x =>
      actsB x memAt && (issue x memAt).l == 0) = true ∧
    ([(memAt, .dev, 0, false), (marked memAt 44, .sys, 8, true), (marked memAt 44, .dev, 8, false)] :
      List (State × Scope × BitVec 4 × Bool)).all (fun e =>
      let m := atomW g7 e.2.1 e.2.2.1
      let held (x : Instr) (acc : Access) : Bool := goB x m 4 acc false true (m.sub.toNat != 8) e.1 (fun u items =>
        (offDevice (issue x e.1) m (items.map (fun y => (y, ([] : List Byte), atomicMark u (issue x e.1) m y.l)))).isSome == e.2.2.2)
      held (.atom m) .atomic && held (.red m) .red) = true ∧
    ([(spadAt, .dev, 0, false), (spadAt, .sys, 8, false), (marked spadAt 44, .sys, 8, true)] :
      List (State × Scope × BitVec 4 × Bool)).all (fun e =>
      let m := atomW g7 e.2.1 e.2.2.1
      spadB (.atoms m) m 4 4 (m.sub.toNat != 8) e.1 (fun l =>
        let i := issue (.atoms m) e.1
        let u := wordState e.1 i (.atoms m)
        (l.length == 1) && (l.any (fun a => (atomicMark u i m a.1).isSome) == e.2.2.2) &&
          !l.any (fun a => matOwes u i.w.wg u.nextId (a.2, 4)))) = true ∧
    (spadMark loadWg 0).isNone = true ∧ atomicNew 9 32 0 0 7 = some 7 ∧ atomicNew 9 32 1 0 7 = none := by decide +kernel

theorem wit_AtomicReadsThenWrites : ∃ s, ∃ x : Item, MemOk s ∧ Reaches s x.pa 8 ∧ FMap.get? s.poison (x.pa / 32) = none ∧
    s.uerr = [] ∧ ptePom x.leaf = false ∧ pteHome x.leaf = false :=
  ⟨memAt, ⟨0, 0x20018, 0x20018, 0x1F⟩, by unfold MemOk; decide +kernel, ⟨by decide +kernel, by decide +kernel, by decide⟩,
    by decide +kernel, rfl, by decide +kernel, by decide +kernel⟩

/-- The bounds of the operands: at each an operation has a value. -/
theorem wit_AtomicOperations : ([32, 64] : List Nat).all (fun n => (List.range 15).all (fun k => k == 9 ||
    (atomicNew k n (2 ^ n - 1) 0 0).isSome && (atomicNew k n 0 (2 ^ n - 1) 0).isSome)) = true := by decide +kernel

def quietW : WordM := memW g7 .none 0

theorem wit_PrefetchAndCacheControl :
    ([.pref quietW, .cctlIinv quietW, .cctlL1inv quietW, .cctlClean quietW, .cctlDemote quietW] : List Instr).all
      (fun x => actsB x memAt && !isLodge (issue x memAt).place && (issue x memAt).l != 0) = true := by decide +kernel

def waitW (c : Fin 48) : WordM := memW g7 (ic c) 0
def waiting : Wait := ⟨.waitv, BitVec.allOnes 32, 0, .waitv (waitW 16)⟩

theorem wit_WaitvCompletesOrWaits :
    ([16, 17] : List (Fin 48)).all (fun c => goB (.waitv (waitW c)) (waitW c) 4 .load false false true memAt (fun u items =>
      let i := issue (.waitv (waitW c)) memAt
      !waitvWait memAt i && i.w.waits.all (fun x => x.kind != .waitv || x.mask &&& i.a == 0#32) &&
      (Mask.sub i.l (waitReads u i (waitW c) items).2 == (c == 16)))) = true ∧
    (let w := { withS w0 [(42, 0x20000)] with waits := [waiting] }
     let s := at0 w
     match waitIssue s 0 w waiting g7 with
      | some i => (w.waits.find? (fun x => x.kind == .waitv && x.mask.has 0 && !x.done.has 0) == some waiting) && i.l.has 0 &&
        (match (lookup i .load false s 0 (accMask i (waitW 16) 0) (globalAddr s i (waitW 16) 0)).2 with
          | .item _ => true
          | _ => false)
      | none => false) = true := by decide +kernel

def fenceW (m : BitVec 6) (g : Guard := g7) : WordF := ⟨g, .none, .none, .none, .none, m, 0⟩

theorem wit_FenceOrders : ([0x24, 0x28, 0x2C] : List (BitVec 6)).all (fun m => [false, true].all (fun v => [g7, gNone].all (fun g =>
    let s := at0 { w0 with xrec := { w0.xrec with v := v } }
    actsB (.fence (fenceW m g)) s && !fenceWait (fenceW m g) s (issue (.fence (fenceW m g)) s)))) = true := by decide +kernel

theorem wit_RetentionResults :
    meets (at0 w0) (fun i => i.l != 0) (.retain ⟨g7, sr 40 false, sr 4 true, sr 8 true, ic 16, 0, 0⟩) = true ∧
    meets (at0 w0) (fun i => i.l != 0) (.unpin ⟨g7, sr 40 false, ic 16, .none, .none, 0, 0⟩) = true := by decide +kernel

theorem wit_RequestsComplete : ([(.loadComplete 0, .load), (.atomicComplete 0, .atomic), (.writeAcknowledged 0, .store),
      (.longComplete 0, .long)] : List (Instr × PendKind)).all (fun e =>
    let f (n : Nat) : Fill := ⟨n, BitVec.allOnes 32, Vector.replicate 32 (Val.clean 7)⟩
    let s := { at0 (sAwait (vAwait w0 8 0) 9 0) with pend := [(0, ⟨0, e.2, BitVec.allOnes 32, [f 8, f 265], 0, []⟩)] }
    match FMap.get? s.pend 0, warp? s 0 with
      | some p, some w => (p.kind == e.2) && !w.spilled && decide (p.fills.map Fill.code).Nodup &&
        ((FMap.get? w.v 8).any (fun r => r.busy == some 0)) && ((FMap.get? w.s 9).any (fun r => r.busy == some 0))
      | _, _ => false) = true := by decide +kernel

/-- 1, -1 and 0, and two of the values that their encodings hold as packed elements; and -128. -/
theorem wit_FloatsRoundOnce : FType.f32.fmt.flushed = true ∧
    (let x := FType.f32.fmt.read false 0x3F800000
     let y := FType.f32.fmt.read false 0xBF800000
     let z := FType.f32.fmt.read false 0
     (FiniteVal x ∧ FiniteVal y ∧ FiniteVal z) ∧ ratOf x + ratOf y = 0 ∧ ratOf x - ratOf y ≠ 0 ∧ ratOf x - ratOf x = 0 ∧ ratOf x ≠ 0 ∧
       ratOf y ≠ 0 ∧ ratOf z = 0 ∧ ratOf x * ratOf y ≠ 0 ∧ ratOf x * ratOf y + ratOf x = 0 ∧ ratOf x * ratOf x + ratOf x ≠ 0) ∧
    (let el := fun k => FType.f16.fmt.read false (fpElem .f16 0x3C003C00 k)
     FiniteVal (el 0) ∧ FiniteVal (el 1) ∧ ((List.range 2).map (fun k => ratOf (el k) * ratOf (el k))).sum ≠ 0) ∧
    FType.f16 ≠ FType.f32 ∧ IType.s8.val 0x80 ≠ 0 := by
  have hx : FType.f32.fmt.read false 0x3F800000 = .fin false (2 ^ 23) (-23) := by decide +kernel
  have hy : FType.f32.fmt.read false 0xBF800000 = .fin true (2 ^ 23) (-23) := by decide +kernel
  have hz : FType.f32.fmt.read false 0 = .fin false 0 (-149) := by decide +kernel
  have h0 : FType.f16.fmt.read false (fpElem .f16 0x3C003C00 0) = .fin false (2 ^ 10) (-10) := by decide +kernel
  have h1 : FType.f16.fmt.read false (fpElem .f16 0x3C003C00 1) = .fin false (2 ^ 10) (-10) := by decide +kernel
  refine ⟨rfl, ?_, ?_, by decide, by decide +kernel⟩
  · simp only [hx, hy, hz]
    norm_num [ratOf, FiniteVal, FVal.isNan, FVal.isInf]
  · norm_num [h0, h1, ratOf, FiniteVal, FVal.isNan, FVal.isInf, List.range_succ]

/-- Numbers, zeros of two signs, a number and a NaN, two NaNs. -/
theorem wit_MinMaxPicks : (let r := FType.f32.fmt.read false
    (r 0x3F800000).isNan = false ∧ FiniteVal (r 0x3F800000) ∧ FiniteVal (r 0x80000000) ∧ (r 0x80000000).isZero = true ∧
      (r 0).isZero = true ∧ (r 0x7F800001).isNan = true ∧ (r 0x7F800001).isSignal = true ∧ (r 0xFFC00000).isNan = true) := by
  unfold FiniteVal; decide +kernel

theorem wit_PairedWordResults :
    meets (at0 w0) (fun _ => true) (.pairedWord ⟨.iadd, 2, vr 9 true true, 0⟩ ⟨.fmul, 3, vr 2 false true, 0x11⟩) = true := by
  decide +kernel

theorem wit_SignReplaced : ∃ (t : FType) (a b op : Nat), a < 2 ^ t.bits ∧ b < 2 ^ t.bits ∧ op ≤ 2 ∧ a = 2 ^ t.bits - 1 :=
  ⟨.f64, 2 ^ 64 - 1, 0, 2, by decide, by decide, by decide, by decide⟩

theorem wit_DivisionIdentity : IType.s8.val 0x80 = IType.s8.lo ∧ IType.s8.val 1 ≠ 0 ∧
    ¬(IType.s8.signed = true ∧ IType.s8.val 0x80 = IType.s8.lo ∧ IType.s8.val 1 = -1) := by decide +kernel

theorem wit_CarryIdentity : ∃ n a b k : Nat, a < 2 ^ n ∧ b < 2 ^ n ∧ k ≤ 1 ∧ a = 2 ^ n - 1 ∧ b = a ∧ k = 1 :=
  ⟨64, 2 ^ 64 - 1, 2 ^ 64 - 1, 1, by decide, by decide, by decide, rfl, rfl, rfl⟩

theorem wit_LutIsBitwise : ∃ n a b c j : Nat, j < n ∧ a < 2 ^ n ∧ b < 2 ^ n ∧ c < 2 ^ n ∧ j = n - 1 ∧ a.testBit j = true :=
  ⟨64, 2 ^ 63, 0, 2 ^ 63, 63, by decide, by decide, by decide, by decide, rfl, by decide⟩

/-! Copies and the matrix unit. -/

/-- s8 to s15 hold the descriptor of 256 elements of 2 bytes from 0x20000 to scratchpad 0x800. -/
def copyWarp : Warp := withS w0 [(8, 0x20000), (12, 0x10100), (13, 1), (14, 0x800), (15, 0x10000000)]
def copyF : WordF := ⟨g7, .none, sr 8 true, .none, .none, 0, 0⟩
def copyoF : WordF := ⟨g7, .none, sr 8 true, lit 0x38, .none, 0, 0⟩
/-- A barrier object at 0x38: five expected, all pending. -/
def withObject (s : State) : State :=
  modWg s 0 (fun g => spadStores g [⟨0x38, bytesOfNat 8 (2 ^ 63 + 5 * 2 ^ 16 + 5), none⟩])

theorem wit_CopiesIssue :
    meets (at0 copyWarp) (fun i => i.l != 0 && !engineFull (.copy copyF) (at0 copyWarp) i &&
      !windowHeld (wordState (at0 copyWarp) i (.copy copyF)) i (groupVal i copyF.a) &&
      (copyChecks i (spadSize (at0 copyWarp) i) (groupVal i copyF.a) none).isNone) (.copy copyF) = true ∧
    (let s := withObject (at0 copyWarp)
     let u (i : Iss) : State := rouseFor (wordState s i (.copyo copyoF)) i (chunksAt 0x38 8)
     meets s (fun i => i.l != 0 && !engineFull (.copyo copyoF) s i && uArg (wordState s i (.copyo copyoF)) i copyoF.b == 0x38 &&
      (copyChecks i (spadSize (wordState s i (.copyo copyoF)) i) (groupVal i copyoF.a) (some 0x38)).isNone &&
      (missing (u i) i.w.wg (chunksAt 0x38 8)).isEmpty && !windowHeld (u i) i (groupVal i copyF.a) && (wg? (u i) i.w.wg).any (fun g => (objWord g 0x38).testBit 63))
      (.copyo copyoF)) = true := by decide +kernel

/-- The descriptor in s8 to s15. -/
def desc0 : BitVec 256 := groupVal (issue (.copy copyF) (at0 copyWarp)) (sr 8 true)
/-- A copy, or a staging of entry 0, into chunk 4 in flight. -/
def xfer0 (e : Option Nat) (l : List Nat) : Xfer :=
  ⟨0, 0, 0, 0, 0, some 0, false, false, desc0, false, some 1, e, none, l, none, [], none, 0x10000, [], [], []⟩
def moving (x : Xfer) : State := { at0 copyWarp with xfers := [(0, x)], nextId := 1 }

/-- A copy whose elements were read at issue, or are read now; and one to which a DENY has come. -/
theorem wit_ChunksLand :
    ([(xfer0 none []), { xfer0 none [] with got := (chunkElems desc0 4).map (fun n => (n, ([1, 2], none))) }, { xfer0 none [] with denied := [(0x20, 7)] }] : List Xfer).all
      (fun x => let s := moving x
        (FMap.get? s.xfers 0 == some x) && x.pause.isNone && !x.out && !x.landed.contains 4 && dHas x.desc 4 && moveReady s 0 x 4) = true ∧
    (let s := moving (xfer0 none [])
     let x := xfer0 none []
     (match enginePages s (xferFaulter x) [] .engineRead ((unreadElems x 4).map (fun n => (dGlobal x.desc n).toNat)) with
      | (u, .ok items) => (items.filterMap (snoopNeeds u false)).isEmpty && !items.isEmpty
      | _ => false)) = true := by decide +kernel

theorem wit_TransfersEnd :
    (FMap.get? (moving (xfer0 none [4])).xfers 0 == some (xfer0 none [4]) &&
      (chunkList desc0).all (fun k => (xfer0 none [4]).landed.contains k) && (xfer0 none [4]).bar.isNone) = true ∧
    [false, true].all (fun c =>
      let s := modWg (moving (xfer0 (some 0) [4])) 0 (fun g => { g with regions := [(0, ⟨desc0, true, some 0, c⟩)] })
      (FMap.get? s.xfers 0 == some (xfer0 (some 0) [4])) && (wg? s 0).any (fun g => (FMap.get? g.regions 0).isSome)) = true := by
  decide +kernel

/-- Regions take a descriptor with V, its window a multiple of 512. -/
def regionF (n : Fin 48) : WordF := ⟨g7, sr 40 false, ic n, sr 8 true, .none, 0, 0⟩
def regionWarp (top : Nat) : Warp := withS copyWarp [(15, top)]

theorem wit_RegionResults :
    ([0x10000000, 0x90000000] : List Nat).all (fun t => let s := at0 (regionWarp t)
      meets s (fun i => i.l != 0 && (wg? s i.w.wg).isSome && (!dV (groupVal i (regionF 16).b) ||
        ((descBad (groupVal i (regionF 16).b) (spadSize (wordState s i (.region (regionF 16))) i) true).isNone &&
          !windowHeld (wordState s i (.region (regionF 16))) i (groupVal i (regionF 16).b))))
        (.region (regionF 16))) = true ∧
    ([.rgnclr ⟨g7, .none, ic 17, .none, .none, 0, 0⟩, .touch ⟨g7, .none, ic 17, .none, .none, 0, 0⟩] : List Instr).all
      (meets (at0 copyWarp) (fun i => i.l != 0)) = true := by decide +kernel

def waitF (n : Fin 48) : WordF := ⟨g7, .none, ic n, .none, .none, 0, 0⟩
def ctestF (n : Fin 48) : WordF := ⟨g7, .pred false 1, ic n, .none, .none, 0, 0⟩
def waitpF : WordF := ⟨g7, .none, ic 20, ic 17, .none, 0, 0⟩
/-- Batch 1 is sealed, batch 2 is open; a failure of batch 1 is recorded or not. -/
def batchWarp (fails : List CopyFail) : Warp := { copyWarp with openb := 2, fails := fails }

theorem wit_BatchesAndPresence :
    meets (at0 copyWarp) (fun i => i.l != 0) (.cseal ⟨g7, sr 80 false, .none, .none, .none, 0, 0⟩) = true ∧
    ([[], [⟨1, 6, 3, 0x10000⟩]] : List (List CopyFail)).all (fun l => let s := at0 (batchWarp l)
      meets s (fun i => i.l != 0 && batchSealed i.w 1 && uArg s i (waitF 17).a == 1 &&
        batchesDone (wordState s i (.cwait (waitF 17))) i.place i.w 1 && !cwaitWait (waitF 17) s i &&
        ((failedBatch i.w 1).isNone == l.isEmpty)) (.cwait (waitF 17)) &&
      meets s (fun i => i.l != 0 && !batchSealed i.w 2 && uArg s i (waitF 18).a == 2 && !cwaitWait (waitF 18) s i)
        (.cwait (waitF 18)) &&
      meets s (fun i => i.l != 0 && batchSealed i.w 1) (.ctest (ctestF 17)) &&
      meets s (fun i => i.l != 0 && !batchSealed i.w 2) (.ctest (ctestF 18))) = true ∧
    meets (at0 copyWarp) (fun i => let u := wordState (at0 copyWarp) i (.waitp waitpF)
      let ks := waitpChunks u i waitpF
      i.l != 0 && !waitpWait waitpF (at0 copyWarp) i && ks == [4] && ks.all (fun k => decide (512 * k + 512 ≤ spadSize u i)) &&
      (missing (rouseFor u i ks) i.w.wg ks).isEmpty) (.waitp waitpF) = true := by decide +kernel

/-- AtBarrier as a computation. -/
def barrierB (x : Instr) (s : State) (o : Nat) (p : Iss → Wg → Bool) : Bool :=
  let i := issue x s
  let u := rouseFor (wordState s i x) i (chunksAt o 8)
  cleanB x s && i.l != 0 && (objChecks (wordState s i x) i o).isNone && missing u i.w.wg (chunksAt o 8) == [] &&
    !matOwes u i.w.wg u.nextId (o, 8) && (match wg? u i.w.wg with
      | some g => (spadMark g o).isNone && p i g
      | none => false)

theorem atBarrier_of {x : Instr} {s : State} {o : Nat} {p : Iss → Wg → Bool} (h : barrierB x s o p = true) :
    ∃ u g, AtBarrier x s (issue x s) o u g ∧ p (issue x s) g = true := by
  simp only [barrierB, Bool.and_eq_true] at h
  obtain ⟨⟨⟨⟨⟨hc, hl⟩, hk⟩, hm⟩, ho⟩, h⟩ := h
  split at h
  · rename_i g hg
    simp only [Bool.and_eq_true, Option.isNone_iff_eq_none] at h
    exact ⟨_, g, ⟨clean_of hc, by simpa using hl, by simpa using hk, rfl, by simpa using hm, hg, by simpa using ho, h.1⟩, h.2⟩
  · cases h

def bariF (n : Fin 48) : WordF := ⟨g7, .none, lit 0x38, ic n, .none, 0, 0⟩

theorem wit_BarrierObjectWords :
    barrierB (.bari (bariF 17)) (at0 copyWarp) 0x38 (fun i _ => uArg (at0 copyWarp) i (bariF 17).b == 1 &&
      uArg (at0 copyWarp) i (bariF 17).a == 0x38) = true ∧
    barrierB (.bari ⟨g7, .none, ic 16, lit 65535, .none, 0, 0⟩) (at0 copyWarp) 0 (fun i _ =>
      uArg (at0 copyWarp) i (lit 65535) == 65535) = true ∧
    barrierB (.barcnt ⟨g7, sr 40 false, lit 0x38, .none, .none, 0, 0⟩) (at0 copyWarp) 0x38 (fun _ _ => true) = true := by
  decide +kernel

theorem wit_BarrierArrivalsAndWaits :
    [at0 copyWarp, withObject (at0 copyWarp)].all (fun s =>
      barrierB (.bara ⟨g7, sr 40 false, lit 0x38, ic 17, .none, 1, 0⟩) s 0x38 (fun _ _ => true) &&
      barrierB (.bart ⟨g7, .pred false 1, lit 0x38, ic 17, .none, 0, 0⟩) s 0x38 (fun _ _ => true)) = true ∧
    (let s := withObject (at0 copyWarp)
     barrierB (.barw (bariF 17)) s 0x38 (fun i g => !barwWait (bariF 17) s i && !i.w.xrec.v && (objWord g 0x38).testBit 63 &&
      (bits (objWord g 0x38) 32 1 != uArg s i (bariF 17).b % 2))) = true := by decide +kernel

theorem wit_ArrivalOnObjectWord : ∃ x a : Nat, x < 2 ^ 64 ∧ 0 < a ∧ x % 2 ^ 16 ≤ a ∧ x = 2 ^ 64 - 1 :=
  ⟨2 ^ 64 - 1, 65535, by decide, by decide, by decide, rfl⟩

/-- Words of the matrix unit: TLD, TST, TZERO, MGEN three ways, MMA, MLOOP, MVLOOP, ACCZ, ACCLD, ACCST, ACCRD. -/
def matrixWords : List Nat :=
  [0x5817000125128000, 0x5827000125128000, 0x5837000100000000, 0x5877000100000000, 0x5877000100000002, 0x5877000100c00001,
   0x5847000100c00000, 0x5857004a250001f0, 0x5867004a250001c0, 0x5887000000000000, 0x5897004a00000000, 0x58a7004a00000000,
   0x58b7044a00000000]

/-- A track that workgroup 0 holds. -/
def held : Track := { Track.empty with bind := some 0 }
/-- A queued word, with int8 tiles of 32 rows and 32 columns. -/
def opOf (x : Instr) (k : Nat) : MatOp :=
  ⟨7, 0, x, [], List.replicate 8 0x80020020, k, 0, BitVec.allOnes 32, 0x10000, .rne, false, none, [], false, false, 0⟩
def mmaF (c : Opd) : WordF := ⟨g7, .none, .ext 0 false, .ext 1 false, c, 0, 0⟩
def acczF : WordF := ⟨g7, .none, .none, .none, .ext 0 false, 0, 0⟩
def matAt (q : List MatOp) : State := { at0 w0 with tracks := [(0, { held with queue := q })] }

theorem wit_MatrixWordsQueue : [at0 w0, matAt []].all (fun s => matrixWords.all (fun w =>
    meets s (fun i => i.l != 0 && !matWait s i && !accLeased (issTrack s i) 0 && !accLeased (issTrack s i) 1)
      (word (BitVec.ofNat 64 w)))) = true := by decide +kernel

theorem wit_AccumulatorLease :
    ([.mma (mmaF (.ext 0 false)), .mloop ⟨g7, .none, ic 24, sr 16 true, .ext 0 false, 4, 0⟩,
      .mvloop ⟨g7, .none, sr 40 true, sr 42 true, .ext 0 false, 0, 0⟩, .accz acczF,
      .accld ⟨g7, .none, ic 16, .none, .ext 0 false, 0, 0⟩, .accst ⟨g7, .none, ic 16, .none, .ext 0 false, 0, 0⟩,
      .accrd ⟨g7, vr 8 false false, ic 16, .ext 0 false, .ext 0 false, 9, 0⟩] : List Instr).all (fun x =>
      let s := matAt [opOf (.accz acczF) 0]
      let i := issue x s
      actsB x s && !matWait s i && (issTrack s i).bind.isSome && accLeased (issTrack s i) 0 &&
        (match formOf x with
          | .f _ f => !accWaits f && accC f == 0
          | _ => false)) = true := by decide +kernel

theorem wit_MwaitPassesOrReports : ([[], [⟨0, 6, 3, 0x10000⟩]] : List (List MvFail)).all (fun l =>
    let s := at0 { w0 with mvfail := l }
    meets s (fun i => i.l != 0 && !mwaitWait (waitF 17) s i && uArg s i (waitF 17).a == 1) (.mwait (waitF 17))) = true := by
  decide +kernel

theorem wit_KStepsAccumulate : (let s := matAt [opOf (.mma (mmaF (.ext 0 true))) 0]
    let u := rouseHead (rouseHead s 0 0) 0 1
    (kTrack u 0 0 == some 0) && ((trackSt u 0 0).queue == [opOf (.mma (mmaF (.ext 0 true))) 0]) &&
    ((trackSt u 0 0).bind.bind (wg? u)).isSome) = true := by decide +kernel

theorem wit_IntegerProductExact : intType (tType 0x80020020) = true ∧ 0 < tCols 0x80020020 / tK (tType 0x80020020) := by decide +kernel

theorem wit_MatrixHeadCompletes : ([opOf (.accz acczF) 0, opOf (.tzero ⟨g7, .none, .ext 0 false, .none, .none, 0, 0⟩) 0,
      opOf (.mma (mmaF (.ext 0 true))) 1] : List MatOp).all (fun m => let u := rouseHead (matAt [m]) 0 0
    ((trackSt u 0 0).queue == [m]) && ((trackSt u 0 0).bind == some 0) && headDone u 0 0 && (wg? u 0).isSome) = true := by
  decide +kernel

/-! Service, errors, interrupts, warps and lines. -/

/-- A state whose control block holds a word. -/
def withCtl (s : State) (off v : Nat) : State := modPart s 0 (fun q => ctlSet q off v)

theorem wit_ServiceCalls :
    [at0 w0, withCtl (at0 w0) 0x508 0x9000, at0 { w0 with svclane := some 3 }].all (fun s =>
      meets s (fun i => !isLodge i.place && i.l != 0) (.svc ⟨g7, .none, ic 19, .none, .none, 0, 0⟩) &&
      meets s (fun i => !isLodge i.place && i.l != 0) (.sret ⟨g7, .none, vr 62 false true, .none, .none, 0, 0⟩)) = true ∧
    meets (at0 (withV { w0 with svclane := some 3 } [(62, 4)])) (fun i => i.l != 0)
      (.sret ⟨g7, .none, vr 62 false true, .none, .none, 0, 0⟩) = true ∧
    Mask.low? ({ w0 with svcpend := 0x80000000 }).svcpend = some 31 := by decide +kernel

def allowedAt (s : State) : State := withCtl s 0x500 (2 ^ 28)
def injF (m : BitVec 6) : WordF := ⟨g7, .none, vr 4 false true, .none, .none, m, 0⟩
def injRegF : WordF := ⟨g7, vr 9 false false, .none, .none, .none, 0, 0⟩

theorem wit_ErrorInjection :
    (let s := allowedAt (at0 (withV w0 [(4, 0x20000)]))
     (([(.errinjReg injRegF), .errinjMem (injF 1), .errinjCe (injF 2)] : List Instr).all (fun x =>
        let i := issue x s
        actsB x s && i.l != 0 && injEn (part s i.w.part)) &&
      [Instr.errinjMem (injF 1), .errinjCe (injF 2)].all (fun x => let i := issue x s
        match checkGlobal (wordState s i x) i (sourcesOf x) (sourcesOf x) 1 .store false 1
            (i.l.lanes.map (fun l => (l, Mask.one l, srcVal s i (.int 64) (vr 4 false true) l))) with
          | .go _ items => items.all (fun y => !pteHome y.leaf && pteTier y.leaf != 2)
          | _ => false))) = true ∧
    (let s := allowedAt (at0 (withV w0 [(4, 4095)]))
     meets s (fun i => let u := wordState s i (.errinjSpad (injF 3))
      let as := i.l.lanes.map (fun l => (l, srcVal u i (.int 32) (vr 4 false true) l))
      let ks := (as.map (fun a => a.2 / 512)).dedup
      i.l != 0 && injEn (part s i.w.part) && as.all (fun a => decide (a.2 + 1 ≤ spadSize u i)) &&
        (missing (rouseFor u i ks) i.w.wg ks).isEmpty) (.errinjSpad (injF 3))) = true ∧
    (([(.errinjReg injRegF), .errinjMem (injF 1), .errinjCe (injF 2), .errinjSpad (injF 3)] : List Instr).all (fun x =>
      let i := issue x (at0 w0)
      actsB x (at0 w0) && i.l != 0 && !(supMode i.place i.w || injEn (part (at0 w0) i.w.part)))) = true := by decide +kernel

/-- Context 0 has its interrupt block at 0x30000: valid, its handler resident at place 0, with some vectors pending; a word w at the
warps' PC. -/
def uibAt (pend : Nat) (w : Warp) (x : Nat := 0) : State :=
  let m := memPuts (memPuts (loadCells [] 64 x) 56 (bytesOfNat 8 0x30000)) 0x30000 (bytesOfNat 8 (2 ^ 63 + 2 ^ 62))
  { at0 w with mem := memPuts m 0x30008 (bytesOfNat 8 pend) }
def uiwaitF (m : BitVec 6) : WordF := ⟨g7, sr 60 false, .none, .none, .none, m, 0⟩
/-- The handler warp, with its entry set. -/
def claimed : Warp := { w0 with claim := true, uivec := 0x9000 }

/-- UIWAIT by the claimant, with a vector pending or none, with and without its no-wait form; with no interrupt block; and a
diversion of a group that stands at another word, or at UIWAIT. -/
theorem wit_UserInterrupts :
    meets (at0 w0) (fun i => i.l != 0) (.uisend ⟨g7, .none, sr 40 true, ic 21, ic 17, 0, 0⟩) = true ∧
    ([(2 ^ 63, 0, some 63), (0, 0, none), (0, 1, none)] : List (Nat × BitVec 6 × Option Nat)).all (fun e =>
      let s := uibAt e.1 claimed
      let x := Instr.uiwait (uiwaitF e.2.1)
      let i := issue x s
      actsB x s && !isLodge i.place && !uiWaiting i && i.l != 0 && uibAddr s i.w.part i.w.ctx != 0 &&
        bits (uibWord s i.w.part i.w.ctx 0) 63 1 == 1 && claimNames s i.place i.w && uiFirst s i.w.part i.w.ctx == e.2.2 &&
        (warp? s i.place).isSome) = true ∧
    ([(2 ^ 63 + 2 ^ 62 + 2 ^ 41, true, false), (0, false, false), (2 ^ 63 + 2 ^ 62, true, true)] : List (Nat × Bool × Bool)).all (fun e =>
      let s := uibAt (2 ^ 63) w0
      let s := { s with mem := memPuts s.mem 0x30000 (bytesOfNat 8 e.1) }
      let x := Instr.uiwait (uiwaitF 0)
      let i := issue x s
      let u := uibAccess (wordState s i x) i.w.part i.w.ctx 0
      let v := if bits (uibWord u i.w.part i.w.ctx 0) 63 1 = 1 then u else uiClaim u i.place i.w
      actsB x s && !isLodge i.place && !uiWaiting i && i.l != 0 && uibAddr u i.w.part i.w.ctx != 0 &&
        (bits (uibWord u i.w.part i.w.ctx 0) 63 1 == 1) == e.2.1 && claimNames u i.place i.w == e.2.2 &&
        uiFirst v i.w.part i.w.ctx == some 63) = true ∧
    (let w : Warp := { claimed with waits := [⟨.uiwait, 0x0F, 1, .uiwait (uiwaitF 0)⟩] }
     deliverable (uibAt 1 w) 0 w && (uiWaitOf w).any (fun x => x.mask.low? == some 0 && x.word == .uiwait (uiwaitF 0))) = true ∧
    (let x := Instr.uiwait (uiwaitF 1)
     let i := issue x (at0 w0)
     actsB x (at0 w0) && !isLodge i.place && !uiWaiting i && i.l != 0 && uibAddr (at0 w0) i.w.part i.w.ctx == 0) = true ∧
    [g7, gNone].all (fun g => let s := at0 { w0 with uiin := true, uentry := 0xFF }
      actsB (one .uiret .none 0 g) s && (issue (one .uiret .none 0 g) s).w.uiin && !(issue (one .uiret .none 0 g) s).w.intrap &&
        Mask.sub (issue (one .uiret .none 0 g) s).w.uentry (issue (one .uiret .none 0 g) s).a) = true ∧
    ([(0, false), (0x28970000_00000000, false), (0x68579E00_00000001, true)] : List (Nat × Bool)).all (fun e =>
      let s := uibAt 1 claimed e.1
      deliverable s 0 claimed && (uiWaitOf claimed).isNone && uiFirst s claimed.part claimed.ctx == some 0 &&
        (match divertGroup s 0 claimed with
          | some g => (match (groupFetch s 0 claimed g.1 g.2).2 with
            | .word (.uiwait _) _ => e.2
            | _ => !e.2)
          | none => false)) = true ∧
    ({ w0 with uiin := true, uentry := 0xFF }).uiin = true := by decide +kernel

/-- A context without a block, and one whose block memory holds. -/
def blocked : State := { uibAt 6 claimed with scrub := [] }

theorem wit_ControlRegistersReadBack : (warp? (at0 w0) 0 = some w0 ∧ uibAddr (at0 w0) w0.part w0.ctx = 0) ∧
    warp? blocked 0 = some claimed ∧ BlockPlain blocked 0 0 ∧ bits (uibWord blocked 0 0 0) 63 1 = 1 := by
  refine ⟨⟨rfl, by decide +kernel⟩, rfl, ⟨by decide +kernel, by decide +kernel, fun o h => ?_, by decide +kernel, fun a => ?_, rfl, rfl,
    by unfold MemOk; decide +kernel⟩, by decide +kernel⟩
  · exact (by decide +kernel : ∀ o : Fin 0x300, paReach blocked (some 0) (uibAddr blocked 0 0 + o) = true ∧
      paLost blocked (uibAddr blocked 0 0 + o) = false) ⟨o, h⟩
  · have h : ∀ c g, scrubPending blocked c g = false := fun c g => rfl
    simp only [scrubAt, h, Bool.false_eq_true, if_false]
    split <;> rfl

def entry0 : LineEntry := ⟨5, 0x7F, [Val.clean 9], 0, 0, 0⟩
def line0 (t : Option Trigger) (n : Nat) : LiftLine := ⟨0, 0x10000, List.replicate n entry0, t⟩
def lineAt (l : LiftLine) : State := { at0 w0 with cores := [(0, { Core.empty with lines := [(3, l)] })] }
def spilledWarp : Warp :=
  { w0 with spilled := true, v := [(4, ⟨Vector.replicate 32 (Val.clean 7), none, true⟩)] }

theorem wit_WarpSteps :
    (let w := { w0 with run := 256 }
     (rotationGroup (at0 w) 0 w).isSome && w.forced.isNone) = true ∧
    (waitcPick (at0 { w0 with waitc := 64 }) 0 0).isSome = true ∧ restoreReady (at0 spilledWarp) 0 spilledWarp = true ∧
    lineAged (lineAt (line0 none 1)) 0 (line0 none 1) = true ∧
    (let s := lineAt (line0 (some .full) 32)
     match dispatchOrder s 0, wg? s 0 with
      | (n, _) :: _, some x => n == 3 && x.saving.isNone && (lineTrack s 0 (rFloor x.record)).isSome &&
        (lineKept s x).2.isSome
      | _, _ => false) = true ∧
    (let w := { w0 with conv := 0 }
     w.v.all (fun e => e.2.busy.isNone) && w.s.all (fun e => e.2.busy.isNone) && w.fails.isEmpty && w.mvfail.isEmpty) = true := by
  decide +kernel

theorem wit_LineWarpHoldsEntries : ∃ l : LiftLine, l.entries.length ≤ 32 ∧ l.entries[(31 : Lane).val]? = some entry0 ∧
    entry0.vals[0]? = some (Val.clean 9) := ⟨line0 none 32, by decide, by decide +kernel, rfl⟩

/-! Faults and translation upkeep. -/

def rec0 (n : Nat) : FRec := ⟨0, n, 0, 0, 0, 0, 0, 0x20, 1, 0, false, 0⟩
/-- A warp that waits on a cause in two lanes. -/
def parked (c : ParkCause) : Warp := { w0 with parks := [⟨c, 3, false⟩] }

theorem wit_FaultRecords :
    [([], true, false), ([rec0 1], true, false), ([], false, false)].all (fun e =>
      let s := modPart (at0 (if e.2.1 then parked (.table 0 0x20) else w0)) 0 (fun q => { q with waiting := [rec0 0], recs := e.1 })
      ((part s 0).waiting == [rec0 0]) && (rec0 0).part == 0 && decide ((part s 0).recs.length < 256) &&
        causeHeld s 0 (.table 0 0x20) == e.2.1 &&
        ((part s 0).recs.find? (fun x => x.ctx == (rec0 0).ctx && x.vpage == (rec0 0).vpage)).isNone == e.1.isEmpty) = true ∧
    (let s := modPart (at0 (parked (.record 0 1))) 0 (fun q => { q with recs := List.replicate 255 (rec0 2) ++ [rec0 1] })
     (recordNamed s 0 0 (1 : Dword).toNat).isSome && (recordNamed s 0 0 (3 : Dword).toNat).isNone &&
      (debugWarp s 0 0 3).isNone && (debugSaved s 0 0 3).isNone) = true := by decide +kernel

theorem wit_RetryReleases_DenyRecorded :
    (let s := modPart (at0 (parked (.record 0 1))) 0 (fun q => { q with recs := [rec0 1] })
     (recordNamed s 0 0 (1 : Dword).toNat).isSome &&
      s.xfers.isEmpty && s.warps.any (fun e => e.2.part == 0 && e.2.parks.any (fun k => k.cause == .record 0 1))) = true := by decide +kernel

/-- A leaf of 4 KiB that waits for page-in, and its tier miss. -/
def miss0 : TierMiss := ⟨0, 0x20, 0, 0, 0, false, none⟩
/-- Page 0x20 waits for page-in; its pool has a frame at 0x40000, or none. -/
def pagingAt (n : Nat) : State :=
  let s := modPart (at0 w0) 0 (fun q => { q with misses := [miss0], desc := { q.desc with gondolas := 1 } })
  let m := memPuts (memPuts s.mem 0x3000 (bytesOfNat 8 0x4001)) 0x4000 (bytesOfNat 8 0x5001)
  let m := memPuts (memPuts m 0x5100 (bytesOfNat 8 (2 ^ 58 + 0x2001F))) 0x6000 (bytesOfNat 8 0x40000)
  withCtl (withCtl { s with mem := m } 0x140 0x6000) 0x148 (n * 2 ^ 32)

/-! Chairlift. -/

/-- A record of one warp in context 0. -/
def record0 : Rec := BitVec.ofNat 1024 (0x10020 + 0x41000 * 2 ^ 64 + (32 + 2 ^ 16 + 2 ^ 32) * 2 ^ 576 + 8 * 2 ^ 664)
/-- The same with a reserved bit set. -/
def badRecord : Rec := BitVec.ofNat 1024 (record0.toNat + 2 ^ 716)
def launch0 (ring : Option Nat) (r : Rec) (save prio : Nat) : Launch :=
  ⟨0, 0, 0x40000, ring, r, 1, prio, 0, 1, 0, none, save, false, 0, none, [], false, none⟩
/-- Ring 0 lies at 0x40000 and holds one entry. -/
def ringAt0 (r : Rec) : State :=
  let s := withCtl (withCtl { at0 w0 with boot := 4 } 0x400 0x40000) 0x408 (2 ^ 32 + 2)
  { s with mem := memPuts s.mem 0x40000 (bytesOfNat 128 r.toNat) }
/-- A launch waits; the core is empty. -/
def waitingAt (l : Launch) (r : Rec) : State :=
  { ringAt0 r with launches := [(7, l)], nextId := 8, wgs := [], warps := [] }

theorem wit_QueueNotify :
    (let r := prioRing (part (ringAt0 record0) 0) 0
     decide (2 ^ r.size < ((5 : BitVec 16).toNat + 65536 - r.head) % 65536) &&
      decide (((4 : BitVec 16).toNat + 65536 - r.head) % 65536 ≤ 2 ^ r.size) && (publishSnoops (ringAt0 record0) r r.head 4).isEmpty &&
      !(publishSnoops { ringAt0 record0 with snoop := [⟨0x1000, false⟩] } r r.head 4).isEmpty) = true := by decide +kernel

theorem wit_CandidatesRead : ([(record0, false), (badRecord, true)] : List (Rec × Bool)).all (fun e =>
    let s := ringAt0 e.1
    let x := readRecord s (some 0) none (ringEntry (prioRing (part s 0) 0) (prioRing (part s 0) 0).head)
    (prioRing (part s 0) 0).count != 0 && (FMap.get? (part s 0).heads 0).isNone && !x.2.2 && (malformed x.1 0 x.2.1 == e.2) &&
      rSave x.2.1 == 0 && decide (4 ≤ s.boot) && (entrySnoop s (ringEntry (prioRing (part s 0) 0) (prioRing (part s 0) 0).head)).isNone) = true := by decide +kernel

theorem wit_CandidateOrder : candidates (waitingAt (launch0 none record0 0 3) record0) 0 ≠ [] ∧
    ctlField (part (withCtl (at0 w0) 0x500 (2 ^ 31)) 0) 0x500 31 1 = 1 := by decide +kernel

theorem wit_WorkgroupsPlaced :
    ([(launch0 none record0 0 3, record0, false), (launch0 none record0 0x800000 3, record0, false),
      (launch0 (some 0) record0 0 3, badRecord, true), (launch0 (some 0) record0 0x800000 3, badRecord, true)] :
      List (Launch × Rec × Bool)).all (fun e =>
      let s := waitingAt e.1 e.2.1
      match bestFit s 0 with
        | some (i, l, _) => let u := blockAccess s 0 (excsumAddr s 0 l.ctx)
          i == 7 && l == e.1 && !ctxKilled u 0 l.ctx && !(startRecord u l).2.2 && (startSnoop u l).isNone &&
          (malformed (startRecord u l).1 0 (startRecord u l).2.1 == e.2.2)
        | none => false) = true ∧
    [0, 0x800000].all (fun save =>
      let s := waitingAt (launch0 none record0 save 3) record0
      let s := { s with mem := memPuts s.mem 0x30 (bytesOfNat 8 (2 ^ 63)) }
      match bestFit s 0 with
        | some (_, l, _) => ctxKilled (blockAccess s 0 (excsumAddr s 0 l.ctx)) 0 l.ctx
        | none => false) = true := by decide +kernel

theorem wit_PlacementCore : (chooseCore (waitingAt (launch0 none record0 0 3) record0) 7 (launch0 none record0 0 3)).isSome = true := by
  decide +kernel

/-- A workgroup of record0 that is to be started. -/
def starting (r : Rec) : Wg := { loadWg with phase := .reading, record := r, spadBytes := 4096 }
def startAt (x : Wg) : State := { at0 w0 with wgs := [(0, x)] }
/-- Its header's sector is poisoned. -/
def poisonAt (s : State) (a : Nat) : State := { s with poison := [(a / 32, .anon)] }

/-- A record whose frame, or whose code, lies in no page. -/
def farFrame : Rec := BitVec.ofNat 1024 (record0.toNat + 2 ^ 94)
def farCode : Rec := BitVec.ofNat 1024 (record0.toNat + 2 ^ 30)

/-- How the reads of a start end, header then frame: 0 bytes, 1 bytes with marks, 2 denied or lost, 3 waiting. -/
def startEnds (s : State) (x : Wg) : Nat × Nat :=
  let hd := startRead (startAcquire s x) x (ofInt 64 ((rCode x.record : Int) - 32)) 32
  let fr := startRead hd.1 x (rFrame x.record) 128
  let e (y : StartRead) : Nat :=
    match y with
    | .bytes _ m => if (m.findSome? id).isSome then 1 else 0
    | .bad _ _ => 2
    | .wait _ => 3
  (e hd.2, e fr.2)

theorem wit_StartsLoad :
    ([(starting record0, 0, 0, 0), (starting record0, 0x10000, 1, 0), (starting record0, 0x41000, 0, 1),
      ({ starting record0 with startDenied := [(0x10, 7)] }, 0, 2, 0), ({ starting record0 with startDenied := [(0x41, 7)] }, 0, 0, 2),
      (starting farFrame, 0, 0, 3), (starting farCode, 0, 3, 0),
      ({ starting record0 with startDenied := [(0x10, 7)], startParks := [.record 0 1] }, 0, 2, 0)] : List (Wg × Nat × Nat × Nat)).all
      (fun e =>
        let x := e.1
        let s := if e.2.1 = 0 then startAt x else poisonAt (startAt x) e.2.1
        (wg? s 0 == some x) && x.phase == .reading && !x.killed && (x.startParks.isEmpty || startDenial x) &&
          startEnds s x == e.2.2) = true := by decide +kernel

theorem wit_WorkgroupsEnd :
    [false, true].all (fun k => let s := { at0 w0 with warps := [], wgs := [(0, { loadWg with killed := k })] }
      match wg? s 0 with
        | some x => wgDone s 0 x && x.killed == k
        | none => false) = true ∧
    ((wg? (at0 w0) 0).any (fun x => !wgDone (at0 w0) 0 x)) = true ∧
    (let l := { launch0 none (BitVec.ofNat 1024 (record0.toNat + 0x20000 * 2 ^ 128)) 0 3 with completed := 1 }
     decide (rIcnt l.record ≤ l.completed) && rJoin l.record != 0) = true := by decide +kernel

/-- Launch 5 has ended; its join block at 0x20000 counts n. -/
def join0 : Join := ⟨5, 0, 0x20000, none, none, false⟩
def joining (n : Nat) : State :=
  let s := modPart (at0 w0) 0 (fun q => { q with joins := [join0] })
  { s with mem := memPuts s.mem 0x20000 (bytesOfNat 8 n) }

theorem wit_JoinsDecrement : ([(0, false), (1, false), (2, false), (2 ^ 63, false), (2 ^ 63 + 1, false), (2, true)] : List (Nat × Bool)).all
    (fun e =>
      let s := if e.2 then poisonAt (joining e.1) 0x20000 else joining e.1
      (joinOf s 5 == some (0, join0)) && (match translate s 0 0 255 false .atomic 0x20000 with
        | (u, .ok pa l) =>
          let v := atomAccess (scrubAt u pa) pa false
          let w := engineLookups (engineLookups v 0 0 (some 0x20000) l pa 8 false) 0 0 (some 0x20000) l pa 8 true
          (snoopNeeds u true ⟨0, 0x20000, pa, l⟩).isNone && !ptePom l && !pteHome l && paReach v none pa &&
            (FMap.get? v.poison (pa / 32)).isSome == e.2 &&
            (e.2 || natOfBytes (((sectorBytes w (ctxKey v 0 (pteHome l)) (pa / 32)).drop (pa % 32)).take 8) == e.1)
        | _ => false)) = true := by decide +kernel

/-- s42 names a record of memory at 0x40000 and s44 a join block at 0x20000. -/
def spawnF : WordF := ⟨g7, sr 40 false, sr 42 true, .none, .none, 0, 0⟩
def spawnjF : WordF := ⟨g7, sr 40 false, sr 42 true, sr 44 true, .none, 0, 0⟩

theorem wit_SpawnsLink :
    (let s := { ringAt0 record0 with warps := [(0, withS w0 [(42, 0x40000), (44, 0x20000)])] }
     meets s (fun i => i.l != 0 && !spawnWait s i && (match uniChecks (wordState s i (.spawn spawnF)) i .atomic
        [⟨uniVal s i (.int 64) spawnF.a, 1, 128, 128⟩] with
        | (_, .inr [_]) => true
        | _ => false)) (.spawn spawnF) &&
     meets s (fun i => i.l != 0 && !spawnWait s i && (match uniChecks (wordState s i (.spawnj spawnjF)) i .atomic
        [⟨uniVal s i (.int 64) spawnjF.a, 1, 128, 128⟩, ⟨uniVal s i (.int 64) spawnjF.b, 2, 128, 128⟩] with
        | (_, .inr [_, _]) => true
        | _ => false)) (.spawnj spawnjF)) = true := by decide +kernel

def yieldF : WordF := ⟨g7, sr 40 false, .none, .none, .none, 0, 0⟩
/-- A candidate of PRIO q waits beside the workgroup; the save pool at 0x6000 holds n frames. -/
def contended (q n : Nat) : State :=
  let s := withCtl (withCtl (ringAt0 record0) 0x518 0x6000) 0x520 (n * 2 ^ 32)
  { s with launches := [(7, launch0 none record0 0 q)], nextId := 8, mem := memPuts s.mem 0x6000 (bytesOfNat 8 0x800000) }

theorem wit_Yields :
    (let s := modWg (at0 w0) 0 (fun x => { x with saving := some (0x800000, true) })
     meets s (fun i => !isLodge i.place && i.l != 0 && (wg? s i.w.wg).any (fun x => x.saving.any (fun e => e.2))) (.yield yieldF)) =
      true ∧
    [(0, 0, false, false), (3, 0, true, false), (3, 1, true, true)].all (fun e =>
    let s := if e.1 == 0 then at0 w0 else contended e.1 e.2.1
    meets s (fun i => !isLodge i.place && i.l != 0 && (match wg? s i.w.wg with
      | some x => let u := wordState s i (.yield yieldF)
        !x.saving.any (fun e => e.2) && waiterFor u i.w.wg x == e.2.2.1 && (freeFrame u x.part).2.isSome == e.2.2.2
      | none => false)) (.yield yieldF)) = true := by decide +kernel

/-- Fields of context words of partition 0, over a machine with a candidate of PRIO q and n frames. -/
def sched (q n : Nat) (l : List (Nat × Nat)) : State := l.foldl (fun s e => withCtl s e.1 e.2) { contended q n with now := 2 ^ 30 }

/-- How a workgroup chosen to leave stands: idempotent, a frame free, too large to save. -/
def leaveKind (s : State) (g : Nat) : Option (Bool × Bool × Bool) :=
  (wg? s g).map (fun w => (rIdem w.record, (freeFrame s w.part).2.isSome,
    decide (4096 * saveMax (part s w.part) < saveBytes (freeFrame s w.part).1 g)))

/-- A candidate of PRIO q waits, n frames are free, SAVEMAX is m, and the workgroup is idempotent or not. -/
def leaving (q n m : Nat) (idem : Bool) : State :=
  modWg (sched q n [(0x510, 100 + m * 2 ^ 32 + 50 * 2 ^ 48)]) 0 (fun x => { x with
    record := BitVec.ofNat 1024 (if idem then 2 ^ 692 else 0) })

/-- The ways in which a workgroup leaves: idempotent with no frame, too large, or saved; another without a frame, or saved. -/
theorem wit_Leaves : ([(0, 65535, true), (1, 0, true), (1, 65535, true), (0, 0, false), (1, 0, false)] : List (Nat × Nat × Bool)).all
    (fun e =>
      let s := leaving 3 e.1 e.2.1 e.2.2
      let d := modWg s 0 (fun x => { x with drain := some 5 })
      [s, d].all (fun u => (match wg? u 0, leaveKind u 0 with
        | some x, some k => (preemptible x == x.drain.isNone) && sliceLen (part u x.part) != 0 &&
          decide (sliceLen (part u x.part) ≤ u.now - x.slice) && waiterFor u 0 x && rExpect x.record == 0 &&
          decide (5 + max (sliceLen (part u x.part)) (2 ^ 24) ≤ u.now) && k.1 == e.2.2 && k.2.1 == (e.1 == 1) &&
          k.2.2 == (e.2.1 == 0)
        | _, _ => false))) = true := by decide +kernel

theorem wit_SlicesAndDrains :
    [0, 2 ^ 31].all (fun n => let s := sched 3 1 [(0x510, n)]
      (wg? s 0).any (fun x => preemptible x && (n == 0 || decide (s.now - x.slice < sliceLen (part s x.part))))) = true ∧
    (let s := { sched 3 1 [(0x510, 100)] with launches := [] }
     (wg? s 0).any (fun x => preemptible x && sliceLen (part s x.part) == 100 && decide (100 ≤ s.now - x.slice) && !waiterFor s 0 x)) =
      true ∧
    (let s := modWg (sched 3 1 [(0x510, 100 + 50 * 2 ^ 48)]) 0 (fun x => { x with
       retired := 5
       record := BitVec.ofNat 1024 (10 * 2 ^ 544) })
     (wg? s 0).any (fun x => preemptible x && rExpect x.record == 10 && drainPct (part s x.part) == 50 && waiterFor s 0 x &&
       decide (drainPct (part s x.part) * rExpect x.record ≤ 100 * x.retired))) = true ∧
    (let s := modWg (sched 3 0 []) 0 (fun x => { x with drain := some (2 ^ 30) })
     (wg? s 0).any (fun x => decide (s.now < 2 ^ 30 + max (sliceLen (part s x.part)) (2 ^ 24)))) = true ∧
    ((wg? (at0 w0) 0).any (fun x => x.drain.isNone)) = true := by decide +kernel

/-- A passed-over candidate, with the core empty or holding a workgroup that has been stalled. -/
def passing (q : Nat) (ws : FMap Wg) : State :=
  { sched q 1 [(0x300, 5 + 7 * 2 ^ 32)] with launches := [(7, { launch0 none record0 0 q with passed := 7 })], wgs := ws }
def fullWg : Wg := { loadWg with spadBytes := carveSpad 0, stall := 9 }

/-- A full core with a candidate that fits without its workgroup, or that finds no victim. -/
theorem wit_FencesAndSwaps :
    ([(0, [], 3, 0), (0, [(0, loadWg)], 0, 0), (0, [(0, loadWg)], 3, 1), (8, [(0, loadWg)], 3, 2),
      (0, [(0, { loadWg with killed := true })], 3, 3)] : List (Nat × FMap Wg × Nat × Nat)).all (fun e =>
      let s := withCtl (passing e.2.2.1 e.2.1) 0x300 (5 + (7 + e.1) * 2 ^ 32)
      !(partCores s 0).any (fun c => (coreSt s c).fence.isSome) && (partCores s 0).length == 1 &&
      (match candidates s 0 with
        | [(i, l)] => (decide (fenceWaitLen (part s 0) ≤ l.passed) == (e.2.2.2 != 2)) &&
          ((fenceFor s i l).isNone == (e.2.2.2 == 3)) &&
          (((partCores s l.part).any (fun d => (coreWgs s d).any (fun x => decide (rPrio x.2.record < l.prio)))) == (e.2.2.2 != 0)) &&
          ((requestCore s i l).isSome == (e.2.2.2 == 1 || e.2.2.2 == 2))
        | _ => false)) = true ∧
    (partCores (modCore (passing 3 []) 0 (fun k => { k with fence := some 7 })) 0).any (fun c =>
      (coreSt (modCore (passing 3 []) 0 (fun k => { k with fence := some 7 })) c).fence.isSome) = true ∧
    [0, 1].all (fun n =>
      let s := withCtl (passing 3 [(0, fullWg)]) 0x520 (n * 2 ^ 32)
      match coreWgs s 0 with
        | [(g, x)] => (wg? s g == some x) && x.saving.isNone && swapN (part s x.part) == 5 && decide (5 ≤ x.stall) &&
          (candidates s x.part).any (fun l => fitsWithout s [g] l.1 l.2 0) && (freeFrame s x.part).2.isSome == (n == 1)
        | _ => false) = true ∧
    coreWgs (at0 w0) 1 = [] ∧ (coreWgs (at0 w0) 0).any (fun e => e.2.stall == 0) = true := by decide +kernel

/-- A page that waits for page-in, its pool with or without a frame; and one that is in memory. -/
theorem wit_PageIns : ([0, 1].all (fun c =>
    let s := pagingAt c
    match (part s 0).misses with
      | [m] => let u := (freshLeaf s 0 m.ctx (4096 * m.vpage)).1
        (match (freshLeaf s 0 m.ctx (4096 * m.vpage)).2 with
        | .leaf e lv _ => let n := leafBytes lv e
          let off := 0x140 + 16 * poolOf n
          let r := ringAt (part u 0) off 3
          let slot := r.base + 8 * (r.head % 2 ^ r.size)
          let x := physRead64 (blockLookup u 0 slot false) (some 0) slot
          ptePI e && (gondola (part u 0)).isSome && r.count == c && (c == 0 ||
            (hbmFrame x.1 0 (x.2.1 % 2 ^ 48) n && (pageSnoop x.1 e lv (x.2.1 % 2 ^ 48)).isNone))
        | _ => false)
      | _ => false)) = true ∧
    (let s := modPart (at0 w0) 0 (fun q => { q with misses := [miss0] })
     (part s 0).misses == [miss0] && (match (freshLeaf s 0 0 0x20000).2 with
       | .leaf e _ _ => !ptePI e
       | _ => false)) = true := by decide +kernel

theorem wit_Invalidations : (part (at0 w0) 0).tlbinv = [] ∧ ([[], [(1, 0, 0)]] : List (List (Nat × Nat × Nat))).all (fun l =>
    let s := modPart (at0 w0) 0 (fun q => { q with tlbinv := (0, 0, 0x20) :: l })
    (part s 0).tlbinv == (0, 0, 0x20) :: l) = true := by decide +kernel

/-- Eight ways are reserved; a line in way 15 holds the index of register 7, which is enabled. -/
def reserved : State :=
  { modPart (withCtl (at0 w0) 0x100 8) 0 (fun q => { retRegSet q 7 ⟨true, 0, 1, 2⟩ with
      desc := { q.desc with banks := 1 } }) with
    l2 := [⟨0, 0, 15, 4, Vector.replicate 4 ⟨true, true, .evictLast⟩, some (0, 7), (.i, .i)⟩] }

theorem wit_RetentionRegisters :
    (reserved.l2.any (fun l => inBanks reserved 0 l && decide (16 - rways (part reserved 0) ≤ l.way) &&
      decide (l.way < 16 - rways (ctlSet (part reserved 0) 0x100 (min 8 (0 % 16)))) && l.ret == some (0, 7)) &&
      (retReg (part reserved 0) 7).en && (match exec (.retregWrite 0 7 (2 ^ 127)) reserved with
      | .next t => retReg (part t 0) 7 != retReg (part reserved 0) 7
      | _ => false)) = true := by decide +kernel

/-! Messages. -/

/-- s40 the control word, s42 the record, s44 the argument bytes; entry 5 of the session table valid to send, or not. -/
def tsendF : WordF := ⟨g7, sr 60 false, sr 42 true, sr 44 true, sr 40 true, 0, 0⟩
def sending (ctl entry : Nat) (r : Rec) : State :=
  let s := { ringAt0 r with warps := [(0, withS w0 [(40, ctl), (42, 0x40000), (44, 0x20000)])] }
  withCtl s (sessOff 5 1) entry
def txEntry : Nat := 2 ^ 63 + 2 ^ 62
def lost0 (s : State) : State := { s with ports := [(0, { port s 0 with lost := true })] }

theorem wit_TsendSends :
    [(sending (5 + 64) txEntry record0, 3), (sending (5 + 3 * 2 ^ 16) 0 record0, 1), (lost0 (sending 5 txEntry record0), 4),
      (sending (5 + 3 * 2 ^ 16) txEntry badRecord, 2), (sending (5 + 3 * 2 ^ 16) txEntry record0, 0)].all (fun (s, st) =>
      meets s (fun i =>
        let c := uniVal s i (.int 32) tsendF.c
        let n := 16 * bits c 16 9
        let e := bits c 0 6
        i.l != 0 && (match uniChecks (wordState s i (.tsend tsendF)) i .load (⟨uniVal s i (.int 64) tsendF.a, 1, 128, 128⟩ ::
          if n = 0 then [] else [⟨uniVal s i (.int 64) tsendF.b, 2, 16, n⟩]) with
        | (u, .inr items) =>
          let q := part u i.w.part
          let rd := readPages u (placeCore i.place) i.w.part i.w.ctx ((items.filter (fun y => y.1 == 1)).map Prod.snd) 128
          let ar := readPages rd.1 (placeCore i.place) i.w.part i.w.ctx ((items.filter (fun y => y.1 == 2)).map Prod.snd) n
          let bad := badTsendCtl c
          let live := sessV q e && sessTx q e
          let gone := (port u (sessPort q e)).lost
          (bad == (st == 3)) && (bad || (!live) == (st == 1)) && (bad || !live || gone == (st == 4)) && (bad || !live || gone ||
            (((rd.2.2 ++ ar.2.2).filterMap id).isEmpty && badTsendRecord (BitVec.ofNat 1024 (natOfBytes rd.2.1)) == (st == 2)))
        | _ => false)) (.tsend tsendF)) = true := by decide +kernel

/-- A message of session 3 of device 9, for entry 6 of partition 0; and one with the tag of the session's key. -/
def msg0 (n : Nat) (args : List Byte) : Message := ⟨n, 1, 2, 9, 3, 0, 0, 0, 77, 4, 0, record0, args⟩
def rxEntry : Nat := 2 ^ 63 + 2 ^ 61 + 2 ^ 60 + 9 * 2 ^ 20 + 3 * 2 ^ 14 + 1 * 2 ^ 11
def receiving : State := withCtl (withCtl (at0 w0) (sessOff 6 1) rxEntry) (sessOff 6 6) 40
def task0 (r : Rec) (args : List Byte) : Task := ⟨0, 6, none, r, args, none, none, false⟩
def queued (t : Task) (s : State) : State := { s with tasks := [t] }

def tagged (task : Bool) (t : BitVec 256) : Message :=
  { msg0 41 [] with tag := messageTag (slotKey receiving (sessKey (part receiving 0) 6)) task (msg0 41 []) + t }

/-- A message in its session with the tag of the session's key, one with another tag, and one that comes late; and a session whose
earlier tasks wait. -/
theorem wit_MessagesAdmitted :
    ([false, true].all (fun task => tagOk receiving 6 task (tagged task 0)) = true) ∧
    (∀ task, tagOk receiving 6 task (tagged task 1) = false) ∧ (∀ task t, sessionOf receiving 1 (tagged task t) = some 6) ∧
    (sessionOf receiving 1 (msg0 40 []) == some 6 && (sessionOf receiving 2 (msg0 41 [])).isNone &&
      (msg0 40 []).oseq != (sessWord (part receiving 0) 6 6 + 1) % 2 ^ 64 &&
      (msg0 41 []).oseq == (sessWord (part receiving 0) 6 6 + 1) % 2 ^ 64 && (headTask receiving 0 6).isNone &&
      (headTask (queued (task0 record0 []) receiving) 0 6).isSome) = true := by
  have e : ∀ task t, tagOk receiving 6 task (tagged task t) =
      ((messageTag (slotKey receiving (sessKey (part receiving 0) 6)) task (msg0 41 []) + t) ==
        messageTag (slotKey receiving (sessKey (part receiving 0) 6)) task (msg0 41 [])) := fun task t => rfl
  have r : sessionOf receiving 1 (msg0 41 []) = some 6 := by decide +kernel
  exact ⟨by simp [e], fun task => by simp [e], fun task t => r, by decide +kernel⟩

theorem wit_TasksLand :
    partOfCtx receiving (msg0 41 []).target = some 0 ∧ partOfCtx receiving ({ msg0 41 [] with target := 4000 }).target ≠ some 0 ∧
    (let full := withCtl receiving (sessOff 6 5) 1
     let home := withCtl receiving (sessOff 6 4) 0x50000
     (([(queued { task0 record0 [] with uint := some (msg0 41 []) } receiving), queued { task0 record0 [] with
        pause := some (.record 0 1) } receiving, queued { task0 record0 [] with denied := true } receiving] : List State).all
        (fun s => (headTask s 0 6).isSome)) &&
      taskRefused receiving 0 6 (task0 (BitVec.ofNat 1024 (7 * 2 ^ 704)) []) && taskRefused receiving 0 6 (task0 record0 [1]) &&
      !taskRefused receiving 0 6 (task0 record0 []) && !taskRefused home 0 6 (task0 record0 [1]) &&
      freeLandingSlot (part home 0) 6 == some 0 && (freeLandingSlot (part full 0) 6).isNone &&
      !taskRefused (withCtl full (sessOff 6 4) 0x50000) 0 6 (task0 record0 [1])) = true := by decide +kernel

/-- Partition 0 owns port 5, in mode 1: it has a host function. -/
def hosted (s : State) : State :=
  { modPart s 0 (fun q => { q with desc := { q.desc with ports := 0x20 } }) with ports := [(5, ⟨true, false, 0, 1, 4, 6⟩)], boot := 5 }

theorem wit_HostInterrupts : (hostFunction (hosted (at0 w0)) 0 && !hostFunction (at0 w0) 0 && partOfCtx (hosted (at0 w0)) 0 == some 0 &&
    partOfCtx (at0 w0) 1 != some 0 && ctxValid (hosted (at0 w0)) 0 0 && bits ((77 : BitVec 128) + 63#128 <<< 64).toNat 70 58 == 0 &&
    bits ((1 : BitVec 128) <<< 70).toNat 70 58 != 0) = true := by
  decide +kernel

theorem wit_Resets : hostFunction (hosted (at0 w0)) 0 = true ∧ hostFunction (at0 w0) 0 = false := by decide +kernel

/-- A device with a number, whose partition 0 owns key slot 63. -/
def keyed : State :=
  modPart { at0 w0 with dctl := [(0x04000000, 5)] } 0 (fun q => { q with desc := { q.desc with keys := BitVec.ofNat 64 (2 ^ 63) } })

theorem wit_SessionsEstablish : (devNum keyed != 0 && (part keyed 0).desc.valid && (part keyed 0).desc.keys.getLsbD 63 &&
    (keySlot keyed 63).state == .empty && decide (keyed.patrol.leaves < lmsLeaves)) = true := by decide +kernel

/-! Ports. -/

/-- Port 5 is fused on and partition 0 owns it; up, in mode 1. -/
def ported (up lost : Bool) : State :=
  let s := modPart (at0 w0) 0 (fun q => { q with desc := { q.desc with ports := 0x20 } })
  let f := { s.fuse with links := BitVec.ofNat 64 (2 ^ 37) }
  { s with boot := 4, fuse := f, ports := [(5, ⟨up, lost, 0, 1, 8, 5⟩)], used := [(5, 0)] }

theorem wit_PortsTrainAndFail :
    (decide (4 ≤ (ported false false).boot) && (ported false false).fuse.links.getLsbD 37 && !(port (ported false false) 5).up &&
      (port (ported true false) 5).mode != 0 && !(port (ported true false) 5).lost && (ported true false).used.contains (5, 0) &&
      (part (ported true true) 0).desc.ports.getLsbD 5 && (port (ported true true) 5).up &&
      !(part (ported true true) 0).desc.ports.getLsbD 4) = true ∧
    (let p : Pend := ⟨0, .load, 3, [⟨8, 3, Vector.replicate 32 (Val.clean 7)⟩], 1, [(1, 2 ^ 49 + 5 * 2 ^ 45), (2, 2 ^ 49 + 6 * 2 ^ 45 - 1)]⟩
     p.reach.all (fun x => inRange (portRange 5) x.2) && (p.reach.foldl (fun m x => m ||| x.1) 0#32 != 0)) = true := by decide +kernel

theorem wit_LossNotices : (let s := { at0 w0 with notices := [(0, 5, 2)] }
    (warp? s 0 == some w0) && !isLodge 0 && nextNotice s w0.ctx == some (0, 5, 2) && (noticeAt s 0 w0).isSome) = true := by
  decide +kernel

def l2line (x : Mesi) : L2Line := ⟨0, 0, 0, 2 ^ 42, Vector.replicate 4 ⟨true, true, .normal⟩, none, (x, x)⟩
def hostLine (x : Mesi) : State := { at0 w0 with l2 := [l2line x] }

theorem wit_HostSnoops : (heldHalf (hostLine .m) (2 ^ 43 + 1) == some (l2line .m) && halfState (l2line .m) 1 != .s &&
    heldHalf (hostLine .s) (2 ^ 43) == some (l2line .s) && (heldHalf (hostLine .i) (2 ^ 43)).isNone &&
    (setHalf (hostLine .m) (2 ^ 42) 1 .s id).l2.all (fun l => l.line == 2 ^ 42)) = true := by decide +kernel

/-- A host writes a line of its memory: the device reads it, or, while L2 holds a scoped copy, its own bytes until it gives them up. -/
theorem test_host_write : (let s := { at0 w0 with ports := [(0, ⟨true, false, 0, 1, 4, 6⟩)] }
    let held := { s with l2 := [{ l2line .i with line := 2 ^ 42, sectors := Vector.replicate 4 ⟨true, false, .normal⟩ }] }
    let get (x : State) : Byte := memGet (homeWrite x (2 ^ 43) 0x2A00).mem (2 ^ 49 + 1)
    Memory.wf s.mem && paKind s (64 * 2 ^ 43) == .port 0 && (port s 0).mode != 2 && !sectorHeld s (2 ^ 44) && !sectorHeld s (2 ^ 44 + 1) &&
      get s == 0x2A && get held == 0 &&
      memGet (farTake (homeWrite held (2 ^ 43) 0x2A00) (2 ^ 49) (2 ^ 49 + 128)).mem (2 ^ 49 + 1) == 0x2A) = true := by
  decide +kernel

/-- Extent 63 of partition 0: 2 MiB of pseudo-channel 0 at DPA 0, with its V, REQ and COH. -/
def extAt (v : Bool) (req : Nat) (coh : Bool) (sn : List SnoopEntry) (base : Nat := 0x200000) : State :=
  let s := withCtl (withCtl (at0 w0) (0x1000 + 32 * 63) 0) (0x1000 + 32 * 63 + 16) (base / 2097152)
  let s := withCtl s (0x1000 + 32 * 63 + 24) ((if v then 2 ^ 63 else 0) + req * 2 ^ 61 + (if coh then 2 ^ 59 else 0) + 1)
  { s with snoop := sn }
def held0 : SnoopEntry := ⟨0x8000, true⟩

theorem wit_ExtentsLive :
    (!badOffer (extAt false 0 false []) 0 63 && badOffer (extAt false 0 false [] (2 ^ 40)) 0 63 &&
      [0, 1].all (fun r => !(extent (part (extAt false r false []) 0) 63).v && (extent (part (extAt false r false []) 0) 63).req == r) &&
      !badOffer (hosted (extAt false 1 false [])) 0 63 && badOffer (hosted (extAt false 1 false [] (2 ^ 40))) 0 63 &&
      hostFunction (hosted (extAt false 1 false [])) 0 && (extent (part (hosted (extAt false 1 false [])) 0) 63).req == 1 &&
      (extent (part (hosted (extAt true 2 false [])) 0) 63).v && !hostFunction (extAt false 1 false []) 0 &&
      [[], [held0]].all (fun l => let s := extAt true 0 true l
        (extent (part s 0) 63).v && (extent (part s 0) 63).req == 0 && !(extent (part s 0) 63).scrub &&
        (trackedLines (setExtent s 0 63 true 2) (extent (part s 0) 63)).isEmpty == l.isEmpty)) = true := by decide +kernel

def snooping (s : State) : State := { s with bisnp := [(0x8000, true)] }

theorem wit_SnoopAnswers : ((snooping (at0 w0)).bisnp.any (fun b => b.1 == 0x8000)) = true := by
  decide +kernel

theorem wit_HostAccesses :
    ((dpaLook (hosted (extAt true 0 true [])) 0 0x200000 64).isNone && !hostFunction (extAt true 0 true []) 0 &&
      [false, true].all (fun c => let s := hosted (extAt true 0 c [])
        hostFunction s 0 && (match dpaLook s 0 0x1FFFC0 64, dpaLook s 0 0x40 8 with
          | some (e, pa), some (d, _) => e.coh == c && d.coh == c && s.bisnp.isEmpty && s.snoop.isEmpty &&
            (filterVictim s (hostLines pa 64)).isNone
          | _, _ => false))) = true := by decide +kernel

/-! Patrol, checkpoints and management. -/

/-- Partition 0 owns key slot 63, in a state, bound to contexts. -/
def slotAt (x : SlotState) (acks : Nat) (bound : FMap Nat) : State :=
  let s := { keyed with wgs := [], warps := [] }
  let k : KeySlot := ⟨x, 4, 9, List.range acks, if x == .retiring then some (0, 5) else none⟩
  { s with patrol := { s.patrol with slots := [(63, k)], bound := bound, session := true, sessSeq := 7 }, boot := 1 }

theorem wit_CommandsAnswered : (slotAt .empty 0 []).patrol.pseq + 1 < 2 ^ 64 ∧
    (doneWith (slotAt .empty 0 []) 255).status = some 255 ∧ mgmtServes (slotAt .empty 0 []) = true := by decide +kernel

theorem wit_KeysLoadAndRetire :
    (!ownsSlot (slotAt .empty 0 []) 0 62 && [SlotState.empty, .loaded, .retiring].all (fun x => let s := slotAt x 0 []
        ownsSlot s 0 63 && (keySlot s 63).state == x && s.patrol.bound.all (fun e => e.2 != 63)) &&
      (slotAt .loaded 0 [(0, 63)]).patrol.bound.any (fun e => e.2 == 63) && [23, 24].all (fun n => let s := slotAt .retiring n []
        (keySlot s 63).state == .retiring && !keyInUse s 63 && !(keySlot s 63).acks.contains 24 && (keySlot s 63).waiter == some (0, 5) &&
        (keySlot s 63).acks.length == n) && keyInUse (modPart (slotAt .retiring 0 []) 0 (fun q => { q with
        misses := [{ miss0 with slot := some 63 }] })) 63) = true := by decide +kernel

theorem wit_ContextsProtected :
    ([(false, false), (false, true), (true, false)].all (fun e =>
      let s := modPart (slotAt .loaded 0 []) 0 (fun q => { q with desc := { q.desc with dbg := e.1 } })
      let s := if e.2 then { s with wgs := [(0, loadWg)] } else s
      ownsSlot s 0 63 && (keySlot s 63).state == .loaded && ctxOf s 0 0 && (part s 0).desc.dbg == e.1 && ctxBusy s 0 == e.2) &&
      ctxOf (slotAt .loaded 0 [(0, 63)]) 0 0 && !ctxBusy (slotAt .loaded 0 [(0, 63)]) 0 &&
      (slotAt .loaded 0 []).parts.any (fun e => e.1 == 0)) = true := by decide +kernel

/-- Core 71 and no memory, for partition 15; partition 0 has core 0. -/
def desc15 (cores : BitVec 72) : Desc := { Desc.empty with valid := true, cores := cores }

theorem wit_PartitionsSet :
    (!descLegal (at0 w0) 15 (desc15 1) && descLegal (at0 w0) 0 (desc15 0) &&
      (at0 w0).wgs.any (fun e => e.2.part == 0 && !(desc15 0).cores.getLsbD e.2.core) &&
      descLegal (at0 w0) 0 (desc15 1) && (at0 w0).wgs.all (fun e => e.2.part != 0 || (desc15 1).cores.getLsbD e.2.core) &&
      descLegal (at0 w0) 15 (desc15 0) && (part (at0 w0) 0).desc.valid) = true := by decide +kernel

theorem wit_GranulesScrubbed : FMap.get? ({ at0 w0 with scrub := [(0, ⟨3, [3], none⟩)] } : State).scrub 0 = some ⟨3, [3], none⟩ ∧
    firstPending ⟨3, [3], none⟩ = 4 := by decide +kernel

/-- A checkpoint that has moved n units of a partition without workgroups. -/
def moving0 (n : Nat) : State := modPart { at0 w0 with wgs := [], warps := [] } 0 (fun q => { q with
  ckpt := some ⟨false, false, 2097152, n, 2, true⟩ })

theorem wit_Checkpoints :
    ((part (at0 w0) 0).ckpt.isNone && imageUnits (at0 w0) 0 false != 0 &&
      !rangeOwned (at0 w0) 0 (2 ^ 40) (imageUnits (at0 w0) 0 false * 2097152) &&
      rangeOwned (at0 w0) 0 0 (imageUnits (at0 w0) 0 false * 2097152) &&
      (part (moving0 1) 0).ckpt == some ⟨false, false, 2097152, 1, 2, true⟩ &&
      (match unitAddr (imageChannels (moving0 1) 0 false) 1 with
        | some a => !paLost (moving0 1) a && !paLost (moving0 1) (2097152 + 1 * 2097152)
        | none => false)) = true := by decide +kernel

/-- Partition 0 may be debugged, its first line is a host's, and the request of the session has its turn. -/
def debugged (excl : Bool) : State :=
  { modPart (slotAt .empty 0 []) 0 (fun q => { q with desc := { q.desc with dbg := true } }) with snoop := [⟨0, excl⟩] }

theorem wit_ManagementRequests :
    ([false, true].all (fun c => (dbgSnoop (debugged c) ⟨8, true⟩ 0 false 0 (.read 8)).isSome == c &&
      (dbgSnoop (debugged c) ⟨8, true⟩ 0 false 0 (.write (List.replicate 8 0))).isSome) && !mgmtBusy (slotAt .empty 0 []) &&
      (part (debugged false) 0).desc.dbg && rangeOwned (debugged false) 0 0 8) = true ∧
    (mgmtServes (slotAt .empty 0 []) && (⟨8, true⟩ : Auth).seq == (slotAt .empty 0 []).patrol.sessSeq + 1 && !mgmtServes (at0 w0) &&
      (slotAt .empty 0 []).boot != 0 && decide ((slotAt .empty 0 []).patrol.leaves < lmsLeaves)) = true := by decide +kernel

/-- The thermal word: FREQ f, a limit of 1 degree, the temperature above it. -/
def hot (f : Nat) : State := { modDctl (at0 w0) 0x07000000 (fun _ => f * 2 ^ 16 + 2 ^ 8) with lodgeCycle := 2 ^ 20 }

theorem wit_DeviceHealth :
    ((at0 w0).bootFailed = false ∧ (at0 w0).boot + 1 ≤ 6 ∧ (at0 w0).boot + 1 ≠ 2 ∧ (at0 w0).boot + 1 ≠ 3) ∧
    ({ at0 w0 with fatal := true } : State).fatal = true ∧
    ([7, 30].all (fun f => let u := modDctl (hot f) 0x07000000 (fun w => setBits w 32 16 17)
      let w := dctlWord u 0x07000000
      bits w 16 8 == f && decide (16 * bits w 8 8 < bits w 32 16) && decide ((hot f).thermAt + 2 ^ 20 ≤ (hot f).lodgeCycle)) = true) ∧
    (let u := modDctl (hot 6) 0x07000000 (fun w => setBits w 32 16 177)
     let w := dctlWord u 0x07000000
     bits w 16 8 = 6 ∧ 16 * (bits w 8 8 + 10) < bits w 32 16) ∧ ({ at0 w0 with boot := 2 } : State).boot + 1 = 3 ∧
    (devNum (at0 w0) = 0 ∧ devNum keyed ≠ 0) ∧
    ((coreWgs (at0 w0) 1).isEmpty && (coreSt (at0 w0) 1).lines.all (fun l => l.2.trig.isNone) && !(coreSt (at0 w0) 1).gated) = true := by
  decide +kernel

/-! DRAM upkeep, the Lodge, register writes. -/

/-- Tracking is enabled with a threshold of 2; row 5 has been activated once. -/
def tracked : State := { modDctl (at0 w0) (pchReg 0 0) (fun _ => 2 ^ 31 + 2) with rows := [(bankKey 0 47, [(5, 1)])] }

theorem wit_DramKeepsMemory : tracked.uerr = [] ∧ ([.activate 0 47 5, .directedRefresh 0 47 5, .refreshWindowWrap 0 47, .sparingStart 0 3, .sparingRowCopy 0,
    .tokenRefill 0, .remapEntryWrite 0 4095 9] : List Instr).all (fun x => (match exec x tracked with
      | .next _ => true
      | _ => false)) = true := by decide +kernel

theorem wit_RowsTracked :
    (rowExists tracked 0 47 5 && tracked.refreshing.isEmpty && bits (dctlWord tracked (pchReg 0 0)) 31 1 == 1 &&
      (countRow 5 (FMap.getD tracked.rows (bankKey 0 47) [])).any (fun e => e.1 == 5 && decide (2 ≤ e.2)) &&
      (countRow 6 (FMap.getD tracked.rows (bankKey 0 47) [])).all (fun e => e.1 != 6 || decide (e.2 < 2)) &&
      ({ tracked with refreshing := [(0, 47, 5)] } : State).refreshing.contains (0, 47, 5)) = true := by decide +kernel

/-- SPCTL of pseudo-channel 511. -/
def sparing (w : Nat) : State := modDctl (at0 w0) (pchReg 511 0x10) (fun _ => w)

theorem wit_SparingAndTokens :
    ([2 ^ 31, 7, 2 ^ 31 + 16382 * 2 ^ 32, 2 ^ 31 + 16383 * 2 ^ 32].all (fun w => dctlWord (sparing w) (pchReg 511 0x10) == w) &&
      pchEnabled (sparing 7) 511 && !pchEnabled { sparing 7 with bootOff := [511] } 511 && chanEnabled (sparing 7) 511 &&
      !chanEnabled { sparing 7 with bootOff := [511] } 511 && bits 7 31 1 == 0 && bits 7 30 1 == 0 && bits 7 0 6 != 0x3F && bits (2 ^ 31 + 16382 * 2 ^ 32) 32 15 == 16382) = true := by
  decide +kernel

/-- Partition 0 owns thread 63, whose ring of 1 entry lies at 0x50000; a record waits for the fault queue. -/
def lodged (run : Bool) (tail : Nat) : State :=
  let s := modPart (at0 w0) 0 (fun q => { q with desc := { q.desc with lodge := BitVec.ofNat 64 (2 ^ 63) }, faultQ := [7] })
  let s := withCtl (withCtl (withCtl s (lqctl 63) 0x50000) (lqctl 63 + 8) (tail * 2 ^ 32)) 0x600 63
  { s with lodgeRun := if run then BitVec.ofNat 64 (2 ^ 63) else 0 }

theorem wit_LodgeThreads :
    (queueOf (part (at0 w0) 0) false).isEmpty = true ∧ (lodgeRing (part (at0 w0) 0) 63).base = 0 ∧ (at0 w0).lodgeCycle % 64 ≠ 63 ∧
    (ownsThread (lodged false 0) 0 63 && !(lodged false 0).lodgeRun.getLsbD 63 && !ownsThread (lodged false 0) 0 62 &&
      (lodged true 0).lodgeRun.getLsbD 63 && (lodgeRing (part (lodged false 0) 0) 63).base != 0 &&
      (lodgeRing (part (lodged false 0) 0) 63).size == 0 && [0, 1].all (fun t => let s := lodged false t
        queueOf (part s 0) false == [7] && queueRoom s 0 false == (t == 0) && (snoopPhys s true 0x50000 32).isNone &&
        (snoopPhys { s with snoop := [⟨0x1400, false⟩] } true 0x50000 4).isSome)) = true := by decide +kernel

/-- Words of the control block with RW fields alone, and words without a field to write at both ends of the block's ranges. -/
theorem wit_RegisterWrites : plainWords ≠ [] ∧ ([0x0, 0x108, 0x130, 0x748, 0x1008, 0x17E8, 0x3018, 0x3C00, 0xFFF8] : List Nat).all
    (fun o => o % 8 == 0 && decide (o < 65536) && !writableWord o) = true := by decide +kernel

/-! The machine. -/

/-- v8 is empty: a producer will fill it. -/
def emptyV8 : Warp := { withV w0 [(8, 1)] with v := [(8, ⟨Vector.replicate 32 (Val.clean 0), some 3, false⟩)] }
def sumF (a : Opd) : WordF := ⟨g7, vr 4 false false, a, vr 6 false true, .none, 0x30, 0⟩

theorem wit_WordsWait :
    (let x := Instr.iadd (sumF (vr 8 false true))
     formOf x != .event && (issOf (at0 emptyV8) (guardOfInstr x)).isSome && operandsWait (issue x (at0 emptyV8)).w x) = true := by
  decide +kernel

/-- A word's premises of SourcesTrap up to the trap that it takes. -/
def trapB (x : Instr) (w : Warp) (k : Nat) : Bool :=
  let i := issue x (at0 w)
  (issOf (at0 w) (guardOfInstr x)).isSome && !lendWait i && !operandsWait i.w x &&
    (match k with
      | 3 => (staleTrap i x).isSome
      | 2 => (staleTrap i x).isNone && (leaseTrap i x).isSome
      | _ => (staleTrap i x).isNone && (leaseTrap i x).isNone && (poisonTrap i (sourcesOf x)).isSome)

theorem wit_SourcesTrap :
    (trapB (.iadd (sumF (vr 9 false true))) { w0 with stale := true } 3 && trapB (.iadd (sumF (vr 8 false false))) emptyV8 2 &&
      trapB (.iadd (sumF (vr 8 false true))) (vWrite w0 8 (BitVec.allOnes 32) (fun _ => ⟨1, some .anon⟩)) 8) = true := by
  decide +kernel

/-- Four levels, or one, end at the word; the body of the innermost is longer or shorter than a LOOP's own. -/
def lended (n : Nat) (intrap : Bool) : Warp :=
  { w0 with loops := List.replicate n ⟨0x10000, BitVec.ofNat 64 loadPc, 5, BitVec.allOnes 32⟩, intrap := intrap }

theorem wit_StateIllegals :
    (let s := at0 (lended 1 false)
     ([.bra ⟨g7, -3, .none, 0⟩, .ret ⟨g7, 0, vr 62 false true, 0⟩, one .trap (ic 21), one .exit, one .tret, .lbrk ⟨g7, 0, .none, 0⟩,
       .reform reformOf, .loop (loopOf g7 21)] : List Instr).all (fun x => let i := issue x s
        (issOf s (guardOfInstr x)).isSome && !lendWait i && !operandsWait i.w x && atLend i && !tretWait s i && !reformWait reformOf s i &&
          i.w.loops.length == 1)) = true ∧
    ([(0, false, g7), (4, false, g7), (0, true, gNone)] : List (Nat × Bool × Guard)).all (fun e =>
      ([one .tret .none 0 e.2.2, .loop (loopOf e.2.2 21), .lbrk ⟨e.2.2, 0, .none, 0⟩] : List Instr).all (fun x =>
        let w : Warp := { lended e.1 e.2.1 with loops := List.replicate e.1 ⟨0x10000, 0x10100, 5, BitVec.allOnes 32⟩ }
        let i := issue x (at0 w)
        (issOf (at0 w) (guardOfInstr x)).isSome && !lendWait i && !operandsWait i.w x && !atLend i && i.w.loops.length == e.1 &&
          !supMode i.place i.w && i.w.intrap == e.2.1)) = true ∧
    (let x := Instr.loop ⟨g7, 0, ic 21, 0⟩
     (⟨g7, 0, ic 21, 0⟩ : WordB).disp.toInt < (issue x (at0 w0)).len) = true := by decide +kernel

/-- Where the walks of the tests start. -/
def where0 : Where := whereOf 0 w0
/-- A workgroup of launch 3 with a POLICY, that was killed at a level or not; its context killed or not. -/
def walking (policy : Nat) (killed : Option Nat) (ctx : Bool) (w : Warp) : State :=
  let g : Wg := { loadWg with
    launch := 3
    record := BitVec.ofNat 1024 (policy * 2 ^ 676 + 2 ^ 692)
    killed := killed.isSome
    killLevel := killed.getD 0 }
  let s := { at0 w with wgs := [(0, g)], launches := [(3, launch0 none g.record 0 0)], nextId := 8 }
  if ctx then { s with mem := memPuts s.mem 0x30 (bytesOfNat 8 (2 ^ 63)) } else s

/-- The context killed; a warp in supervisor mode; every level ignores; a level acts; a level acts on what is being killed. -/
theorem wit_TrapsWalk :
    ([(walking 0x200 none true w0, 0), (walking 0x200 none false { w0 with svclane := some 3 }, 1), (walking 0 none false w0, 2),
      (walking 0x200 none false w0, 3), (walking 0x80 (some 1) false w0, 4)] : List (State × Nat)).all (fun e =>
      (match warp? e.1 0, wg? e.1 0 with
        | some w, some x => !isLodge 0 && w.wg == 0 && w.trapvec == 0#64 && ctxKilled e.1 w.part w.ctx == (e.2 == 0) &&
          w.svclane.isSome == (e.2 == 1) &&
          (match walkChoice e.1 where0 x.record x.index [.warp, .wg, .launch, .ctx, .part] with
            | some (v, a, _) => e.2 != 2 && unitKilled e.1 0 v a == (e.2 == 4)
            | none => e.2 == 2)
        | _, _ => false)) = true := by decide +kernel

theorem wit_ActionsApply : (let s := walking 0 none false w0
    (warp? s 0).any (fun w => w.wg == where0.wg) && (wg? s 0).any (fun x => x.phase == .running && !x.killed && x.ctx == where0.ctx &&
      x.launch == wgLaunch s 0 && decide (x.launch < s.nextId)) &&
      (FMap.get? s.launches (wgLaunch s 0)).any (fun l => l.orig != some (wgLaunch s 0))) = true := by decide +kernel

theorem wit_FixedRegisters : vMapped w0 255 = false := by decide +kernel

theorem wit_RegistersMap : (1 : Mask) ≠ 0#32 ∧ (255 : Nat) < 256 ∧ (254 : Nat) ≠ 255 := by decide

theorem wit_GroupsPartition : (groupsOf w0).length = 1 ∧ (groupsOf { w0 with
    pc := w0.pc.set 31 (BitVec.ofNat 64 (loadPc + 8)) }).length = 2 := by decide +kernel

theorem wit_DecodeEncode : ([.iadd (sumF (vr 8 true true)), .barw ⟨g7, .none, lit 0x38, sr 40 true, .none, 0, 0⟩, .illeg 7,
    .pairedWord ⟨.iadd, 2, vr 9 true true, 0⟩ ⟨.fmul, 3, vr 2 false true, 0x11⟩] : List Instr).all
      (fun i => formOf i != .event && i.wf) = true := by decide +kernel

theorem wit_DecodedEncodes : (match decode false (bytesOfNat 16 0x0027040100C031F0) with
    | .ok (i, rest) => i != .illeg 0 && rest.length == 8
    | .error _ => false) = true := by decide +kernel

/-- A machine whose next turn is a track with a word: NOP, or BARW with its literal. -/
def nopAt : State := State.reset.withFetchWord 64 0x2897000000000000
def barwAt : State := State.reset.withFetchWord 128 (0x50C7007FE5000180 + 0x38 * 2 ^ 64)

theorem wit_StepRunsDecoded :
    ((nopAt.agenda == [.track 0 0]) && !nopAt.fatal && (match turnOf { nopAt with agenda := [] } 0 0 with
      | .issue _ x => x == .nop ⟨g7, .none, .none, .none, .none, 0, 0⟩
      | _ => false) && (nextNotice nopAt 0).isNone && (match groupFetch nopAt 0 loadWarp (BitVec.ofNat 64 loadPc) (BitVec.allOnes 32) with
      | (_, .word _ n) => n == 1
      | _ => false)) = true ∧
    ([(nopAt, 1), (barwAt, 2)].all (fun e => (fetchDenied loadWarp (BitVec.allOnes 32) (BitVec.ofNat 64 loadPc)).isNone &&
      (match fetchAt e.1 0 loadWarp (BitVec.ofNat 64 loadPc) with
        | (u, .word d) => wordLength d == e.2 && (match fetchAt u 0 loadWarp (BitVec.ofNat 64 loadPc + 8) with
          | (_, .word l) => e.2 == 1 || l == 0x38
          | _ => false)
        | _ => false))) = true ∧
    (match translate nopAt 0 0 0 false .fetch loadPc with
      | (u, .ok pa e) => (FMap.get? (coreSt (physReadN u none (ctxKey u 0 (pteHome e)) 9 pa 8).1 0).icache (icacheKey (if pteHome e then none else ctxSlot u 0) pa)).isNone
      | _ => false) = true := by decide +kernel

/-- A warp in two groups, whose run of 256 has named the other one, or has yet to. -/
def grouped (forced : Option Lane) : Warp :=
  { loadWarp with pc := loadWarp.pc.set 31 (BitVec.ofNat 64 (loadPc + 8)), run := 256, lastLead := some 0, forced := forced }

theorem wit_TracksPick :
    ((handlerPick nopAt 0 0).isNone && (waitcPick nopAt 0 0).isNone && (oldestPick nopAt 0 0).isSome && loadWarp.forced.isNone &&
      (oldestPick nopAt 0 1).isNone && (handlerPick nopAt 0 1).isNone && (waitcPick nopAt 0 1).isNone &&
      (let s := { nopAt with warps := [(0, { loadWarp with waitc := 64 })] }
       (handlerPick s 0 0).isNone && (waitcPick s 0 0).isSome)) = true ∧
    (handlerPick (uibAt 1 claimed) 0 0).isSome = true ∧
    [none, some (31 : Lane)].all (fun f => let s := { nopAt with warps := [(0, grouped f)] }
      (readyGroups s 0 (grouped f)).length == 2 && f.isNone == (grouped f).forced.isNone &&
      (readyGroups s 0 (grouped f)).any (fun g => leadOf g == some 31) && (rotationGroup s 0 (grouped f)).isSome) = true := by
  decide +kernel

theorem wit_MemOkKept_FusesStay : ∃ s t, MemOk s ∧ step s = .next t :=
  ⟨{ State.reset with agenda := [.event (.tokenRefill 0)] }, _, show Memory.wf [] = true from rfl, rfl⟩

end Sys2Proof.Tests
end

section
/-! PROOFS. Lane masks and sorted lists: membership in a mask built from a predicate or filtered to lanes, and the order of a sorted
list. -/

namespace Sys2Proof

/-- Two masks with the same lanes are equal. -/
theorem Mask.ext_has {a b : Mask} (h : ∀ l : Lane, a.has l = b.has l) : a = b :=
  BitVec.eq_of_getLsbD_eq fun n hn => h ⟨n, hn⟩

theorem has_and (a b : Mask) (l : Lane) : Mask.has (a &&& b) l = (Mask.has a l && Mask.has b l) := by simp [Mask.has]

theorem has_zero (l : Lane) : Mask.has 0#32 l = false := by simp [Mask.has]

theorem has_one (k l : Lane) : Mask.has (1#32 <<< k.val) l = decide (l = k) := by
  have hl := l.isLt
  simp only [Mask.has, BitVec.getLsbD_shiftLeft, BitVec.getLsbD_one, Fin.ext_iff]
  by_cases h : l.val = k.val
  · simp [h]
  · simp [h]; omega

/-- The fold that builds a mask adds the lanes of its list for which the predicate holds. -/
theorem has_foldl_lanes (f : Lane → Bool) (ls : List Lane) (m : Mask) (l : Lane) :
    Mask.has (ls.foldl (fun m k => if f k then m ||| ((1#32) <<< k.val) else m) m) l =
      (Mask.has m l || (decide (l ∈ ls) && f l)) := by
  induction ls generalizing m with
  | nil => simp
  | cons k ks ih =>
    have step : Mask.has (if f k then m ||| ((1#32) <<< k.val) else m) l = (Mask.has m l || (decide (l = k) && f l)) := by
      by_cases h : l = k
      · subst h; cases hf : f l <;> simp [Mask.has]
      · have := has_one k l
        cases hf : f k <;> simp_all [Mask.has]
    rw [List.foldl_cons, ih, step]
    by_cases h : l = k
    · subst h; cases f l <;> simp
    · simp [h]

@[simp] theorem has_ofFn (f : Lane → Bool) (l : Lane) : Mask.has (Mask.ofFn f) l = f l := by
  simp [Mask.ofFn, has_foldl_lanes, allLanes, has_zero]

@[simp] theorem mem_lanes (m : Mask) (l : Lane) : l ∈ Mask.lanes m ↔ m.has l = true := by simp [Mask.lanes, allLanes]

theorem insertBy_eq_orderedInsert {α : Type} (le : α → α → Bool) (a : α) (l : List α) :
    insertBy le a l = l.orderedInsert (fun x y => le x y = true) a := by
  induction l with
  | nil => rfl
  | cons b t ih => simp [insertBy, List.orderedInsert, ih]

/-- The model's sort is Mathlib's insertion sort. -/
theorem sortBy_eq_insertionSort {α : Type} (le : α → α → Bool) (l : List α) :
    sortBy le l = l.insertionSort (fun x y => le x y = true) := by
  induction l with
  | nil => rfl
  | cons a t ih => rw [List.insertionSort_cons, ← ih, ← insertBy_eq_orderedInsert]; rfl

end Sys2Proof
end

section
/-! PROOFS. The registers of a warp and its groups (R10, R12, R23 to R26, R172). -/

namespace Sys2Proof.Machine

open Sys2Proof

theorem get?_filter_key {α : Type} (m : FMap α) (p : Nat → Bool) (n : Nat) :
    FMap.get? (m.filter (fun e => p e.1)) n = if p n then FMap.get? m n else none := by
  induction m with
  | nil => simp [FMap.get?]
  | cons e t ih =>
    obtain ⟨k, a⟩ := e
    by_cases hk : n = k
    · subst hk; cases hp : p n <;> simp [FMap.get?, hp, ih]
    · cases hp : p k <;> simp [FMap.get?, hp, ih, hk]

/-- What a register of a warp holds after a write of lanes (R23). -/
theorem get?_vWrite (w : Warp) (r q : Nat) (m : Mask) (f : Lane → Val) :
    FMap.get? (vWrite w r m f).v q =
      if m ≠ 0#32 ∧ q = r then
        some { (FMap.get? w.v r).getD VReg.zero with lanes := Vector.ofFn fun l => if m.has l then f l else vRead w r l }
      else FMap.get? w.v q := by
  have old : ∀ l : Lane, ((FMap.get? w.v r).getD VReg.zero).lanes[l] = vRead w r l := by
    intro l; unfold vRead; cases FMap.get? w.v r <;> simp [VReg.zero]
  by_cases hm : m = 0#32
  · simp [vWrite, hm]
  · by_cases hq : q = r
    · subst hq; simp only [Fin.getElem_fin] at old; simp [vWrite, hm, old]
    · simp [vWrite, hm, hq, get?_ins_other]

/-- What a register reads after a write of lanes (R23, R26). -/
theorem vRead_vWrite (w : Warp) (r q : Nat) (m : Mask) (f : Lane → Val) (l : Lane) :
    vRead (vWrite w r m f) q l = if q = r ∧ m.has l = true then f l else vRead w q l := by
  by_cases hm : m = 0#32
  · subst hm; simp [vWrite, has_zero]
  · by_cases hq : q = r
    · subst hq; conv_lhs => unfold vRead
      simp [get?_vWrite, hm]
    · simp [vRead, get?_vWrite, hq]

theorem vMapped_vWrite (w : Warp) (r : Nat) (m : Mask) (f : Lane → Val) (h : m ≠ 0#32) : vMapped (vWrite w r m f) r = true := by
  simp [vMapped, get?_vWrite, h]

theorem deferred_vWrite (w : Warp) (r : Nat) (m : Mask) (f : Lane → Val) (h : m ≠ 0#32) (hr : r < 256) :
    (vWrite w r m f).deferred.getLsbD r = false := by
  simp [vWrite, h, hr]

/-- Which mappings an issue of the whole warp keeps (R24). -/
theorem get?_release_whole (w : Warp) (rs ds : List Nat) (r : Nat) :
    FMap.get? (release w true rs ds).v r = if rs.contains r && !ds.contains r then none else FMap.get? w.v r := by
  have := get?_filter_key w.v (fun k => !(rs.filter (fun x => !ds.contains x)).contains k) r
  simp only [release, unmap, if_true, this]
  by_cases h : r ∈ rs <;> by_cases h' : r ∈ ds <;> simp [h, h']

theorem vMapped_release_whole (w : Warp) (rs ds : List Nat) (r : Nat) :
    vMapped (release w true rs ds) r = (vMapped w r && !(rs.contains r && !ds.contains r)) := by
  unfold vMapped; rw [get?_release_whole]
  cases (rs.contains r && !ds.contains r) <;> simp

/-- The deferred set after the last uses of a list of registers (R25). -/
theorem getLsbD_defer (w : Warp) (rs : List Nat) (d : BitVec 256) (r : Nat) (hr : r < 256) :
    (rs.foldl (fun d q => if vMapped w q then d ||| ((1#256) <<< q) else d) d).getLsbD r =
      (d.getLsbD r || (rs.contains r && vMapped w r)) := by
  induction rs generalizing d with
  | nil => simp
  | cons q qs ih =>
    have bit : ((1#256) <<< q).getLsbD r = decide (r = q) := by
      simp only [BitVec.getLsbD_shiftLeft, BitVec.getLsbD_one, hr]
      by_cases h : r = q
      · simp [h]
      · simp [h]; omega
    rw [List.foldl_cons, ih]
    by_cases h : r = q
    · subst h; cases hv : vMapped w r <;> simp [bit]
    · cases hv : vMapped w q <;> simp [bit, h]

/-- R12, R26. -/
theorem fixedRegisters : Claim.FixedRegisters := by
  refine ⟨fun w x => ⟨rfl, rfl⟩, fun w m v l => ⟨rfl, rfl⟩, fun w r l h => ?_⟩
  have none : FMap.get? w.v r = none := by simpa [vMapped] using h
  simp [vRead, none]

/-- R23, R24, R25. -/
theorem registersMap : Claim.RegistersMap :=
  ⟨fun w r m f l hm => ⟨vMapped_vWrite w r m f hm, by simp [vRead_vWrite], deferred_vWrite w r m f hm⟩,
    fun w r q m f l h => by simp [vRead_vWrite, h], vMapped_release_whole,
    fun w rs _ r hr => ⟨rfl, getLsbD_defer w rs w.deferred r hr⟩⟩

/-! Groups. -/

theorem has_lanesAt (w : Warp) (m : Mask) (pc : Dword) (l : Lane) :
    (lanesAt w m pc).has l = true ↔ m.has l = true ∧ w.pc[l] = pc := by
  simp [lanesAt]

theorem mem_pcsOf (w : Warp) (m : Mask) (pc : Dword) : pc ∈ pcsOf w m ↔ ∃ l : Lane, m.has l = true ∧ w.pc[l] = pc := by
  simp [pcsOf, sortBy_eq_insertionSort]

/-- The PCs of a mask's lanes stand in rising order, each once. -/
theorem pcsOf_rising (w : Warp) (m : Mask) : (pcsOf w m).Pairwise (fun a b => a.toNat < b.toNat) := by
  let le (a b : Dword) : Prop := decide (a.toNat ≤ b.toNat) = true
  have : Std.Total le := ⟨fun a b => by simp [le]; omega⟩
  have : IsTrans Dword le := ⟨fun a b c => by simp only [le, decide_eq_true_eq]; omega⟩
  rw [pcsOf, sortBy_eq_insertionSort]
  have sorted := List.pairwise_insertionSort le (m.lanes.map fun l => w.pc[l]).dedup
  have nodup : (((m.lanes.map fun l => w.pc[l]).dedup).insertionSort le).Nodup :=
    (List.perm_insertionSort le _).nodup_iff.mpr (List.nodup_dedup _)
  refine sorted.imp₂ (fun a b hle hne => ?_) nodup
  have ne : a.toNat ≠ b.toNat := fun h => hne (BitVec.eq_of_toNat_eq h)
  simp only [le, decide_eq_true_eq] at hle
  omega

/-- Lanes at different PCs are different lanes. -/
theorem lanesAt_disjoint (w : Warp) (m : Mask) (a b : Dword) (h : a ≠ b) : lanesAt w m a &&& lanesAt w m b = 0#32 := by
  refine Mask.ext_has fun l => ?_
  rw [has_and, has_zero, Bool.and_eq_false_iff]
  by_cases ha : w.pc[l] = a
  · right; rw [Bool.eq_false_iff]; exact fun hb => h (ha.symm.trans ((has_lanesAt w m b l).1 hb).2)
  · left; rw [Bool.eq_false_iff]; exact fun hb => ha ((has_lanesAt w m a l).1 hb).2

theorem mem_groupsOf (w : Warp) (g : Dword × Mask) :
    g ∈ groupsOf w ↔ g.1 ∈ pcsOf w (eligible w) ∧ g.2 = lanesAt w (eligible w) g.1 := by
  obtain ⟨pc, m⟩ := g
  simp [groupsOf, eq_comm (b := m)]

/-- R10, R172. -/
theorem groupsPartition : Claim.GroupsPartition := by
  intro w
  refine ⟨fun l => ⟨fun hl => ?_, ?_⟩, ?_, ?_⟩
  · exact ⟨(w.pc[l], lanesAt w (eligible w) w.pc[l]), (mem_groupsOf w _).2 ⟨(mem_pcsOf _ _ _).2 ⟨l, hl, rfl⟩, rfl⟩,
      (has_lanesAt _ _ _ _).2 ⟨hl, rfl⟩⟩
  · rintro ⟨g, hg, hl⟩
    rw [((mem_groupsOf w g).1 hg).2] at hl
    exact ((has_lanesAt _ _ _ _).1 hl).1
  · intro g l hg hl
    rw [((mem_groupsOf w g).1 hg).2] at hl
    exact ((has_lanesAt _ _ _ _).1 hl).2
  · refine List.pairwise_map.2 ((pcsOf_rising w (eligible w)).imp fun {a b} h => ⟨h, ?_⟩)
    exact lanesAt_disjoint w _ a b (fun e => by simp [e] at h)

/-- Settles O50, from what a write, a last use and the sort of a warp's PCs give. -/
theorem registersAndGroups : Obligations.RegistersAndGroups := ⟨fixedRegisters, registersMap, groupsPartition⟩

end Sys2Proof.Machine
end

section
/-! PROOFS. The frame of words that compute (R15, R16, R19, R30, R125): what the write of a result, the merge of its flags and
its last steps leave alone. -/

namespace Sys2Proof.Machine

open Sys2Proof

/-! Updates of a warp's data. -/

/-- u is w but for its registers, its PCs, its flags and results in flight, and what its issue has spent. -/
def SameButData (w u : Warp) : Prop :=
  ∃ v d n pc fl x q den al, u = { w with v := v, deferred := d, s := n, pc := pc, fpFlags := fl, xrec := x, fpq := q, denied := den,
                                          alloc := al }

theorem SameButData.refl (w : Warp) : SameButData w w := ⟨_, _, _, _, _, _, _, _, _, rfl⟩

theorem SameButData.trans {w u t : Warp} (h : SameButData w u) (h' : SameButData u t) : SameButData w t := by
  obtain ⟨_, _, _, _, _, _, _, _, _, rfl⟩ := h
  obtain ⟨_, _, _, _, _, _, _, _, _, rfl⟩ := h'
  exact ⟨_, _, _, _, _, _, _, _, _, rfl⟩

theorem SameButData.control {w u : Warp} (h : SameButData w u) : SameControl w u := by
  obtain ⟨_, _, _, _, _, _, _, _, _, rfl⟩ := h
  constructor <;> rfl

theorem SameButData.preds {w u : Warp} (h : SameButData w u) (p : Nat) : pMask u p = pMask w p := by
  obtain ⟨_, _, _, _, _, _, _, _, _, rfl⟩ := h
  rfl

/-- What the write of a result of `span` registers to a destination, in the lanes of m, leaves alone. -/
structure ResultWrite (o : Opd) (span : Nat) (m : Mask) (w u : Warp) : Prop where
  data : SameButData w u
  pcs : u.pc = w.pc
  vregs : ∀ r, r ∉ (regsFrom o span).1 → FMap.get? u.v r = FMap.get? w.v r
  lanes : ∀ r (l : Lane), m.has l = false → vRead u r l = vRead w r l
  sregs : ∀ n, n ∉ (regsFrom o span).2 → sRead u n = sRead w n

theorem ResultWrite.refl (o : Opd) (span : Nat) (m : Mask) (w : Warp) : ResultWrite o span m w w :=
  ⟨.refl w, rfl, fun _ _ => rfl, fun _ _ _ => rfl, fun _ _ => rfl⟩

theorem ResultWrite.trans {o : Opd} {span : Nat} {m : Mask} {w u t : Warp} (h : ResultWrite o span m w u)
    (h' : ResultWrite o span m u t) : ResultWrite o span m w t :=
  ⟨h.data.trans h'.data, h'.pcs.trans h.pcs, fun r hr => (h'.vregs r hr).trans (h.vregs r hr),
    fun r l hl => (h'.lanes r l hl).trans (h.lanes r l hl), fun n hn => (h'.sregs n hn).trans (h.sregs n hn)⟩

theorem vWrite_resultWrite {o : Opd} {span : Nat} (w : Warp) (r : Nat) (m : Mask) (f : Lane → Val)
    (hr : r ∈ (regsFrom o span).1) : ResultWrite o span m w (vWrite w r m f) where
  data := by unfold vWrite; split <;> exact ⟨_, _, _, _, _, _, _, _, _, rfl⟩
  pcs := by simp
  vregs q hq := by
    have : q ≠ r := fun h => hq (h ▸ hr)
    simp [get?_vWrite, this]
  lanes q l hl := by simp [vRead_vWrite, hl]
  sregs n _ := by simp [sRead]

theorem sRead_sWrite_other (w : Warp) (n k : Nat) (x : Val) (h : k ≠ n) : sRead (sWrite w n x) k = sRead w k := by
  unfold sRead sWrite FMap.getD
  split
  · rfl
  · split
    · rfl
    · simp [get?_ins_other _ _ _ _ h]

theorem sWrite_resultWrite {o : Opd} {span : Nat} (w : Warp) (n : Nat) (m : Mask) (x : Val) (hn : n ∈ (regsFrom o span).2) :
    ResultWrite o span m w (sWrite w n x) where
  data := by unfold sWrite; split <;> exact ⟨_, _, _, _, _, _, _, _, _, rfl⟩
  pcs := by simp
  vregs _ _ := by simp
  lanes _ _ _ := by simp [vRead]
  sregs k hk := sRead_sWrite_other w n k x fun h => hk (h ▸ hn)

theorem writeVals_resultWrite {span k : Nat} (hk : k < span) (w : Warp) (m : Mask) (o : Opd) (f : Lane → Val) :
    ResultWrite o span m w (writeVals w m o k f) := by
  have mem (n : Nat) : n + k ∈ (List.range span).map (fun i => n + i) := List.mem_map.2 ⟨k, List.mem_range.2 hk, rfl⟩
  unfold writeVals
  split
  · exact vWrite_resultWrite _ _ _ _ (mem _)
  · split
    · exact .refl _ _ _ _
    · exact sWrite_resultWrite _ _ _ _ (mem _)
  · exact .refl _ _ _ _

/-- The registers of a 32-bit or 64-bit result. -/
def resultSpan (wide : Bool) : Nat := if wide then 2 else 1

theorem writeCarried_resultWrite (w : Warp) (m : Mask) (o : Opd) (wide : Bool) (f : Nat → Lane → Val) :
    ResultWrite o (resultSpan wide) m w (writeCarried w m o wide f) := by
  cases wide
  · exact writeVals_resultWrite (by decide) _ _ _ _
  · exact (writeVals_resultWrite (by decide) _ _ _ _).trans (writeVals_resultWrite (by decide) _ _ _ _)

/-- The values of the registers of a computed result: clean, low half first. -/
def cleanHalves (f : Lane → Nat) (k : Nat) (l : Lane) : Val := Val.clean (BitVec.ofNat 32 (if k = 0 then f l else f l / 2 ^ 32))

/-- A computed result is written as a carried one that is clean. -/
theorem writeDst_eq_writeCarried (w : Warp) (m : Mask) (o : Opd) (wide : Bool) (f : Lane → Nat) :
    writeDst w m o wide f = writeCarried w m o wide (cleanHalves f) := by
  unfold writeDst writeCarried writeVals
  split
  · rfl
  · cases m.low? <;> simp [cleanHalves]
  · simp

/-! Flags. -/

/-- The flags that a warp, its record and its results in flight show are untouched. -/
def SameFlags (w u : Warp) : Prop := u.fpFlags = w.fpFlags ∧ u.xrec = w.xrec ∧ u.fpq = w.fpq

theorem SameFlags.trans {w u t : Warp} (h : SameFlags w u) (h' : SameFlags u t) : SameFlags w t :=
  ⟨h'.1.trans h.1, h'.2.1.trans h.2.1, h'.2.2.trans h.2.2⟩

theorem writeVals_sameFlags (w : Warp) (m : Mask) (o : Opd) (k : Nat) (f : Lane → Val) : SameFlags w (writeVals w m o k f) := by
  unfold writeVals
  split
  · simp [SameFlags]
  · split <;> simp [SameFlags]
  · simp [SameFlags]

theorem writeCarried_sameFlags (w : Warp) (m : Mask) (o : Opd) (wide : Bool) (f : Nat → Lane → Val) :
    SameFlags w (writeCarried w m o wide f) := by
  cases wide
  · exact writeVals_sameFlags _ _ _ _ _
  · exact (writeVals_sameFlags _ _ _ _ _).trans (writeVals_sameFlags _ _ _ _ _)

/-- u is w with flags set, and none taken back (R30). -/
def FlagsRise (w u : Warp) : Prop := ∃ c x q, u = { w with fpFlags := w.fpFlags ||| c, xrec := x, fpq := q }

theorem FlagsRise.trans {w u t : Warp} (h : FlagsRise w u) (h' : FlagsRise u t) : FlagsRise w t := by
  obtain ⟨a, _, _, rfl⟩ := h
  obtain ⟨b, x, q, rfl⟩ := h'
  exact ⟨a ||| b, x, q, by simp only [BitVec.or_assoc]⟩

theorem flagsRise_of_queue (w : Warp) (q : List FpRes) : FlagsRise w { w with fpq := q } := ⟨0, w.xrec, q, by simp⟩

theorem mergeRes_flagsRise (w : Warp) (r : FpRes) : FlagsRise w (mergeRes w r) := by
  unfold mergeRes
  dsimp only
  split
  · exact ⟨_, _, _, rfl⟩
  · split <;> exact ⟨_, _, _, rfl⟩

theorem drainList_flagsRise (q : List FpRes) (w : Warp) : FlagsRise w (drainList q w) := by
  induction q generalizing w with
  | nil => exact flagsRise_of_queue w _
  | cons r t ih =>
    unfold drainList
    split
    · exact (mergeRes_flagsRise w r).trans (ih _)
    · exact flagsRise_of_queue w _

theorem mergeFlags_flagsRise (i : Iss) (dest : Nat) (fl : Lane → Flags) (w : Warp) : FlagsRise w (mergeFlags i dest fl w) := by
  unfold mergeFlags
  split
  · exact flagsRise_of_queue w w.fpq
  · exact (flagsRise_of_queue w _).trans (drainList_flagsRise _ _)

/-- A merge of flags after a result leaves what the result leaves. -/
theorem FlagsRise.resultWrite {o : Opd} {span : Nat} {m : Mask} {w u : Warp} (h : FlagsRise w u) : ResultWrite o span m w u := by
  obtain ⟨_, _, _, rfl⟩ := h
  exact ⟨⟨_, _, _, _, _, _, _, _, _, rfl⟩, rfl, fun _ _ => rfl, fun _ _ _ => rfl, fun _ _ => rfl⟩

theorem FlagsRise.none_cleared {w u : Warp} (h : FlagsRise w u) : w.fpFlags &&& ~~~u.fpFlags = 0 := by
  obtain ⟨c, _, _, rfl⟩ := h
  simp [BitVec.not_or, ← BitVec.and_assoc]

/-! What an issue spends. -/

/-- The warp after its word: denials and allocations that the issue has spent are gone (R177, R226). -/
def spent (i : Iss) (w : Warp) : Warp :=
  if w.denied.isEmpty && w.alloc.isEmpty then w
  else { w with
    denied := w.denied.filter (fun d => d.pc != i.pc || d.mask &&& i.a == 0#32)
    alloc := w.alloc.filter (fun a => a.pc != some i.pc) }

theorem spent_cases (i : Iss) (w : Warp) : ∃ d a, spent i w = { w with denied := d, alloc := a } := by
  unfold spent
  split
  · exact ⟨_, _, rfl⟩
  · exact ⟨_, _, rfl⟩

theorem spent_resultWrite {o : Opd} {span : Nat} {m : Mask} (i : Iss) (w : Warp) : ResultWrite o span m w (spent i w) := by
  obtain ⟨d, a, h⟩ := spent_cases i w
  rw [h]
  exact ⟨⟨_, _, _, _, _, _, _, _, _, rfl⟩, rfl, fun _ _ => rfl, fun _ _ _ => rfl, fun _ _ => rfl⟩

theorem spent_sameFlags (i : Iss) (w : Warp) : SameFlags w (spent i w) := by
  obtain ⟨d, a, h⟩ := spent_cases i w
  rw [h]
  exact ⟨rfl, rfl, rfl⟩

/-- What a retired word leaves of the machine but its own warp: every other warp, the tracks, copies and requests, and the
workgroups but for their counts. -/
theorem retired_setWarp (s : State) (i : Iss) (u : Warp) :
    let t := retired (setWarp s i.place u) i
    SameOutside s t ∧ (∀ pl, warp? t pl = if pl = i.place then some (spent i u) else warp? s pl) ∧ t.tracks = s.tracks ∧
      t.xfers = s.xfers ∧ t.pend = s.pend ∧
      ∀ g a, (wg? t g).map (fun y => FMap.get? y.spad a) = (wg? s g).map (fun y => FMap.get? y.spad a) := by
  have warps (pl : Nat) : warp? (setWarp s i.place (spent i u)) pl = if pl = i.place then some (spent i u) else warp? s pl := by
    by_cases h : pl = i.place
    · subst h; simp
    · simp [warp?_setWarp_other _ _ _ _ h, h]
  have spads (g a : Nat) : (wg? (modWg (setWarp s i.place (spent i u)) i.w.wg fun y => { y with retired := y.retired + 1 }) g).map
      (fun y => FMap.get? y.spad a) = (wg? s g).map (fun y => FMap.get? y.spad a) := by
    by_cases h : g = i.w.wg
    · subst h; simp [wg?, modWg, Function.comp_def]
    · simp [wg?, modWg, get?_modify_other _ _ _ _ h]
  have counts : counted (setWarp s i.place u) i = if isLodge i.place then setWarp s i.place (spent i u)
      else modWg (setWarp s i.place (spent i u)) i.w.wg (fun y => { y with retired := y.retired + 1 }) := by
    unfold counted; rw [modWarp_setWarp]; rfl
  intro t
  simp only [t, retired, counts]
  split <;> split
  · exact ⟨by constructor <;> rfl, warps, rfl, rfl, rfl, fun _ _ => rfl⟩
  · exact ⟨by constructor <;> rfl, warps, rfl, rfl, rfl, spads⟩
  · exact ⟨by constructor <;> rfl, warps, rfl, rfl, rfl, fun _ _ => rfl⟩
  · exact ⟨by constructor <;> rfl, warps, rfl, rfl, rfl, spads⟩

/-! The frame. -/

/-- The warp after a word whose effect on it is g. -/
def wordWarp (i : Iss) (x : Instr) (g : Warp → Warp) : Warp :=
  spent i (advance (g (release i.w i.whole (lastUses x) (destsOf x).1)) i.a (8 * i.len))

theorem wordWarp_sameFlags (i : Iss) (x : Instr) (g : Warp → Warp) :
    SameFlags (g (release i.w i.whole (lastUses x) (destsOf x).1)) (wordWarp i x g) := by
  obtain ⟨flags, record, queue⟩ :=
    spent_sameFlags i (advance (g (release i.w i.whole (lastUses x) (destsOf x).1)) i.a (8 * i.len))
  exact ⟨flags.trans (advance_fpFlags _ _ _), record.trans (advance_xrec _ _ _), queue.trans (advance_fpq _ _ _)⟩

theorem get?_release_kept (w : Warp) (whole : Bool) (rs ds : List Nat) (r : Nat) (h : r ∉ rs) :
    FMap.get? (release w whole rs ds).v r = FMap.get? w.v r := by
  cases whole
  · rfl
  · simp [get?_release_whole, h]

theorem release_sameButData (w : Warp) (whole : Bool) (rs ds : List Nat) : SameButData w (release w whole rs ds) := by
  cases whole <;> exact ⟨_, _, _, _, _, _, _, _, _, rfl⟩

/-- A word whose effect is the write of a result, with or without flags, has the frame of a word that computes. -/
theorem computeFrame_of_resultWrite {x : Instr} {f : WordF} {span : Nat} {s : State} {i : Iss} {g : Warp → Warp}
    (h : ResultWrite f.dst span i.l (release i.w i.whole (lastUses x) (destsOf x).1)
      (g (release i.w i.whole (lastUses x) (destsOf x).1))) :
    ComputeFrame x f span s i (wordDone s i x g) (wordWarp i x g) := by
  set rel := release i.w i.whole (lastUses x) (destsOf x).1 with hrel
  have done : wordDone s i x g = retired (setWarp s i.place (advance (g rel) i.a (8 * i.len))) i := by
    simp only [wordDone, wordState, modWarp_setWarp, hrel]
  obtain ⟨outside, warps, tracks, copies, requests, spads⟩ := retired_setWarp s i (advance (g rel) i.a (8 * i.len))
  have kept (r : Nat) (hr : r ∉ lastUses x) : FMap.get? rel.v r = FMap.get? i.w.v r := get?_release_kept _ _ _ _ _ hr
  have finish : ResultWrite f.dst span i.l (advance (g rel) i.a (8 * i.len)) (wordWarp i x g) := spent_resultWrite i _
  rw [done]
  refine ⟨outside, fun pl hpl => by simp [warps, hpl], by rw [warps, if_pos rfl]; rfl, ?_, ?_, ?_, ?_, ?_, ?_, tracks, copies, requests,
    spads⟩
  · exact (((release_sameButData _ _ _ _).trans h.data).trans ⟨_, _, _, _, _, _, _, _, _, rfl⟩).trans finish.data |>.control
  · exact fun p => ((((release_sameButData _ _ _ _).trans h.data).trans ⟨_, _, _, _, _, _, _, _, _, rfl⟩).trans finish.data).preds p
  · intro r hr hd
    rw [finish.vregs r hd, advance_v, h.vregs r hd, kept r hr]
  · intro r l hr hl
    have : vRead (advance (g rel) i.a (8 * i.len)) r l = vRead (g rel) r l := by simp [vRead]
    rw [finish.lanes r l hl, this, h.lanes r l hl]
    simp [vRead, kept r hr]
  · intro n hn
    have : sRead (advance (g rel) i.a (8 * i.len)) n = sRead (g rel) n := by simp [sRead]
    rw [finish.sregs n hn, this, h.sregs n hn]
    simp [sRead, hrel]
  · intro l
    have pcs : (g rel).pc = i.w.pc := h.pcs.trans (release_pc _ _ _ _)
    rw [finish.pcs]
    simp [advance, pcs]

/-! The words. -/

/-- A short word that writes a register result: computed from consumed sources, or carried with its marks. -/
inductive ShortWord (mk : WordF → Instr) (wide : WordF → Bool) : Prop where
  | computed (val : WordF → State → Iss → Lane → Nat) (run : ∀ f s, exec (mk f) s = runCalc (mk f) f (wide f) (val f) s)
  | carried (named : mk = .mov ∨ mk = .movl ∨ mk = .sel) (val : WordF → State → Iss → Nat → Lane → Val)
      (run : ∀ f s, exec (mk f) s = runWord (mk f) f.guard noWait noBad (fun s i =>
        .retire (modWarp s i.place (fun w => writeCarried w i.l f.dst (wide f) (val f s i)))) s)

theorem guard_of_short : ∀ e ∈ computeWords ++ floatWords, ∀ f, f.guard = guardOfInstr (e.1 f) := by
  simp only [computeWords, floatWords, List.map_cons, List.map_nil, List.cons_append, List.nil_append, List.forall_mem_cons,
    List.not_mem_nil, false_implies, implies_true, and_true]
  and_intros <;> exact fun _ => rfl

theorem floatWords_short : ∀ e ∈ floatWords, ∃ val : WordF → State → Iss → Lane → Nat × Flags,
    ∀ f s, exec (e.1 f) s = runFp (e.1 f) f (e.2 f) (val f) s := by
  simp only [floatWords, List.map_cons, List.map_nil, List.cons_append, List.nil_append, List.forall_mem_cons,
    List.not_mem_nil, false_implies, implies_true, and_true]
  and_intros <;> exact ⟨_, fun _ _ => rfl⟩

theorem shortWord_mov : ShortWord .mov is64 :=
  .carried (.inl rfl) (fun f s i => carried s i (.int (tyInt f).bits) f.a) fun _ _ => rfl

theorem shortWord_movl : ShortWord .movl (fun _ => true) :=
  .carried (.inr (.inl rfl)) (fun f s i k l => carried s i (.int 32) (if k = 0 then f.a else f.b) 0 l) fun _ _ => rfl

theorem shortWord_sel : ShortWord .sel is64 :=
  .carried (.inr (.inr rfl))
    (fun f s i k l => carried s i (.int (tyInt f).bits) (if predVal i f.c l then f.a else f.b) k l) fun _ _ => rfl

theorem shortWord_blut : ShortWord .blut (fun f => f.mod.toNat % 2 == 1) := by
  refine .computed (fun f s i l =>
    let n := if f.mod.toNat % 2 = 1 then 64 else 32
    lutN n (lutTable f) (srcVal s i (.int n) f.a l) (srcVal s i (.int n) f.b l) (srcVal s i (.int n) f.c l)) fun f s => ?_
  have wide : ((if f.mod.toNat % 2 = 1 then 64 else 32) == 64) = (f.mod.toNat % 2 == 1) := by split <;> simp [*]
  rw [exec_blut, execBlut, ← wide]

theorem computeWords_short : ∀ e ∈ computeWords, ShortWord e.1 e.2 := by
  simp only [computeWords, List.map_cons, List.map_nil, List.cons_append, List.nil_append, List.forall_mem_cons,
    List.not_mem_nil, false_implies, implies_true, and_true, shortWord_mov, shortWord_movl, shortWord_sel, shortWord_blut, true_and]
  and_intros <;> exact .computed _ fun _ _ => rfl

/-- A computing word that issues cleanly writes a result and no flag. -/
theorem ShortWord.exec_clean {mk : WordF → Instr} {wide : WordF → Bool} (h : ShortWord mk wide)
    (hg : ∀ f, f.guard = guardOfInstr (mk f)) {f : WordF} {s : State} {i : Iss} (hc : Clean (mk f) s i) :
    ∃ v, exec (mk f) s = .next (wordDone s i (mk f) (fun w => writeCarried w i.l f.dst (wide f) v)) := by
  cases h with
  | computed val run =>
    refine ⟨cleanHalves (val f (wordState s i (mk f)) i), ?_⟩
    simp only [run, runCalc_clean hc (hg f), writeDst_eq_writeCarried]
  | carried named val run => exact ⟨val f (wordState s i (mk f)) i, by rw [run, runWord_retire hc.toActs (hg f)]⟩

/-- R15, R16, R19. -/
theorem computeLeaves : Claim.ComputeLeaves := by
  intro e he f s i hc
  obtain ⟨v, run⟩ := (computeWords_short e he).exec_clean (guard_of_short e (List.mem_append_left _ he)) hc
  set g : Warp → Warp := fun w => writeCarried w i.l f.dst (e.2 f) v
  have written := writeCarried_sameFlags (release i.w i.whole (lastUses (e.1 f)) (destsOf (e.1 f)).1) i.l f.dst (e.2 f) v
  obtain ⟨flags, record, queue⟩ := written.trans (wordWarp_sameFlags i (e.1 f) g)
  exact ⟨_, wordWarp i (e.1 f) g, run, computeFrame_of_resultWrite (writeCarried_resultWrite _ _ _ _ _),
    flags.trans (release_fpFlags _ _ _ _), record.trans (release_xrec _ _ _ _), queue.trans (release_fpq _ _ _ _)⟩

/-- R30, R125. -/
theorem floatLeaves : Claim.FloatLeaves := by
  intro e he f s i hc
  obtain ⟨val, run⟩ := floatWords_short e he
  have hg := guard_of_short e (List.mem_append_right _ he)
  let res := val f (wordState s i (e.1 f)) i
  let g (w : Warp) : Warp :=
    mergeFlags i (dstCode f.dst) (fun l => (res l).2) (writeCarried w i.l f.dst (e.2 f) (cleanHalves fun l => (res l).1))
  have rise (w : Warp) : FlagsRise (writeCarried w i.l f.dst (e.2 f) (cleanHalves fun l => (res l).1)) (g w) :=
    mergeFlags_flagsRise _ _ _ _
  refine ⟨_, wordWarp i (e.1 f) g, ?_,
    computeFrame_of_resultWrite ((writeCarried_resultWrite _ _ _ _ _).trans (rise _).resultWrite), ?_⟩
  · rw [run, runFp, runWord_consuming hc (hg f)]
    simp only [g, res, writeDst_eq_writeCarried]
  · rw [(wordWarp_sameFlags i (e.1 f) g).1]
    have none := (rise (release i.w i.whole (lastUses (e.1 f)) (destsOf (e.1 f)).1)).none_cleared
    rwa [(writeCarried_sameFlags _ _ _ _ _).1, release_fpFlags] at none

/-- Settles O48: a computing word writes one result and moves on, and merges no flag, or merges flags that only rise. -/
theorem computeFrames : Obligations.ComputeFrames := ⟨computeLeaves, floatLeaves⟩

end Sys2Proof.Machine
end

section
/-! PROOFS. Words that wait and words that trap (R26 to R28, R152, R156, R366, R379). -/

namespace Sys2Proof.Machine

open Sys2Proof

/-! Running a word that does not act. -/

/-- A word that is ready and ILLEGAL in its warp's state traps. -/
theorem runWord_bad {x : Instr} {g : Guard} {s : State} {i : Iss} (hi : issOf s g = some i) (hl : lendWait i = false)
    (ho : operandsWait i.w x = false) {wait : State → Iss → Bool} (hw : wait s i = false) {bad : State → Iss → Option Nat} {d : Nat}
    (hb : bad s i = some d) (eff : State → Iss → Res) :
    runWord x g wait bad eff s = .next (wordTraps s i ⟨1, d, 0, false, i.a, []⟩) := by
  simp [runWord, hi, hl, ho, hw, hb]
  rfl

/-- A word that is ready traps STALE before LEASE, and LEASE before it acts (R26, R28). -/
theorem runWord_operand_trap {x : Instr} {g : Guard} {s : State} {i : Iss} {t : Trap} (hi : issOf s g = some i)
    (hl : lendWait i = false) (ho : operandsWait i.w x = false)
    (ht : (staleTrap i x).orElse (fun _ => leaseTrap i x) = some t) (eff : State → Iss → Res) :
    runWord x g noWait noBad eff s = .next (wordTraps s i t) := by
  simp only [runWord, hi, hl, ho, noWait, noBad, Bool.or_self, Bool.false_eq_true, if_false, Option.map_none, Option.orElse_none, ht]
  rfl

/-- A word that consumes a poisoned source traps POISON (R366). -/
theorem runWord_poison {x : Instr} {g : Guard} {s : State} {i : Iss} {t : Trap} (hi : issOf s g = some i)
    (hl : lendWait i = false) (ho : operandsWait i.w x = false) (hs : staleTrap i x = none) (he : leaseTrap i x = none)
    (hp : poisonTrap i (sourcesOf x) = some t) (f : State → Iss → Warp → Warp) :
    runWord x g noWait noBad (consuming x f) s = .next (wordTraps s i t) := by
  simp only [runWord, hi, hl, ho, noWait, noBad, hs, he, consuming, hp, Bool.or_self, Bool.false_eq_true, if_false, Option.map_none,
    Option.orElse_none]
  rfl

/-! R27, R28, R156. -/

/-- The start of a word's issue: it waits, or does what k says. -/
def waitsOr (x : Instr) (g : Guard) (s : State) (wait : Iss → Bool) (k : Iss → Host.Outcome State Fault Refusal) :
    Host.Outcome State Fault Refusal :=
  match issOf s g with
  | none => .fault .noIssue
  | some i => if lendWait i || operandsWait i.w x || wait i then .next s else k i

theorem waitsOr_waits {x : Instr} {g : Guard} {s : State} {i : Iss} (hi : issOf s g = some i)
    (h : operandsWait i.w x = true ∨ lendWait i = true) (wait : Iss → Bool) (k : Iss → Host.Outcome State Fault Refusal) :
    waitsOr x g s wait k = .next s := by
  have waits : (lendWait i || operandsWait i.w x || wait i) = true := by rcases h with h | h <;> simp [h]
  simp only [waitsOr, hi, waits, if_true]

/-- Every instruction word, whatever it does, waits first. -/
theorem exec_word_waitsOr (x : Instr) (hx : formOf x ≠ .event) (s : State) :
    ∃ wait k, exec x s = waitsOr x (guardOfInstr x) s wait k := by
  cases x
  all_goals simp only [formOf, ne_eq, not_true_eq_false, reduceCtorEq, not_false_eq_true] at hx
  all_goals exact ⟨_, _, rfl⟩

theorem wordsWait : Claim.WordsWait := by
  intro x s i hx hi h
  obtain ⟨wait, k, run⟩ := exec_word_waitsOr x hx s
  rw [run, waitsOr_waits hi h]

/-! R26, R28, R366. -/

/-- A short word runs without a wait or an ILLEGAL condition of its own, and consumes its sources unless it carries one. -/
theorem short_runWord : ∀ e ∈ computeWords ++ floatWords, ∀ f, ∃ eff,
    (∀ s, exec (e.1 f) s = runWord (e.1 f) (guardOfInstr (e.1 f)) noWait noBad eff s) ∧
      ((e.1 = .mov ∨ e.1 = .movl ∨ e.1 = .sel) ∨ ∃ g, eff = consuming (e.1 f) g) := by
  intro e he f
  rw [← guard_of_short e he f]
  rcases List.mem_append.1 he with he | he
  · cases computeWords_short e he with
    | computed val run => exact ⟨_, run f, .inr ⟨_, rfl⟩⟩
    | carried named val run => exact ⟨_, run f, .inl named⟩
  · obtain ⟨val, run⟩ := floatWords_short e he
    exact ⟨_, run f, .inr ⟨_, rfl⟩⟩

theorem staleTrap_code {i : Iss} {x : Instr} {t : Trap} (h : staleTrap i x = some t) : t.code = 3 := by
  unfold staleTrap at h
  split at h
  · obtain ⟨r, -, rfl⟩ := Option.map_eq_some_iff.1 h
    rfl
  · cases h

theorem leaseTrap_code {i : Iss} {x : Instr} {t : Trap} (h : leaseTrap i x = some t) : t.code = 2 := by
  obtain ⟨r, -, rfl⟩ := Option.map_eq_some_iff.1 h
  rfl

theorem poisonTrap_code {i : Iss} {rs : List SrcRef} {t : Trap} (h : poisonTrap i rs = some t) : t.code = 8 := by
  unfold poisonTrap at h
  dsimp only at h
  split at h
  · cases h
  · cases h; rfl

theorem sourcesTrap : Claim.SourcesTrap := by
  intro e he f s i hi hl ho
  obtain ⟨eff, run, consumes⟩ := short_runWord e he f
  rw [run]
  refine ⟨fun t ht => ⟨?_, staleTrap_code ht⟩, fun t hs ht => ⟨?_, leaseTrap_code ht⟩, fun hm hml hsel t hs he' ht => ⟨?_, poisonTrap_code ht⟩⟩
  · exact runWord_operand_trap hi hl ho (by simp [ht]) eff
  · exact runWord_operand_trap hi hl ho (by simp [hs, ht]) eff
  · rcases consumes with (h | h | h) | ⟨g, rfl⟩
    · exact absurd (congrFun h f) hm
    · exact absurd (congrFun h f) hml
    · exact absurd (congrFun h f) hsel
    · exact runWord_poison hi hl ho hs he' ht g

/-! R152, R379. -/

/-- LOOP's condition on its body (R152): too short, or not inside the innermost active level. -/
def loopBodyBad (b : WordB) (i : Iss) : Bool :=
  decide (b.disp.toInt < (i.len : Int)) ||
    (match innermost i.w with
      | some v => decide (v.last.toNat ≤ (dispTarget i b).toNat)
      | none => false)

theorem loopBodyBad_iff (b : WordB) (i : Iss) : loopBodyBad b i = true ↔
    (b.disp.toInt < i.len ∨ ∃ v, i.w.loops.getLast? = some v ∧ v.last.toNat ≤ (i.pc + 8 * b.disp.signExtend 64).toNat) := by
  unfold loopBodyBad innermost dispTarget
  cases i.w.loops.getLast? <;> simp

theorem loopBad_eq (b : WordB) (s : State) (i : Iss) : loopBad b s i =
    firstBad [(i.w.loops.length == 4, 0x11), (loopBodyBad b i, 0x12), (atLend i, 0x14), (i.w.intrap, 0x16)] := rfl

/-- A word that is ready raises ILLEGAL with DETAIL d, and does nothing else. -/
def IllegalWhenReady (x : Instr) (s : State) (i : Iss) (d : Nat) : Prop :=
  issOf s (guardOfInstr x) = some i → lendWait i = false → operandsWait i.w x = false →
    exec x s = .next (wordTraps s i ⟨1, d, 0, false, i.a, []⟩)

theorem loop_illegal {b : WordB} {s : State} {i : Iss} {d : Nat} (hd : loopBad b s i = some d) : IllegalWhenReady (.loop b) s i d :=
  fun hi hl ho => by rw [exec_loop, execLoop]; exact runWord_bad hi hl ho rfl hd _

theorem lbrk_illegal {b : WordB} {s : State} {i : Iss} {d : Nat} (hd : lbrkBad b s i = some d) : IllegalWhenReady (.lbrk b) s i d :=
  fun hi hl ho => by rw [exec_lbrk, execLbrk]; exact runWord_bad hi hl ho rfl hd _

theorem exit_illegal {f : WordF} {s : State} {i : Iss} {d : Nat} (hd : exitBad s i = some d) : IllegalWhenReady (.exit f) s i d :=
  fun hi hl ho => by rw [exec_exit, execExit]; exact runWord_bad hi hl ho rfl hd _

theorem tret_illegal {f : WordF} {s : State} {i : Iss} {d : Nat} (hw : tretWait s i = false) (hd : tretBad s i = some d) :
    IllegalWhenReady (.tret f) s i d :=
  fun hi hl ho => by rw [exec_tret, execTret]; exact runWord_bad hi hl ho hw hd _

theorem reform_illegal {b : WordB} {s : State} {i : Iss} {d : Nat} (hw : reformWait b s i = false) (hd : reformBad s i = some d) :
    IllegalWhenReady (.reform b) s i d :=
  fun hi hl ho => by rw [exec_reform, execReform]; exact runWord_bad hi hl ho hw hd _

theorem firstBad_cons (c : Bool) (d : Nat) (t : List (Bool × Nat)) :
    firstBad ((c, d) :: t) = if c then some d else firstBad t := by
  cases c <;> rfl

theorem stateIllegals : Claim.StateIllegals := by
  have lend (s : State) (i : Iss) (h : atLend i = true) : lendBad s i = some 0x14 := by simp [lendBad, firstBad_cons, h]
  refine ⟨fun b s i h => ⟨?_, ?_, ?_, ?_, ?_, fun hw => ?_, fun hn => ?_⟩, fun f s i h => ⟨?_, ?_, ?_, fun hw => ?_⟩,
    fun f s i h hs ht => ?_, fun b s i => ?_⟩
  · exact fun hi hl ho => runWord_bad hi hl ho rfl (lend s i h) _
  · exact fun hi hl ho => runWord_bad hi hl ho rfl (lend s i h) _
  · exact fun hi hl ho => runWord_bad hi hl ho rfl (lend s i h) _
  · exact fun hi hl ho => runWord_bad hi hl ho rfl (lend s i h) _
  · exact fun hi hl ho => runWord_bad hi hl ho rfl (lend s i h) _
  · exact reform_illegal hw (by simp [reformBad, firstBad_cons, h])
  · exact lbrk_illegal (by simp [lbrkBad, lbrkLevels, firstBad_cons, h, Nat.not_lt.2 hn])
  · exact fun hi hl ho => runWord_bad hi hl ho rfl (lend s i h) _
  · exact fun hi hl ho => runWord_bad hi hl ho rfl (lend s i h) _
  · exact exit_illegal (by simp [exitBad, firstBad_cons, h])
  · exact tret_illegal hw (by simp [tretBad, firstBad_cons, h])
  · exact tret_illegal (by simp [tretWait, ht]) (by simp [tretBad, firstBad_cons, h, hs, ht])
  · simp only [← loopBodyBad_iff]
    refine ⟨fun h4 => ?_, fun h4 hb => ?_, fun h4 hb h => ?_, fun h4 hb h ht => ?_, fun hn => ?_, fun hn h ht => ?_⟩
    · exact loop_illegal (by simp [loopBad_eq, firstBad_cons, h4])
    · exact loop_illegal (by simp [loopBad_eq, firstBad_cons, h4, hb])
    · exact loop_illegal (by simp [loopBad_eq, firstBad_cons, h4, hb, h])
    · exact loop_illegal (by simp [loopBad_eq, firstBad_cons, h4, hb, h, ht])
    · exact lbrk_illegal (by simp [lbrkBad, lbrkLevels, firstBad_cons, hn])
    · exact lbrk_illegal (by simp [lbrkBad, lbrkLevels, firstBad_cons, Nat.not_lt.2 hn, h, ht])

end Sys2Proof.Machine
end

section
/-! PROOFS. The walk's choice and its record (R2, R20, R369, R374). -/

namespace Sys2Proof.Machine

open Sys2Proof

/-! R369. -/

/-- The action that a level's field names, the partition's only where PCLAMP is 0. -/
def walkField (s : State) (p : Nat) (r : Rec) (v : Level) : Nat :=
  if v = .part ∧ ctlField (part s p) 0x500 30 1 = 1 then 0 else policyOf r v

/-- A retry at a level acts as kill self. -/
def walkDemotes (s : State) (h : Where) (r : Rec) (index : Nat) (v : Level) : Prop :=
  walkField s h.part r v = 1 ∧
    (rIdem r = false ∨ v = .ctx ∨ v = .part ∨ ctlField (part s h.part) 0x500 0 4 ≤ retryCount s (wgLaunch s h.wg) index)

open Classical in
theorem walkChoice_cons (s : State) (h : Where) (r : Rec) (index : Nat) (v : Level) (t : List Level) :
    walkChoice s h r index (v :: t) =
      if walkField s h.part r v = 0 then walkChoice s h r index t
      else if walkDemotes s h r index v then some (v, 2, true) else some (v, walkField s h.part r v, false) := by
  simp only [walkChoice, walkDemotes, walkField, ge_iff_le, Bool.not_eq_true']
  congr

theorem walkChoice_eq_none (s : State) (h : Where) (r : Rec) (index : Nat) (l : List Level) :
    walkChoice s h r index l = none ↔ ∀ v ∈ l, walkField s h.part r v = 0 := by
  induction l with
  | nil => simp [walkChoice]
  | cons v t ih =>
    rw [walkChoice_cons]
    by_cases h0 : walkField s h.part r v = 0
    · simp [h0, ih]
    · simp only [h0, if_false, List.forall_mem_cons, false_and, iff_false]
      split <;> simp

/-- The walk's choice is the first level of the list that does not ignore. -/
theorem walkChoice_eq_some (s : State) (h : Where) (r : Rec) (index : Nat) (l : List Level)
    (sorted : l.Pairwise fun a b => a.code < b.code) (v : Level) (a : Nat) (d : Bool) :
    walkChoice s h r index l = some (v, a, d) ↔
      v ∈ l ∧ walkField s h.part r v ≠ 0 ∧ (∀ u ∈ l, u.code < v.code → walkField s h.part r u = 0) ∧
        ((walkDemotes s h r index v ∧ a = 2 ∧ d = true) ∨
          (¬ walkDemotes s h r index v ∧ a = walkField s h.part r v ∧ d = false)) := by
  induction l with
  | nil => simp [walkChoice]
  | cons w t ih =>
    obtain ⟨first, rest⟩ := List.pairwise_cons.1 sorted
    rw [walkChoice_cons]
    by_cases h0 : walkField s h.part r w = 0
    · simp only [h0, if_true, ih rest, List.mem_cons, forall_eq_or_imp, implies_true, true_and]
      constructor
      · rintro ⟨hv, rest⟩; exact ⟨.inr hv, rest⟩
      · rintro ⟨rfl | hv, hne, rest⟩
        · exact absurd h0 hne
        · exact ⟨hv, hne, rest⟩
    · have later (u : Level) (hu : u ∈ t) : ¬ u.code < w.code := Nat.not_lt.2 (first u hu).le
      simp only [h0, if_false]
      constructor
      · intro hc
        have hv : v = w := by split at hc <;> simp_all
        subst hv
        refine ⟨List.mem_cons_self, h0, fun u hu hlt => ?_, ?_⟩
        · rcases List.mem_cons.1 hu with rfl | hu
          · exact absurd hlt (Nat.lt_irrefl _)
          · exact absurd hlt (later u hu)
        · split at hc <;> simp_all
      · rintro ⟨hv, hne, before, how⟩
        have hv : v = w := by
          rcases List.mem_cons.1 hv with rfl | hv
          · rfl
          · exact absurd (before w List.mem_cons_self (first v hv)) h0
        subst hv
        rcases how with ⟨hd, rfl, rfl⟩ | ⟨hd, rfl, rfl⟩ <;> simp [hd]

theorem walkDecides : Claim.WalkDecides := by
  intro s h r index
  have all (v : Level) : v ∈ [Level.warp, .wg, .launch, .ctx, .part] := by cases v <;> decide
  refine ⟨?_, fun v a d => ?_⟩
  · rw [walkChoice_eq_none]
    simp only [all, true_imp_iff]
    rfl
  · rw [walkChoice_eq_some s h r index _ (by decide)]
    simp only [all, true_imp_iff, true_and]
    rfl

/-! R2, R374. -/

/-- The number that a containment record's bits hold. -/
theorem contBits_toNat (n cause epc o ctx p core track slot level action : Nat) (d b : Bool) :
    (contBits n cause epc o ctx p core track slot level action d b).toNat =
      n % 2 ^ 64 * 2 ^ 192 + cause % 2 ^ 64 * 2 ^ 128 + epc % 2 ^ 64 * 2 ^ 64 + o % 2 ^ 16 * 2 ^ 48 + ctx % 2 ^ 12 * 2 ^ 36 +
        p % 16 * 2 ^ 32 + core % 256 * 2 ^ 24 + track % 8 * 2 ^ 21 + slot % 16 * 2 ^ 17 + level % 8 * 2 ^ 14 +
        action % 4 * 2 ^ 12 + d.toNat * 2 ^ 11 + b.toNat * 2 ^ 10 := by
  have hd := d.toNat_le
  have hb := b.toNat_le
  have flag (c : Bool) (k : Nat) : (if c then k else 0) = c.toNat * k := by cases c <;> simp
  unfold contBits
  rw [BitVec.toNat_ofNat, flag, flag]
  omega

/-- R374: each field of a record stands in its bits. -/
theorem contBits_fields (n cause epc o ctx p core track slot level action : Nat) (d b : Bool) :
    let r := (contBits n cause epc o ctx p core track slot level action d b).toNat
    bits r 192 64 = n % 2 ^ 64 ∧ bits r 128 64 = cause % 2 ^ 64 ∧ bits r 64 64 = epc % 2 ^ 64 ∧ bits r 48 16 = o % 2 ^ 16 ∧
    bits r 36 12 = ctx % 2 ^ 12 ∧ bits r 32 4 = p % 16 ∧ bits r 24 8 = core % 256 ∧ bits r 21 3 = track % 8 ∧
    bits r 17 4 = slot % 16 ∧ bits r 14 3 = level % 8 ∧ bits r 12 2 = action % 4 ∧ r.testBit 11 = d ∧ r.testBit 10 = b ∧
    bits r 0 10 = 0 := by
  intro r
  have hr : r = _ := contBits_toNat n cause epc o ctx p core track slot level action d b
  have hd := d.toNat_le
  have hb := b.toNat_le
  have flag (k : Nat) (c : Bool) (h : r / 2 ^ k % 2 = c.toNat) : r.testBit k = c := by
    rw [Nat.testBit_eq_decide_div_mod_eq, h]; cases c <;> rfl
  simp only [bits, Nat.shiftRight_eq_div_pow]
  refine ⟨?_, ?_, ?_, ?_, ?_, ?_, ?_, ?_, ?_, ?_, ?_, flag 11 d ?_, flag 10 b ?_, ?_⟩ <;> omega

/-- R2: a containment record takes its origin's next number. -/
theorem contRecord_numbers (s : State) (h : Where) (cause epc level action : Nat) (d b : Bool) :
    let n := FMap.getD s.oseq (whereOrigin h) 0 + 1
    let t := contRecord s h cause epc level action d b
    (part t h.part).errQ = (part s h.part).errQ ++
      [contBits n cause epc (whereOrigin h) h.ctx h.part h.core h.track h.slot level action d b] ∧
    FMap.getD t.oseq (whereOrigin h) 0 = n := by
  intro n t
  refine ⟨?_, ?_⟩
  · simp only [t, contRecord, pushError, part_modPart_same]; rfl
  · simp [t, contRecord, pushError, nextOseq, FMap.getD, n]

theorem recordsWritten : Claim.RecordsWritten := ⟨contRecord_numbers, contBits_fields⟩

end Sys2Proof.Machine
end

section
/-! PROOFS. What accesses of the device and the records that it writes leave alone: warps, workgroups, launches and control words. -/

namespace Sys2Proof.Machine

open Sys2Proof

/-- What stands on the device whatever its memory, caches and records hold: warps, workgroups, launches, and the words of every
partition's control block. -/
def standing (s : State) : FMap Warp × FMap Wg × FMap Launch × Nat × (Nat → FMap Dword) :=
  (s.warps, s.wgs, s.launches, s.nextId, fun p => (part s p).ctl)

theorem standing_congr {s t : State} (hw : t.warps = s.warps) (hg : t.wgs = s.wgs) (hl : t.launches = s.launches)
    (hn : t.nextId = s.nextId) (hp : t.parts = s.parts) : standing t = standing s := by
  simp only [standing, part, hw, hg, hl, hn, hp]

theorem standing_foldl {α : Type} (f : State → α → State) (h : ∀ s a, standing (f s a) = standing s) (l : List α) (s : State) :
    standing (l.foldl f s) = standing s := by
  induction l generalizing s with
  | nil => rfl
  | cons a t ih => rw [List.foldl_cons, ih, h]

theorem standing_modPart (s : State) (p : Nat) (f : Part → Part) (h : ∀ q, (f q).ctl = q.ctl) :
    standing (modPart s p f) = standing s := by
  have ctl (q : Nat) : (part (modPart s p f) q).ctl = (part s q).ctl := by
    by_cases hq : q = p
    · subst hq; rw [part_modPart_same, h]
    · rw [part_modPart_other _ _ _ _ hq]
  simp only [standing, modPart_warps, modPart_wgs, modPart_launches, modPart_nextId, ctl]

/-! Records and atoms. -/

@[simp] theorem standing_nextOseq (s : State) (o : Nat) : standing (nextOseq s o).1 = standing s := rfl
@[simp] theorem standing_sendOut (s : State) (o : Nat) (f : Nat → Out) : standing (sendOut s o f) = standing s := rfl
@[simp] theorem standing_cairnWrite (s : State) (o c p lo hi : Nat) : standing (cairnWrite s o c p lo hi) = standing s := rfl
@[simp] theorem standing_outRange (s : State) (p pa : Nat) : standing (outRange s p pa) = standing s := rfl
@[simp] theorem standing_dctlSet (s : State) (a v : Nat) : standing (dctlSet s a v) = standing s := rfl
@[simp] theorem standing_eccCount (s : State) (c : Nat) (u : Bool) : standing (eccCount s c u) = standing s := rfl
@[simp] theorem standing_poisonSector (s : State) (n : Nat) (m : Mark) : standing (poisonSector s n m) = standing s := rfl

@[simp] theorem standing_pushFault (s : State) (p : Nat) (r : FRec) : standing (pushFault s p r) = standing s :=
  standing_modPart _ _ _ fun _ => rfl

@[simp] theorem standing_pushError (s : State) (p : Nat) (b : BitVec 256) : standing (pushError s p b) = standing s :=
  standing_modPart _ _ _ fun _ => rfl

@[simp] theorem standing_atomWritten (s : State) (a : Atom) : standing (atomWritten s a) = standing s := by
  unfold atomWritten; split <;> rfl

@[simp] theorem standing_atomRead (s : State) (a : Atom) (k : Option Nat) : standing (atomRead s a k) = standing s := by
  unfold atomRead
  split
  · cases k <;> rfl
  · split <;> rfl

@[simp] theorem standing_atomAccess (s : State) (pa : Nat) (b : Bool) : standing (atomAccess s pa b) = standing s := by
  unfold atomAccess
  split
  · rfl
  · split
    · dsimp only
      split
      · rfl
      · cases b <;> simp
    · rfl

@[simp] theorem standing_atomsClean (s : State) (lo hi : Nat) : standing (atomsClean s lo hi) = standing s := by
  unfold atomsClean; dsimp only; split <;> rfl

@[simp] theorem standing_endEvent (s : State) (n : Nat) : standing (endEvent s n) = standing s := by
  unfold endEvent
  split
  · rfl
  · dsimp only; split <;> rfl

@[simp] theorem standing_zeroRange (s : State) (lo hi : Nat) : standing (zeroRange s lo hi) = standing s :=
  (standing_foldl endEvent standing_endEvent _ _).trans (standing_atomsClean s lo hi)

@[simp] theorem standing_scrubOne (s : State) (c g : Nat) : standing (scrubOne s c g) = standing s := by
  unfold scrubOne
  split
  · rfl
  · dsimp only
    split
    · rw [standing_modPart, ← standing_zeroRange s (chanPa c (g * 2097152)) (chanPa c (g * 2097152) + 2097152)]
      · exact standing_congr rfl rfl rfl rfl rfl
      · exact fun _ => rfl
    · rw [← standing_zeroRange s (chanPa c (g * 2097152)) (chanPa c (g * 2097152) + 2097152)]
      exact standing_congr rfl rfl rfl rfl rfl

@[simp] theorem standing_scrubAt (s : State) (pa : Nat) : standing (scrubAt s pa) = standing s := by
  unfold scrubAt
  split
  · split
    · exact standing_scrubOne s _ _
    · rfl
  · rfl

/-! Reads and writes of memory. -/

@[simp] theorem standing_putBytes (s : State) (key : Option Nat) (pa : Nat) (l : List Byte) :
    standing (putBytes s key pa l) = standing s := by
  have kept : standing (farKeep s pa l.length) = standing s := by unfold farKeep; split <;> rfl
  unfold putBytes
  cases key with
  | none => rw [← kept]; exact standing_congr rfl rfl rfl rfl rfl
  | some k => rw [← kept]; dsimp only; split <;> exact standing_congr rfl rfl rfl rfl rfl

@[simp] theorem standing_cleanSector (s : State) (n : Nat) : standing (cleanSector s n) = standing s := by
  unfold cleanSector
  split
  · rfl
  · exact standing_endEvent _ _

@[simp] theorem standing_poisonAfter (o : Option Nat) (l : List Store) (s : State) (n : Nat) :
    standing (poisonAfter o l s n) = standing s := by
  unfold poisonAfter
  split
  · rfl
  · dsimp only
    split
    · simp
    · split <;> simp

@[simp] theorem standing_physStore (o k : Option Nat) (s : State) (w : Store) : standing (physStore o k s w) = standing s := by
  unfold physStore
  split
  · rfl
  · split <;> simp

@[simp] theorem standing_physStores (s : State) (o k : Option Nat) (l : List Store) : standing (physStores s o k l) = standing s := by
  unfold physStores
  dsimp only
  rw [standing_foldl (physStore o k) (standing_physStore o k), standing_foldl (poisonAfter o l) (standing_poisonAfter o l),
    standing_foldl (fun s (w : Store) => scrubAt s w.pa) fun s w => standing_scrubAt s w.pa]

@[simp] theorem standing_physWrite64 (s : State) (o : Option Nat) (pa x : Nat) : standing (physWrite64 s o pa x) = standing s :=
  standing_physStores s o none _

@[simp] theorem standing_deliverMark (s : State) (pa : Nat) : standing (deliverMark s pa).1 = standing s := by
  unfold deliverMark
  dsimp only
  split
  · rfl
  · split <;> rfl

@[simp] theorem standing_physRead (s : State) (o k : Option Nat) (pa n : Nat) : standing (physRead s o k pa n).1 = standing s := by
  unfold physRead
  split
  · rfl
  · split
    · rfl
    · simp

/-! L2. -/

@[simp] theorem standing_countLookup (s : State) (p : Nat) (hit : Bool) : standing (countLookup s p hit) = standing s :=
  standing_modPart _ _ _ fun _ => by cases hit <;> rfl

@[simp] theorem standing_chargeAtoms (s : State) (pa p n : Nat) : standing (chargeAtoms s pa p n) = standing s := by
  unfold chargeAtoms
  split
  · dsimp only; rw [apply_ite standing, standing_dctlSet, ite_self]
  · rfl

@[simp] theorem standing_farTake (s : State) (lo hi : Nat) : standing (farTake s lo hi) = standing s := by
  unfold farTake; dsimp only; split <;> rfl

@[simp] theorem standing_writeBackLine (s : State) (l : L2Line) : standing (writeBackLine s l) = standing s := by
  have charged : standing (match ownerOf s (l.line * 128) with
      | some p => chargeAtoms s (l.line * 128) p (dirtyList l).length
      | none => s) = standing s := by split <;> simp
  have moved (u : State) : standing ((dirtyList l).foldl
      (fun s i => farDone s (l.line * 128 + 32 * i) (l.line * 128 + 32 * i + 32)) u) = standing u :=
    standing_foldl (fun s i => farDone s (l.line * 128 + 32 * i) (l.line * 128 + 32 * i + 32)) (fun _ _ => rfl) _ _
  unfold writeBackLine
  dsimp only
  split
  · rfl
  · split <;> exact (moved _).trans charged

@[simp] theorem standing_evictLine (s : State) (l : L2Line) : standing (evictLine s l) = standing s := by
  unfold evictLine
  dsimp only
  split <;> split <;> exact (standing_farTake _ _ _).trans (standing_writeBackLine s l)

@[simp] theorem standing_hostGrant (s : State) (q : L2Req) : standing (hostGrant s q).1 = standing s := by
  unfold hostGrant; split <;> rfl

@[simp] theorem standing_numberRead (s : State) (bank line : Nat) (r : BitVec 4) : standing (numberRead s bank line r) = standing s := by
  unfold numberRead; split <;> rfl

@[simp] theorem standing_l2Found (s : State) (q : L2Req) (pa : Nat) (l : L2Line) : standing (l2Found s q pa l) = standing s := by
  unfold l2Found
  dsimp only
  refine (standing_hostGrant _ q).trans ((standing_chargeAtoms _ _ _ _).trans ?_)
  split <;> simp

@[simp] theorem standing_l2Fill (s : State) (q : L2Req) (pa owner bank set : Nat) :
    standing (l2Fill s q pa owner bank set) = standing s := by
  have counted : standing (if q.counted then countLookup s q.part false else s) = standing s := by split <;> simp
  have charged (u : State) (n : Nat) : standing { chargeAtoms u pa q.part n with
      l2 := (chargeAtoms u pa q.part n).l2.filter (fun x => x.line != pa / 128) } = standing u := standing_chargeAtoms _ _ _ _
  unfold l2Fill
  dsimp only
  split
  · exact (charged _ _).trans counted
  · refine (standing_hostGrant _ q).trans ?_
    split
    · exact (standing_evictLine _ _).trans ((charged _ _).trans counted)
    · exact (charged _ _).trans counted

@[simp] theorem standing_l2Access (s : State) (q : L2Req) (pa : Nat) : standing (l2Access s q pa) = standing s := by
  unfold l2Access
  split
  · dsimp only; split <;> simp
  · rfl

@[simp] theorem standing_blockLookup (s : State) (p a : Nat) (wr : Bool) : standing (blockLookup s p a wr) = standing s :=
  standing_l2Access _ _ _

@[simp] theorem standing_blockAccess (s : State) (p a : Nat) : standing (blockAccess s p a) = standing s :=
  (standing_physRead _ _ _ _ _).trans (standing_blockLookup _ _ _ _)

@[simp] theorem standing_modExcsum (s : State) (p c : Nat) (f : Nat → Nat) : standing (modExcsum s p c f) = standing s := by
  unfold modExcsum; simp

/-! Claims, flags and records of warps that end. -/

@[simp] theorem standing_uibSet (s : State) (p c off x : Nat) : standing (uibSet s p c off x) = standing s := by
  unfold uibSet; split <;> simp

@[simp] theorem standing_dropClaim (s : State) (pl : Nat) (w : Warp) : standing (dropClaim s pl w) = standing s := by
  unfold dropClaim; split <;> simp

@[simp] theorem standing_sumFlags (s : State) (w : Warp) : standing (sumFlags s w) = standing s := by
  unfold sumFlags; dsimp only; split <;> simp

@[simp] theorem standing_contRecord (s : State) (h : Where) (cause epc level action : Nat) (d b : Bool) :
    standing (contRecord s h cause epc level action d b) = standing s := by
  unfold contRecord; simp

@[simp] theorem standing_absorbFailure (s : State) (h : Where) (f : Nat × Dword) : standing (absorbFailure s h f) = standing s := by
  unfold absorbFailure; dsimp only; split <;> simp

@[simp] theorem standing_dropSave (s : State) (g : Nat) : standing (dropSave s g) = standing s := by
  unfold dropSave
  split
  · split
    · unfold saveFree; simp
    · rfl
  · rfl

@[simp] theorem standing_addKills (s : State) (p c n : Nat) : standing (addKills s p c n) = standing s := by
  unfold addKills; split <;> simp

@[simp] theorem standing_freeClaim (s : State) (l : Launch) : standing (freeClaim s l) = standing s := by
  unfold freeClaim; split <;> simp

end Sys2Proof.Machine
end

section
/-! PROOFS. What a kill does to warps and workgroups (R371). -/

namespace Sys2Proof.Machine

open Sys2Proof

/-! Maps. -/

theorem mem_of_get? {α : Type} {m : FMap α} {n : Nat} {a : α} (h : FMap.get? m n = some a) : (n, a) ∈ m := by
  induction m with
  | nil => simp [FMap.get?] at h
  | cons e t ih =>
    obtain ⟨k, b⟩ := e
    by_cases hk : n = k
    · subst hk; simp_all [FMap.get?]
    · simp only [FMap.get?, hk, if_false] at h
      exact List.mem_cons_of_mem _ (ih h)

theorem get?_filter_none {α : Type} (m : FMap α) (p : Nat × α → Bool) (n : Nat) (h : ∀ a, p (n, a) = false) :
    FMap.get? (m.filter p) n = none := by
  induction m with
  | nil => rfl
  | cons e t ih =>
    obtain ⟨k, b⟩ := e
    by_cases hk : n = k
    · subst hk; simp [h, ih]
    · cases hp : p (k, b) <;> simp [FMap.get?, hp, hk, ih]

theorem get?_filter_some {α : Type} {m : FMap α} {p : Nat × α → Bool} {n : Nat} {a : α} (h : FMap.get? m n = some a)
    (hp : p (n, a) = true) : FMap.get? (m.filter p) n = some a := by
  induction m with
  | nil => simp [FMap.get?] at h
  | cons e t ih =>
    obtain ⟨k, b⟩ := e
    by_cases hk : n = k
    · subst hk
      obtain rfl : b = a := by simpa [FMap.get?] using h
      simp [FMap.get?, hp]
    · simp only [FMap.get?, hk, if_false] at h
      cases hq : p (k, b) <;> simp [FMap.get?, hq, hk, ih h]

theorem get?_del_same {α : Type} (m : FMap α) (n : Nat) : FMap.get? (FMap.del m n) n = none :=
  get?_filter_none _ _ _ fun _ => by simp

/-! Killed workgroups. -/

/-- A killed workgroup: it has no warp, and is marked. -/
def Killed (t : State) (g : Nat) : Prop := wgWarps t g = [] ∧ ∃ y, wg? t g = some y ∧ y.killed = true

theorem killed_congr {s t : State} (hw : t.warps = s.warps) (hg : t.wgs = s.wgs) {g : Nat} (h : Killed s g) : Killed t g := by
  unfold Killed wgWarps wg? at *
  rwa [hw, hg]

/-- The fields of a state that stand apart from its warps and workgroups: launches and the control words of partitions. -/
def ledger (s : State) : FMap Launch × Nat × (Nat → FMap Dword) := (standing s).2.2

/-- t has no warp that s has not, and its workgroups are those of s, of the same contexts, none of them called back from a kill; only
those that ok admits have been marked. -/
structure Fewer (ok : Nat → Prop) (s t : State) : Prop where
  warps : t.warps ⊆ s.warps
  wgs : ∀ g y, wg? s g = some y → ∃ y', wg? t g = some y' ∧ y'.ctx = y.ctx ∧ (y.killed = true → y'.killed = true) ∧
    (y'.killed = y.killed ∨ ok g)
  ledger : ledger t = ledger s

theorem Fewer.refl (ok : Nat → Prop) (s : State) : Fewer ok s s :=
  ⟨fun _ h => h, fun _ y h => ⟨y, h, rfl, id, .inl rfl⟩, rfl⟩

theorem Fewer.trans {ok : Nat → Prop} {s t u : State} (h : Fewer ok s t) (h' : Fewer ok t u) : Fewer ok s u where
  warps _ he := h.warps (h'.warps he)
  wgs g y hy := by
    obtain ⟨y', hy', hc, hk, ho⟩ := h.wgs g y hy
    obtain ⟨y'', hy'', hc', hk', ho'⟩ := h'.wgs g y' hy'
    refine ⟨y'', hy'', hc'.trans hc, fun k => hk' (hk k), ?_⟩
    rcases ho' with ho' | ho'
    · exact ho.imp_left ho'.trans
    · exact .inr ho'
  ledger := h'.ledger.trans h.ledger

theorem Fewer.mono {ok ok' : Nat → Prop} {s t : State} (h : Fewer ok s t) (hok : ∀ g, ok g → ok' g) : Fewer ok' s t where
  warps := h.warps
  wgs g y hy := by
    obtain ⟨y', hy', hc, hk, ho⟩ := h.wgs g y hy
    exact ⟨y', hy', hc, hk, ho.imp_right (hok g)⟩
  ledger := h.ledger

theorem fewer_foldl {α : Type} {ok : Nat → Prop} (f : State → α → State) (h : ∀ s a, Fewer ok s (f s a)) (l : List α) (s : State) :
    Fewer ok s (l.foldl f s) := by
  induction l generalizing s with
  | nil => exact .refl _ _
  | cons a t ih => exact (h s a).trans (ih _)

theorem fewer_of_standing {ok : Nat → Prop} {s t : State} (h : standing t = standing s) : Fewer ok s t := by
  have hw : t.warps = s.warps := congrArg Prod.fst h
  have hg : t.wgs = s.wgs := congrArg (·.2.1) h
  exact ⟨fun _ he => hw ▸ he, fun g y hy => ⟨y, by rwa [wg?, hg], rfl, id, .inl rfl⟩, congrArg (·.2.2) h⟩

theorem wgWarps_subset {s t : State} (h : t.warps ⊆ s.warps) {g : Nat} (hs : wgWarps s g = []) : wgWarps t g = [] := by
  unfold wgWarps at *
  rw [List.filter_eq_nil_iff] at *
  exact fun e he => hs e (h he)

theorem Fewer.killed {ok : Nat → Prop} {s t : State} (h : Fewer ok s t) {g : Nat} (hs : Killed s g) : Killed t g := by
  obtain ⟨none, y, hy, hk⟩ := hs
  obtain ⟨y', hy', -, kept, -⟩ := h.wgs g y hy
  exact ⟨wgWarps_subset h.warps none, y', hy', kept hk⟩

/-- t has come from s by kills: what they have marked has no warp left. -/
def Kills (s t : State) : Prop := Fewer (fun g => wgWarps t g = []) s t

theorem Kills.refl (s : State) : Kills s s := Fewer.refl _ _

theorem Kills.trans {s t u : State} (h : Kills s t) (h' : Kills t u) : Kills s u :=
  Fewer.trans (Fewer.mono h fun _ hg => wgWarps_subset h'.warps hg) h'

theorem kills_of_standing {s t : State} (h : standing t = standing s) : Kills s t := fewer_of_standing h

/-! Killing a workgroup. -/

theorem fewer_modWg (s : State) (g : Nat) (f : Wg → Wg) (hc : ∀ y, (f y).ctx = y.ctx)
    (hk : ∀ y : Wg, y.killed = true → (f y).killed = true) : Fewer (· = g) s (modWg s g f) where
  warps _ h := h
  wgs k y hy := by
    by_cases h : k = g
    · subst h
      exact ⟨f y, by rw [wg?, modWg, get?_modify_same, ← wg?, hy]; rfl, hc y, hk y, .inr rfl⟩
    · exact ⟨y, by rwa [wg?, modWg, get?_modify_other _ _ _ _ h], rfl, id, .inl rfl⟩
  ledger := rfl

theorem fewer_dropWarp {ok : Nat → Prop} (s : State) (pl : Nat) : Fewer ok s (dropWarp s pl) :=
  ⟨fun _ he => List.mem_of_mem_filter he, fun _ y h => ⟨y, h, rfl, id, .inl rfl⟩, rfl⟩

/-- Ends the warps of a list as a kill does (R371). -/
def killWarps (l : List (Nat × Warp)) (s : State) : State :=
  l.foldl (fun s e => dropWarp (dropClaim (sumFlags s e.2) e.1 e.2) e.1) s

theorem fewer_killWarps {ok : Nat → Prop} (l : List (Nat × Warp)) (s : State) : Fewer ok s (killWarps l s) :=
  fewer_foldl _ (fun s e => (fewer_of_standing (by simp)).trans (fewer_dropWarp _ e.1)) l s

theorem killWarps_gone (l : List (Nat × Warp)) (s : State) {e : Nat × Warp} (he : e ∈ (killWarps l s).warps) :
    ∀ x ∈ l, x.1 ≠ e.1 := by
  induction l generalizing s with
  | nil => simp
  | cons a t ih =>
    intro x hx
    rcases List.mem_cons.1 hx with rfl | hx
    · have : e ∈ (dropWarp (dropClaim (sumFlags s x.2) x.1 x.2) x.1).warps := (fewer_killWarps (ok := fun _ => True) t _).warps he
      simp only [dropWarp, FMap.del, List.mem_filter, bne_iff_ne] at this
      exact fun h => this.2 h.symm
    · exact ih _ he x hx

theorem fewer_dropStagings (s : State) (g : Nat) : Fewer (· = g) s (dropStagings s g) := by
  unfold dropStagings
  refine Fewer.trans (t := { s with xfers := s.xfers.filter (fun e => !(e.2.wg == g && e.2.entry.isSome)) })
    (fewer_of_standing (standing_congr rfl rfl rfl rfl rfl)) (fewer_modWg _ g _ ?_ ?_)
  · exact fun _ => rfl
  · exact fun _ h => h

/-- The mark of a kill on a workgroup. -/
def markKilled (lv : Nat) (x : Wg) : Wg := { x with killed := true, killLevel := lv, startParks := [], drain := none, saving := none }

/-- The state of a kill before the failures that its warps leave are recorded. -/
def killedState (s : State) (lv g : Nat) : State :=
  dropLoops (dropStagings (dropLines (killWarps (wgWarps s g) (modWg (dropSave s g) g (markKilled lv))) g) g) g

theorem killWg_eq (s : State) (lv g : Nat) : killWg s lv g =
    ((wgWarps s g).foldl (fun s e => (endFailures e.2).foldl (fun s f => absorbFailure s (whereOf e.1 e.2) f) s) (killedState s lv g),
      (wgWarps s g).length) := rfl

theorem standing_dropLines (s : State) (g : Nat) : standing (dropLines s g) = standing s := by
  unfold dropLines; split <;> rfl

theorem standing_failures (l : List (Nat × Warp)) (s : State) :
    standing (l.foldl (fun s e => (endFailures e.2).foldl (fun s f => absorbFailure s (whereOf e.1 e.2) f) s) s) = standing s :=
  standing_foldl _ (fun s e => standing_foldl _ (fun s f => standing_absorbFailure s (whereOf e.1 e.2) f) _ s) l s

/-- What becomes of the marked workgroup and its warps. -/
theorem fewer_after_mark (s : State) (lv g : Nat) :
    Fewer (· = g) (killWarps (wgWarps s g) (modWg (dropSave s g) g (markKilled lv))) (killWg s lv g).1 := by
  rw [killWg_eq]
  refine ((fewer_of_standing (standing_dropLines _ g)).trans ?_).trans (fewer_of_standing (standing_failures _ _))
  exact (fewer_dropStagings _ g).trans (fewer_of_standing (standing_congr rfl rfl rfl rfl rfl))

theorem fewer_killWg (s : State) (lv g : Nat) : Fewer (· = g) s (killWg s lv g).1 :=
  (((fewer_of_standing (standing_dropSave s g)).trans (fewer_modWg _ g (markKilled lv) (fun _ => rfl) fun _ _ => rfl)).trans
    (fewer_killWarps _ _)).trans (fewer_after_mark s lv g)

/-- A killed workgroup has no warp. -/
theorem wgWarps_killWg (s : State) (lv g : Nat) : wgWarps (killWg s lv g).1 g = [] := by
  refine List.filter_eq_nil_iff.2 fun e he hg => ?_
  have mine : e ∈ wgWarps s g := List.mem_filter.2 ⟨(fewer_killWg s lv g).warps he, hg⟩
  exact killWarps_gone _ _ ((fewer_after_mark s lv g).warps he) e mine rfl

theorem kills_killWg (s : State) (lv g : Nat) : Kills s (killWg s lv g).1 :=
  (fewer_killWg s lv g).mono fun k hk => by rw [hk]; exact wgWarps_killWg s lv g

theorem killed_killWg (s : State) (lv g : Nat) {x : Wg} (h : wg? s g = some x) : Killed (killWg s lv g).1 g := by
  obtain ⟨y, hy, -⟩ := (fewer_of_standing (ok := (· = g)) (standing_dropSave s g)).wgs g x h
  have marked : wg? (modWg (dropSave s g) g (markKilled lv)) g = some (markKilled lv y) := by
    rw [wg?, modWg, get?_modify_same, ← wg?, hy]; rfl
  obtain ⟨y', hy', -, kept, -⟩ := ((fewer_killWarps (wgWarps s g) _).trans (fewer_after_mark s lv g)).wgs g _ marked
  exact ⟨wgWarps_killWg s lv g, y', hy', kept rfl⟩

/-! Killing several. -/

/-- One kill of several, with its count. -/
def killNext (lv : Nat) (r : State × Nat) (g : Nat) : State × Nat := ((killWg r.1 lv g).1, r.2 + (killWg r.1 lv g).2)

theorem killWgs_eq (s : State) (lv : Nat) (gs : List Nat) : killWgs s lv gs = gs.foldl (killNext lv) (s, 0) := rfl

theorem kills_killNexts (lv : Nat) (gs : List Nat) (r : State × Nat) : Kills r.1 (gs.foldl (killNext lv) r).1 := by
  induction gs generalizing r with
  | nil => exact .refl _
  | cons g t ih => exact (kills_killWg r.1 lv g).trans (ih _)

theorem kills_killWgs (s : State) (lv : Nat) (gs : List Nat) : Kills s (killWgs s lv gs).1 :=
  killWgs_eq s lv gs ▸ kills_killNexts lv gs (s, 0)

theorem killed_killNexts (lv : Nat) (gs : List Nat) (r : State × Nat) {g : Nat} {x : Wg} (hg : g ∈ gs) (h : wg? r.1 g = some x) :
    Killed (gs.foldl (killNext lv) r).1 g := by
  induction gs generalizing r x with
  | nil => cases hg
  | cons k t ih =>
    by_cases hk : g = k
    · subst hk
      exact (kills_killNexts lv t _).killed (killed_killWg r.1 lv g h)
    · obtain ⟨y, hy, -⟩ := (kills_killWg r.1 lv k).wgs g x h
      exact ih (killNext lv r k) ((List.mem_cons.1 hg).resolve_left hk) hy

theorem killed_killWgs (s : State) (lv : Nat) (gs : List Nat) {g : Nat} {x : Wg} (hg : g ∈ gs) (h : wg? s g = some x) :
    Killed (killWgs s lv gs).1 g := killWgs_eq s lv gs ▸ killed_killNexts lv gs (s, 0) hg h

theorem mem_ctxWgs {s : State} {g : Nat} {x : Wg} (h : wg? s g = some x) (hk : x.killed = false) : g ∈ ctxWgs s x.ctx :=
  List.mem_map.2 ⟨(g, x), List.mem_filter.2 ⟨mem_of_get? h, by simp [hk]⟩, rfl⟩

theorem mem_launchWgs {s : State} {g : Nat} {x : Wg} (h : wg? s g = some x) (hk : x.killed = false) : g ∈ launchWgs s x.launch :=
  List.mem_map.2 ⟨(g, x), List.mem_filter.2 ⟨mem_of_get? h, by simp [hk]⟩, rfl⟩

theorem standing_killCtx (s : State) (p c : Nat) : standing (killCtx s p c) = standing (killWgs s 3 (ctxWgs s c)).1 := by
  unfold killCtx; simp

theorem kills_killCtx (s : State) (p c : Nat) : Kills s (killCtx s p c) :=
  (kills_killWgs _ _ _).trans (kills_of_standing (standing_killCtx s p c))

theorem killed_killCtx (s : State) (p : Nat) {g : Nat} {x : Wg} (h : wg? s g = some x) (hk : x.killed = false) :
    Killed (killCtx s p x.ctx) g :=
  (fewer_of_standing (ok := fun _ => True) (standing_killCtx s p x.ctx)).killed (killed_killWgs _ _ _ (mem_ctxWgs h hk) h)

/-- The contexts of a list are killed one after another. -/
theorem kills_killCtxs (p : Nat) (cs : List Nat) (s : State) : Kills s (cs.foldl (fun s c => killCtx s p c) s) := by
  induction cs generalizing s with
  | nil => exact .refl _
  | cons c t ih => exact (kills_killCtx s p c).trans (ih _)

theorem killed_killCtxs (p : Nat) (cs : List Nat) (s : State) {g : Nat} {x : Wg} (h : wg? s g = some x) (hk : x.killed = false)
    (hc : x.ctx ∈ cs) : Killed (cs.foldl (fun s c => killCtx s p c) s) g := by
  induction cs generalizing s x with
  | nil => cases hc
  | cons c t ih =>
    by_cases here : x.ctx = c
    · subst here
      exact (kills_killCtxs p t _).killed (killed_killCtx s p h hk)
    · obtain ⟨y, hy, ctx, -, how⟩ := (kills_killCtx s p c).wgs g x h
      cases marked : y.killed with
      | false => exact ih _ hy marked (ctx ▸ (List.mem_cons.1 hc).resolve_left here)
      | true =>
        have gone : wgWarps (killCtx s p c) g = [] := how.resolve_left (by simp [marked, hk])
        exact (kills_killCtxs p t _).killed ⟨gone, y, hy, marked⟩

end Sys2Proof.Machine
end

section
/-! PROOFS. What the walk's actions do (R370 to R372). -/

namespace Sys2Proof.Machine

open Sys2Proof

/-! Fields of words and records. -/

theorem setBits_eq (x lo n v : Nat) :
    setBits x lo n v = x % 2 ^ lo + 2 ^ lo * (2 ^ n * (x / 2 ^ lo / 2 ^ n) + v % 2 ^ n) := by
  have low := Nat.div_add_mod x (2 ^ lo)
  have field := congrArg (2 ^ lo * ·) (Nat.div_add_mod (x / 2 ^ lo) (2 ^ n))
  simp only [Nat.mul_add] at field
  simp only [setBits, bits, Nat.shiftRight_eq_div_pow, Nat.mul_add, Nat.mul_comm _ (2 ^ lo)]
  omega

/-- A written field reads what was written. -/
theorem bits_setBits_same (x lo n v : Nat) : bits (setBits x lo n v) lo n = v % 2 ^ n := by
  rw [bits, Nat.shiftRight_eq_div_pow, setBits_eq, Nat.add_mul_div_left _ _ (Nat.two_pow_pos lo),
    Nat.div_eq_of_lt (Nat.mod_lt _ (Nat.two_pow_pos lo)), Nat.zero_add, Nat.mul_add_mod, Nat.mod_mod]

/-- A field that lies below the written one keeps its bits. -/
theorem bits_setBits_below (x lo n v k m : Nat) (h : k + m ≤ lo) : bits (setBits x lo n v) k m = bits x k m := by
  have low : setBits x lo n v % 2 ^ lo = x % 2 ^ lo := by rw [setBits_eq, Nat.add_mul_mod_self_left, Nat.mod_mod]
  have field (y : Nat) : bits y k m = bits (y % 2 ^ lo) k m := by
    simp only [bits, Nat.shiftRight_eq_div_pow, ← Nat.mod_mul_right_div_self, ← Nat.pow_add]
    rw [Nat.mod_mod_of_dvd _ (Nat.pow_dvd_pow 2 h)]
  rw [field, low, ← field]

theorem setBits_zero_le (x lo n : Nat) : setBits x lo n 0 ≤ x := by
  simp [setBits]

theorem rset_zero_toNat (r : Rec) (lo n : Nat) : (rset r lo n 0).toNat = setBits r.toNat lo n 0 := by
  rw [rset, BitVec.toNat_ofNat, Nat.mod_eq_of_lt (Nat.lt_of_le_of_lt (setBits_zero_le _ _ _) r.isLt)]

theorem rSave_unsaved (r : Rec) : rSave (rset r 320 64 0) = 0 := by
  rw [rSave, rf, rset_zero_toNat, bits_setBits_same, Nat.zero_mod]

theorem rSeq_unsaved (r : Rec) : rSeq (rset r 320 64 0) = rSeq r := by
  rw [rSeq, rf, rset_zero_toNat, bits_setBits_below _ _ _ _ _ _ (by decide), rSeq, rf]

theorem ctlField_congr {p q : Part} (h : q.ctl = p.ctl) (off lo n : Nat) : ctlField q off lo n = ctlField p off lo n := by
  simp only [ctlField, ctlWord, h]

theorem ctlWord_ctlSet_other (p : Part) (off v k : Nat) (h : k ≠ off) : ctlWord (ctlSet p off v) k = ctlWord p k := by
  simp only [ctlWord, ctlSet, get?_ins_other _ _ _ _ h]

/-! A halted partition. -/

theorem haltPart_halts (s : State) (p : Nat) : ctlField (part (haltPart s p) p) 0x500 31 1 = 1 := by
  have set := bits_setBits_same (ctlWord (part s p) 0x500) 31 1 1
  simp only [haltPart, part_modPart_same, ctlField, ctlSetField, ctlWord, ctlSet, get?_ins_same, BitVec.toNat_ofNat] at set ⊢
  simp only [bits, Nat.shiftRight_eq_div_pow] at set ⊢
  omega

theorem partCtxs_haltPart (s : State) (p : Nat) : partCtxs (haltPart s p) p = partCtxs s p := by
  have base : ctlWord (part (haltPart s p) p) 0x310 = ctlWord (part s p) 0x310 := by
    rw [haltPart, part_modPart_same]
    exact ctlWord_ctlSet_other _ _ _ _ (by decide)
  have desc : (part (haltPart s p) p).desc = (part s p).desc := by rw [haltPart, part_modPart_same]; rfl
  have mem : (haltPart s p).mem = s.mem := rfl
  have valid (c : Nat) : ctxValid (haltPart s p) p c = ctxValid s p c := by
    simp only [ctxValid, ctxField, ctxAddr, desc, base, mem]
  simp only [partCtxs, desc, funext valid]

/-- Kills leave a halted partition halted. -/
theorem Kills.halted {s t : State} (h : Kills s t) {p : Nat} (hs : ctlField (part s p) 0x500 31 1 = 1) :
    ctlField (part t p) 0x500 31 1 = 1 := by
  have ctl : (part t p).ctl = (part s p).ctl := congrFun (congrArg (·.2.2) h.ledger) p
  rw [ctlField_congr ctl, hs]

/-! Kills and the launches. -/

theorem killed_of_standing {s t : State} (h : standing t = standing s) {g : Nat} (hs : Killed s g) : Killed t g :=
  (kills_of_standing h).killed hs

theorem Kills.launches {s t : State} (h : Kills s t) : t.launches = s.launches := congrArg (·.1) h.ledger

theorem Kills.nextId {s t : State} (h : Kills s t) : t.nextId = s.nextId := congrArg (·.2.1) h.ledger

theorem launches_of_standing {s t : State} (h : standing t = standing s) : t.launches = s.launches := congrArg (·.2.2.1) h

/-! A warp that ends. -/

theorem get?_map_none {α : Type} {m : FMap α} {f : Nat × α → Nat × α} {n : Nat} (hf : ∀ e, (f e).1 = e.1)
    (h : FMap.get? m n = none) : FMap.get? (m.map f) n = none := by
  induction m with
  | nil => rfl
  | cons e t ih =>
    obtain ⟨k, b⟩ := e
    by_cases hk : n = k
    · simp [FMap.get?, hk] at h
    · simp only [FMap.get?, hk, if_false] at h
      simp [FMap.get?, hf, hk, ih h]

theorem warp?_barCheck_none {s : State} {pl : Nat} (g : Nat) (h : warp? s pl = none) : warp? (barCheck s g) pl = none := by
  unfold barCheck
  split
  · exact get?_map_none (fun e => by split <;> rfl) h
  · exact h

theorem warp?_endWarp (s : State) (pl : Nat) : warp? (endWarp s pl) pl = none := by
  unfold endWarp
  split
  · assumption
  · exact warp?_barCheck_none _ (get?_del_same _ _)

theorem warp?_of_standing {s t : State} (h : standing t = standing s) (pl : Nat) : warp? t pl = warp? s pl := by
  rw [warp?, warp?, show t.warps = s.warps from congrArg Prod.fst h]

/-- A warp of the named workgroup that is killed leaves its place. -/
theorem warp?_killWarpAt {s : State} {h : Where} {w : Warp} (hw : warp? s h.place = some w) (hg : w.wg = h.wg) :
    warp? (killWarpAt s h) h.place = none := by
  simp only [killWarpAt, hw, hg, if_true]
  rw [warp?_of_standing (standing_foldl _ (fun s f => standing_absorbFailure s h f) _ _), warp?_of_standing (standing_addKills _ _ _ _)]
  exact warp?_endWarp s h.place

theorem applyAction_warp_kill {s : State} {h : Where} (run : ∀ x, wg? s h.wg = some x → x.phase = .running) :
    applyAction s h .warp 2 = killWarpAt s h := by
  cases hx : wg? s h.wg with
  | none => simp [applyAction, hx]
  | some x => simp [applyAction, hx, run x hx]

/-! A restarted workgroup. -/

/-- The launch under which a restarted workgroup stands again: its record with SAVE 0, and its index alone. -/
def rerun (x : Wg) : Launch :=
  ⟨x.part, x.ctx, 0, none, rset x.record 320 64 0, rSeq (rset x.record 320 64 0), rPrio (rset x.record 320 64 0), x.index, x.index + 1, 0,
    some x.launch, 0, false, 0, none, [], false, none⟩

/-- One restart more of an index. -/
def countRetry (index : Nat) (l : Launch) : Launch :=
  { l with retries := FMap.ins l.retries index (FMap.getD l.retries index 0 + 1) }

theorem restartWg_eq {s : State} {g : Nat} {x : Wg} (hx : wg? s g = some x) :
    restartWg s g = (addLaunch { (killWg s 1 g).1 with
      launches := FMap.modify (killWg s 1 g).1.launches x.launch (countRetry x.index) } (rerun x), (killWg s 1 g).2) := by
  unfold restartWg
  rw [hx]
  rfl

theorem killed_restartWg {s : State} {g : Nat} {x : Wg} (hx : wg? s g = some x) : Killed (restartWg s g).1 g := by
  rw [restartWg_eq hx]
  exact killed_congr rfl rfl (killed_killWg s 1 g hx)

theorem restartWg_launches {s : State} {g : Nat} {x : Wg} (hx : wg? s g = some x) :
    (restartWg s g).1.launches = FMap.ins (FMap.modify s.launches x.launch (countRetry x.index)) s.nextId (rerun x) := by
  have kills := kills_killWg s 1 g
  rw [restartWg_eq hx, addLaunch]
  simp only [kills.launches, kills.nextId]

/-! A killed or restarted launch. -/

theorem standing_freeClaims (l : List (Nat × Launch)) (s : State) :
    standing (l.foldl (fun s e => freeClaim s e.2) s) = standing s :=
  standing_foldl _ (fun s e => standing_freeClaim s e.2) l s

theorem killed_freeClaims {s : State} (l : List (Nat × Launch)) {g : Nat} (h : Killed s g) :
    Killed (l.foldl (fun s e => freeClaim s e.2) s) g := killed_of_standing (standing_freeClaims l s) h

theorem killed_dropLaunch {s : State} (i : Nat) {g : Nat} (h : Killed s g) : Killed (dropLaunch s i) g := by
  unfold dropLaunch
  split
  · exact h
  next l _ =>
    have landed : Killed (freeLanding s l) g := by
      unfold freeLanding; split
      · exact h
      · exact killed_congr rfl rfl h
    dsimp only
    refine killed_congr rfl rfl (killed_freeClaims _ ?_)
    split
    · exact killed_congr rfl rfl landed
    · exact landed

theorem get?_dropLaunch (s : State) (i : Nat) : FMap.get? (dropLaunch s i).launches i = none := by
  unfold dropLaunch
  split
  · assumption
  · exact get?_filter_none _ _ _ fun _ => by simp

theorem killLaunch_eq (s : State) (i : Nat) :
    killLaunch s i = (dropLaunch (killWgs s 2 (launchWgs s i)).1 i, (killWgs s 2 (launchWgs s i)).2) := rfl

theorem killed_killLaunch {s : State} {g : Nat} {x : Wg} (hx : wg? s g = some x) (hk : x.killed = false) :
    Killed (killLaunch s x.launch).1 g := by
  rw [killLaunch_eq]
  exact killed_dropLaunch _ (killed_killWgs _ _ _ (mem_launchWgs hx hk) hx)

/-- A launch that stands again, with every index (R372). -/
def relaunch (l : Launch) : Launch :=
  { l with
    next := rIlo l.record
    stop := rIlo l.record + rIcnt l.record
    completed := 0
    passed := 0
    retries := (List.range (rIcnt l.record)).foldl (fun m k =>
      FMap.ins m (rIlo l.record + k) (FMap.getD m (rIlo l.record + k) 0 + 1)) l.retries }

theorem killed_restartLaunch {s : State} {g : Nat} {x : Wg} (hx : wg? s g = some x) (hk : x.killed = false) :
    Killed (restartLaunch s x.launch).1 g :=
  killed_congr rfl rfl (killed_freeClaims _ (killed_killWgs s 2 _ (mem_launchWgs hx hk) hx))

theorem restartLaunch_launches (s : State) (i : Nat) :
    (restartLaunch s i).1.launches = (FMap.modify s.launches i relaunch).filter (fun e => e.2.orig != some i) := by
  rw [← (kills_killWgs s 2 (launchWgs s i)).launches]
  rfl

theorem get?_restartLaunch {s : State} {i : Nat} {l : Launch} (hl : FMap.get? s.launches i = some l) (ho : l.orig ≠ some i) :
    FMap.get? (restartLaunch s i).1.launches i = some (relaunch l) := by
  rw [restartLaunch_launches]
  exact get?_filter_some (by rw [get?_modify_same, hl]; rfl) (bne_iff_ne.2 ho)

/-! The actions. -/

/-- R371: kill self at the workgroup, and kill parent at the warp, kill the workgroup. -/
theorem killed_wg_actions {s : State} {h : Where} {x : Wg} (hx : wg? s h.wg = some x) :
    Killed (applyAction s h .warp 3) h.wg ∧ Killed (applyAction s h .wg 2) h.wg :=
  have counted := killed_of_standing (standing_addKills (killWg s 1 h.wg).1 h.part h.ctx (killWg s 1 h.wg).2) (killed_killWg s 1 h.wg hx)
  ⟨counted, counted⟩

/-- R372: the workgroup is killed and stands again. -/
theorem retry_wg {s : State} {h : Where} {v : Level} (hv : v = .warp ∨ v = .wg) {x : Wg} (hx : wg? s h.wg = some x) :
    Killed (applyAction s h v 1) h.wg ∧
      (applyAction s h v 1).launches = FMap.ins (FMap.modify s.launches x.launch (countRetry x.index)) s.nextId (rerun x) := by
  have act : applyAction s h v 1 = addKills (restartWg s h.wg).1 h.part h.ctx (restartWg s h.wg).2 := by
    rcases hv with rfl | rfl <;> rfl
  have same := standing_addKills (restartWg s h.wg).1 h.part h.ctx (restartWg s h.wg).2
  rw [act]
  exact ⟨killed_of_standing same (killed_restartWg hx), (launches_of_standing same).trans (restartWg_launches hx)⟩

/-- R371: the launch of the workgroup is killed. -/
theorem kill_launch {s : State} {h : Where} {v : Level} {a : Nat} (ha : (v = .wg ∧ a = 3) ∨ (v = .launch ∧ a = 2)) :
    FMap.get? (applyAction s h v a).launches (wgLaunch s h.wg) = none ∧
      ∀ g x, wg? s g = some x → x.launch = wgLaunch s h.wg → x.killed = false → Killed (applyAction s h v a) g := by
  have act : applyAction s h v a =
      addKills (killLaunch s (wgLaunch s h.wg)).1 h.part h.ctx (killLaunch s (wgLaunch s h.wg)).2 := by
    rcases ha with ⟨rfl, rfl⟩ | ⟨rfl, rfl⟩ <;> rfl
  have same := standing_addKills (killLaunch s (wgLaunch s h.wg)).1 h.part h.ctx (killLaunch s (wgLaunch s h.wg)).2
  rw [act]
  refine ⟨?_, fun g x hx hl hk => killed_of_standing same (hl ▸ killed_killLaunch hx hk)⟩
  rw [launches_of_standing same]
  exact get?_dropLaunch _ _

/-- R372: the launch of the workgroup is restarted. -/
theorem retry_launch (s : State) (h : Where) :
    (applyAction s h .launch 1).launches = (restartLaunch s (wgLaunch s h.wg)).1.launches ∧
      ∀ g x, wg? s g = some x → x.launch = wgLaunch s h.wg → x.killed = false → Killed (applyAction s h .launch 1) g := by
  have same := standing_addKills (restartLaunch s (wgLaunch s h.wg)).1 h.part h.ctx (restartLaunch s (wgLaunch s h.wg)).2
  exact ⟨launches_of_standing same, fun g x hx hl hk => killed_of_standing same (hl ▸ killed_restartLaunch hx hk)⟩

/-- The contexts that kill parent takes at the partition. -/
def parentCtxs (s : State) (h : Where) : List Nat := h.ctx :: (partCtxs (haltPart s h.part) h.part).filter (· != h.ctx)

theorem mem_parentCtxs {s : State} {h : Where} {c : Nat} (hc : c = h.ctx ∨ c ∈ partCtxs s h.part) : c ∈ parentCtxs s h := by
  rw [parentCtxs, partCtxs_haltPart, List.mem_cons, List.mem_filter, bne_iff_ne]
  tauto

theorem actionsApply : Claim.ActionsApply := by
  refine ⟨fun s h w hw hg run => ?_, fun s h x hx => ?_, fun s h v a ha => kill_launch ha, fun s h => ?_, fun s h v a ha => ?_⟩
  · rw [applyAction_warp_kill run]
    exact warp?_killWarpAt hw hg
  · refine ⟨(killed_wg_actions hx).1, (killed_wg_actions hx).2, fun v hv => ?_⟩
    obtain ⟨gone, launches⟩ := retry_wg hv hx
    refine ⟨gone, fun l hl old => ⟨countRetry x.index l, ?_, rfl⟩,
      s.nextId, rerun x, ?_, rfl, rfl, rfl, rfl, rfl, rSave_unsaved _, rfl, rSeq_unsaved _⟩
    · rw [launches, get?_ins_other _ _ _ _ (Nat.ne_of_lt old), get?_modify_same, hl]; rfl
    · rw [launches, get?_ins_same]
  · obtain ⟨launches, gone⟩ := retry_launch s h
    refine ⟨gone, fun l hl ho => ⟨relaunch l, ?_, rfl, rfl, rfl, rfl, rfl⟩⟩
    rw [launches, get?_restartLaunch hl ho]
  · have here := haltPart_halts s h.part
    have ctx (s' : State) (hs : s'.wgs = s.wgs) (g : Nat) (x : Wg) (hx : wg? s g = some x) (hk : x.killed = false)
        (hc : x.ctx = h.ctx) : Killed (killCtx s' h.part h.ctx) g :=
      hc ▸ killed_killCtx s' h.part (by rwa [wg?, hs]) hk
    rcases ha with ⟨rfl, rfl⟩ | ⟨rfl | rfl, rfl | rfl⟩
    · exact ⟨fun g x hx hk hc => ctx s rfl g x hx hk (by simpa using hc), by simp⟩
    · exact ⟨fun g x hx hk hc => ctx s rfl g x hx hk (by simpa using hc), by simp⟩
    · exact ⟨fun g x hx hk hc => ctx (haltPart s h.part) rfl g x hx hk (by simpa using hc), fun _ => (kills_killCtx _ _ _).halted here⟩
    · exact ⟨fun g x hx hk hc => ctx (haltPart s h.part) rfl g x hx hk (by simpa using hc), fun _ => (kills_killCtx _ _ _).halted here⟩
    · refine ⟨fun g x hx hk hc => ?_, fun _ => (kills_killCtxs h.part (parentCtxs s h) (haltPart s h.part)).halted here⟩
      exact killed_killCtxs h.part (parentCtxs s h) (haltPart s h.part) hx hk (mem_parentCtxs (by simpa using hc))

end Sys2Proof.Machine
end

section
/-! PROOFS. A trap that no handler takes is walked (R361, R362, R369, R373). -/

namespace Sys2Proof.Machine

open Sys2Proof

/-- The trapped lanes of a warp wait no longer. -/
def unwait (a : Mask) (pc : Dword) (w : Warp) : Warp :=
  { w with
    denied := w.denied.filter (fun d => d.pc != pc || d.mask &&& a == 0#32)
    waits := w.waits.filter (fun y => y.mask &&& a == 0#32) }

/-- The state that a walked trap starts from. -/
def unwaited (s : State) (pl : Nat) (a : Mask) (pc : Dword) : State := modWarp { s with cur := none } pl (unwait a pc)

theorem handlerApplies_false {pl : Nat} {w : Warp} (h : w.intrap = true ∨ w.trapvec = 0#64 ∨ w.svclane.isSome = true) :
    handlerApplies pl w = false := by
  unfold handlerApplies
  rcases h with h | h | h
  · simp [h]
  · simp [h]
  · simp [Option.isNone_eq_false_iff.2 h]

/-- R361, R362: outside debug stops a trap that no handler takes is walked. -/
theorem takeTrap_walks {s : State} {pl : Nat} {w : Warp} {t : Trap} (a : Mask) (pc : Dword) (len : Nat) (hw : warp? s pl = some w)
    (lodge : isLodge pl = false) (poison : t.code ≠ 8) (debug : t.code = 0xB → ctlField (part s w.part) 0x500 29 1 = 0)
    (handler : w.intrap = true ∨ w.trapvec = 0#64 ∨ w.svclane.isSome = true) :
    takeTrap s pl a pc len t = contWalk (unwaited s pl a pc) (whereOf pl w) t.cause pc.toNat w.svclane.isSome := by
  have undebugged : ¬ (t.code = 0xB && ctlField (part s w.part) 0x500 29 1 == 1) = true := by
    intro h
    obtain ⟨code, on⟩ := (Bool.and_eq_true _ _).mp h
    simp [debug (of_decide_eq_true code)] at on
  unfold takeTrap
  rw [hw]
  dsimp only
  rw [if_neg poison, if_neg (Bool.eq_false_iff.1 lodge), if_neg (Bool.eq_false_iff.1 (handlerApplies_false handler))]
  exact if_neg undebugged

/-! The walk's cases. -/

theorem contWalk_killed {s : State} {h : Where} (cause epc : Nat) (sup : Bool) (hk : ctxKilled s h.part h.ctx = true) :
    contWalk s h cause epc sup =
      contRecord (stopWarp (blockAccess s h.part (excsumAddr s h.part h.ctx)) h) h cause epc 3 2 false true := if_pos hk

theorem contWalk_supervisor {s : State} {h : Where} (cause epc : Nat) (hk : ctxKilled s h.part h.ctx = false) :
    contWalk s h cause epc true = contRecord (killCtx s h.part h.ctx) h cause epc 3 2 false false :=
  if_neg (Bool.eq_false_iff.1 hk)

/-- What the walk does with its choice. -/
def walkOutcome (s : State) (h : Where) (cause epc : Nat) : Option (Level × Nat × Bool) → State
  | none => contRecord (killCtx s h.part h.ctx) h cause epc 4 0 false false
  | some (v, a, d) =>
    if unitKilled s h.wg v a then contRecord s h cause epc v.code a d true
    else contRecord (applyAction s h v a) h cause epc v.code a d false

theorem contWalk_walks {s : State} {h : Where} {x : Wg} (cause epc : Nat) (hx : wg? s h.wg = some x)
    (hk : ctxKilled s h.part h.ctx = false) :
    contWalk s h cause epc false = walkOutcome s h cause epc (walkChoice s h x.record x.index [.warp, .wg, .launch, .ctx, .part]) := by
  unfold contWalk
  rw [if_neg (Bool.eq_false_iff.1 hk), hx]
  dsimp only
  cases walkChoice s h x.record x.index [.warp, .wg, .launch, .ctx, .part] <;> rfl

/-- The warp that the walk stops is there, and parked. -/
theorem stopWarp_parks {s : State} {h : Where} {w : Warp} (hw : warp? s h.place = some w) (hg : w.wg = h.wg) :
    ∃ w', warp? (stopWarp s h) h.place = some w' ∧ warpParked w' = true := by
  refine ⟨{ w with parks := w.parks ++ [⟨.stopped, w.conv, false⟩] }, ?_, by simp [warpParked]⟩
  simp only [stopWarp, modWarp, warp?, get?_modify_same]
  rw [← warp?, hw, Option.map_some, if_pos hg]

theorem warp?_unwaited {s : State} {pl : Nat} {w : Warp} (a : Mask) (pc : Dword) (hw : warp? s pl = some w) :
    warp? (unwaited s pl a pc) pl = some (unwait a pc w) :=
  (get?_modify_same s.warps pl (unwait a pc)).trans (congrArg (Option.map (unwait a pc)) hw)

theorem walkChoice_congr {s t : State} (hg : t.wgs = s.wgs) (hl : t.launches = s.launches) (hp : t.parts = s.parts) (h : Where) (r : Rec)
    (index : Nat) (l : List Level) : walkChoice t h r index l = walkChoice s h r index l := by
  have parts : part t = part s := by funext p; simp only [part, hp]
  have field (v : Level) : walkField t h.part r v = walkField s h.part r v := by rw [walkField, parts, ← walkField]
  have demotes (v : Level) : walkDemotes t h r index v = walkDemotes s h r index v := by
    simp only [walkDemotes, field, parts, retryCount, wgLaunch, wg?, hg, hl]
  induction l with
  | nil => rfl
  | cons v rest ih => rw [walkChoice_cons, walkChoice_cons, field, demotes, ih]

theorem trapsWalk : Claim.TrapsWalk := by
  intro s pl a pc len t w x hw lodge hx poison debug handler h u ends
  have walk : takeTrap s pl a pc len t = contWalk u h t.cause pc.toNat w.svclane.isSome :=
    takeTrap_walks a pc len hw lodge poison debug handler
  have choice : walkChoice u h x.record x.index [.warp, .wg, .launch, .ctx, .part] =
      walkChoice s h x.record x.index [.warp, .wg, .launch, .ctx, .part] := walkChoice_congr rfl rfl rfl _ _ _ _
  refine ⟨fun hk => ?_, fun hk sup => ?_, fun hk sup => ?_⟩
  · have same := standing_blockAccess u w.part (excsumAddr u w.part w.ctx)
    refine ⟨stopWarp (blockAccess u w.part (excsumAddr u w.part w.ctx)) h, walk.trans (contWalk_killed _ _ _ hk), ?_, ?_, ?_⟩
    · exact congrArg (·.2.1) same
    · exact (launches_of_standing same :)
    · exact stopWarp_parks (h := h) ((warp?_of_standing same pl).trans (warp?_unwaited a pc hw)) rfl
  · rw [sup] at walk
    exact walk.trans (contWalk_supervisor _ _ hk)
  · rw [sup] at walk
    have outcome : takeTrap s pl a pc len t = walkOutcome u h t.cause pc.toNat
        (walkChoice s h x.record x.index [.warp, .wg, .launch, .ctx, .part]) := by
      rw [← choice]
      exact walk.trans (contWalk_walks _ _ hx hk)
    refine ⟨fun hc => ?_, fun v act d hc hu => ?_, fun v act d hc hu => ?_⟩
    · rw [hc] at outcome
      exact outcome
    · rw [hc] at outcome
      exact outcome.trans (if_neg (Bool.eq_false_iff.1 hu))
    · rw [hc] at outcome
      exact outcome.trans (if_pos hu)

/-- Settles O49: the words that wait or trap, then the walk of a trap that no handler takes. -/
theorem wordsWaitOrTrap : Obligations.WordsWaitOrTrap :=
  ⟨wordsWait, sourcesTrap, stateIllegals, walkDecides, trapsWalk, actionsApply, recordsWritten⟩

end Sys2Proof.Machine
end

section
/-! PROOFS. Short floating-point words: arithmetic, packed pairs, conversions and the paired word (R88 to R91, R125 to R146, R149). -/

namespace Sys2Proof.Machine

open Sys2Proof

/-- R68, R129 to R137. A word on sources of its own format is an instance of writesFp3_of; FSCALE and FCLASS read other sources, and
FCMP writes a predicate. -/
theorem floatArithmeticResults : Claim.FloatArithmeticResults := by
  refine ⟨?fadd, ?fsub, ?fmul, ?ffma, ?fmin, ?fmax, ?fminm, ?fmaxm, ?fsgn, ?frnd, ?fscale, ?fclass, ?fcmp⟩
  case fscale => exact writesFp_of (fun _ _ => rfl) (fun _ => rfl) (fun _ _ _ _ _ _ => rfl)
  case fclass => exact writesFp_of (fun _ _ => rfl) (fun _ => rfl) (fun _ _ _ _ _ _ => rfl)
  case fcmp => exact changes_of_consuming (fun _ _ => rfl) (fun _ => rfl) (fun _ _ _ _ _ => rfl)
  all_goals exact writesFp3_of (fun _ _ => rfl) (fun _ => rfl)

/-- R131, R132. -/
theorem packedFloatResults : Claim.PackedFloatResults := by
  refine ⟨?fadd2, ?fmul2, ?ffma2, ?fdot2, ?fdot4⟩
  all_goals exact writesFp_of (fun _ _ => rfl) (fun _ => rfl) (fun _ _ _ _ _ _ => rfl)

/-- R142 to R146, R149. -/
theorem conversionResults : Claim.ConversionResults := by
  refine ⟨?fcvt, ?ftoi, ?itof, ?fcvtsr, ?fgete, ?fgetm, ?rngf⟩
  all_goals exact writesFp_of (fun _ _ => rfl) (fun _ => rfl) (fun _ _ _ _ _ _ => rfl)

/-- R88 to R91: a half reads its sources of the issue, so that neither the release nor the other half's write reaches them. -/
theorem pairedWordResults : Claim.PairedWordResults := fun hi lo _ _ h =>
  runWord_consuming h rfl (fun s i w => halfWrite s i lo true (halfWrite s i hi false w))

/-- Settles O8: every short floating-point word is a word that consumes its sources and changes its warp. -/
theorem floatResults : Obligations.FloatResults :=
  ⟨floatArithmeticResults, packedFloatResults, conversionResults, pairedWordResults⟩

end Sys2Proof.Machine
end

section
/-! PROOFS. The encodings of a format (R52, R53): what the fields of a packed value stand for, and what a kept operand reads as. -/

namespace Sys2Proof

theorem bits_eq_div_mod (x lo n : Nat) : bits x lo n = x / 2 ^ lo % 2 ^ n := by rw [bits, Nat.shiftRight_eq_div_pow]

theorem bits_bits (x lo k n : Nat) (h : lo + k ≤ n) : bits (bits x 0 n) lo k = bits x lo k := by
  refine Nat.eq_of_testBit_eq fun j => ?_
  by_cases hj : j < k
  · simp [bits, Nat.testBit_mod_two_pow, hj, show lo + j < n by omega]
  · simp [bits, Nat.testBit_mod_two_pow, hj]

/-! Fields. -/

/-- What the fields of an encoding stand for (R52, R53). -/
def Fmt.value (f : Fmt) (sign : Bool) (e fr : Nat) : FVal :=
  if e = 2 ^ f.eb - 1 ∧ f.hasInf then
    if fr = 0 then .inf sign else .nan sign (bits fr (f.fb - 1) 1 == 0) fr f.fb
  else if e = 2 ^ f.eb - 1 ∧ f.hasNan ∧ fr = 2 ^ f.fb - 1 then .nan sign false fr f.fb
  else if e = 0 then .fin sign fr (f.emin - f.fb)
  else .fin sign (2 ^ f.fb + fr) ((e : Int) - f.bias - f.fb)

theorem Fmt.unpack_eq_value (f : Fmt) (x : Nat) :
    f.unpack x = f.value (bits x (f.eb + f.fb) 1 == 1) (bits x f.fb f.eb) (bits x 0 f.fb) := rfl

/-- The fields of an encoding put together from its fields. -/
theorem Fmt.unpack_fields (f : Fmt) (s : Bool) (e fr : Nat) (he : e < 2 ^ f.eb) (hfr : fr < 2 ^ f.fb) :
    f.unpack (signBit s * 2 ^ (f.eb + f.fb) + (e * 2 ^ f.fb + fr)) = f.value s e fr := by
  have low : e * 2 ^ f.fb + fr < 2 ^ (f.eb + f.fb) := by
    calc e * 2 ^ f.fb + fr < (e + 1) * 2 ^ f.fb := by rw [Nat.add_one_mul]; omega
      _ ≤ 2 ^ f.eb * 2 ^ f.fb := Nat.mul_le_mul_right _ he
      _ = 2 ^ (f.eb + f.fb) := (pow_add 2 _ _).symm
  have sign : bits (signBit s * 2 ^ (f.eb + f.fb) + (e * 2 ^ f.fb + fr)) (f.eb + f.fb) 1 = signBit s := by
    rw [bits_eq_div_mod, mul_comm, Nat.mul_add_div (Nat.two_pow_pos _), Nat.div_eq_of_lt low]
    cases s <;> rfl
  have exponent : bits (signBit s * 2 ^ (f.eb + f.fb) + (e * 2 ^ f.fb + fr)) f.fb f.eb = e := by
    rw [bits_eq_div_mod, show signBit s * 2 ^ (f.eb + f.fb) + (e * 2 ^ f.fb + fr) = 2 ^ f.fb * (2 ^ f.eb * signBit s + e) + fr by ring,
      Nat.mul_add_div (Nat.two_pow_pos _), Nat.div_eq_of_lt hfr, add_zero, Nat.mul_add_mod, Nat.mod_eq_of_lt he]
  have fraction : bits (signBit s * 2 ^ (f.eb + f.fb) + (e * 2 ^ f.fb + fr)) 0 f.fb = fr := by
    rw [bits_eq_div_mod, show signBit s * 2 ^ (f.eb + f.fb) + (e * 2 ^ f.fb + fr) = 2 ^ f.fb * (2 ^ f.eb * signBit s + e) + fr by ring,
      pow_zero, Nat.div_one, Nat.mul_add_mod, Nat.mod_eq_of_lt hfr]
  rw [unpack_eq_value, sign, exponent, fraction]
  cases s <;> rfl

/-- A number below the greatest exponent. -/
theorem Fmt.value_of_exponent (f : Fmt) (s : Bool) (e fr : Nat) (he : e ≠ 2 ^ f.eb - 1) :
    f.value s e fr = if e = 0 then .fin s fr (f.emin - f.fb) else .fin s (2 ^ f.fb + fr) ((e : Int) - f.bias - f.fb) := by
  simp [value, he]

/-! The formats of R53. -/

theorem FType.bits_eq (t : FType) : t.bits = t.fmt.eb + t.fmt.fb + 1 := by cases t <;> rfl

theorem FType.one_lt_two_pow_eb (t : FType) : 1 < 2 ^ t.fmt.eb := by cases t <;> decide

@[simp] theorem unpack_packZero (t : FType) (s : Bool) : t.fmt.unpack (t.fmt.packZero s) = .fin s 0 (t.fmt.emin - t.fmt.fb) := by
  have heb := t.one_lt_two_pow_eb
  have fields := t.fmt.unpack_fields s 0 0 (by omega) (Nat.two_pow_pos _)
  rw [t.fmt.value_of_exponent _ _ _ (by omega), if_pos rfl] at fields
  simpa [Fmt.packZero] using fields

theorem unpack_packInf (t : FType) (s : Bool) (h : t.fmt.hasInf = true) : t.fmt.unpack (t.fmt.packInf s) = .inf s := by
  have heb := t.one_lt_two_pow_eb
  have fields := t.fmt.unpack_fields s (2 ^ t.fmt.eb - 1) 0 (by omega) (Nat.two_pow_pos _)
  rw [Fmt.value, if_pos ⟨rfl, h⟩, if_pos rfl] at fields
  simpa [Fmt.packInf] using fields

/-- The value depends on the bits of the register's format alone (R54). -/
theorem unpack_bits (t : FType) (x : Nat) : t.fmt.unpack (bits x 0 t.bits) = t.fmt.unpack x := by
  rw [Fmt.unpack_eq_value, Fmt.unpack_eq_value, t.bits_eq, bits_bits _ _ _ _ (by omega), bits_bits _ _ _ _ (by omega),
    bits_bits _ _ _ _ (by omega)]

/-! Reading. -/

/-- The operand is a subnormal that FTZ reads as zero (R63). -/
def FType.flushes (t : FType) (ftz : Bool) (x : Nat) : Bool := ftz && t.fmt.flushed && t.fmt.isSubnormal (t.fmt.unpack x)

theorem FType.read_eq (t : FType) (ftz : Bool) (x : Nat) :
    t.fmt.read ftz x = if t.flushes ftz x then .fin (t.fmt.unpack x).sign 0 0 else t.fmt.unpack x := rfl

theorem fpKeep_eq (t : FType) (ftz : Bool) (x : Nat) :
    fpKeep t ftz x = if t.flushes ftz x then t.fmt.packZero (t.fmt.unpack x).sign else bits x 0 t.bits := rfl

theorem read_packZero (t : FType) (ftz s : Bool) : t.fmt.read ftz (t.fmt.packZero s) = .fin s 0 (t.fmt.emin - t.fmt.fb) := by
  simp [FType.read_eq, FType.flushes, Fmt.isSubnormal]

/-- A kept operand reads as the operand does, but for the exponent of a zero it was flushed to (R129). -/
theorem read_fpKeep (t : FType) (ftz : Bool) (x : Nat) :
    t.fmt.read ftz (fpKeep t ftz x) =
      if t.flushes ftz x then .fin (t.fmt.read ftz x).sign 0 (t.fmt.emin - t.fmt.fb) else t.fmt.read ftz x := by
  rw [fpKeep_eq, t.read_eq ftz x]
  split
  · exact read_packZero t ftz _
  · next kept =>
    have same : t.flushes ftz (bits x 0 t.bits) = t.flushes ftz x := by simp only [FType.flushes, unpack_bits]
    rw [FType.read_eq, same, if_neg kept, unpack_bits]

theorem read_fpKeep_same (t : FType) (ftz : Bool) (x : Nat) :
    let v := t.fmt.read ftz (fpKeep t ftz x)
    let u := t.fmt.read ftz x
    v.sign = u.sign ∧ Machine.ratOf v = Machine.ratOf u ∧ v.isNan = u.isNan ∧ v.isInf = u.isInf := by
  intro v u
  by_cases h : t.flushes ftz x = true
  · have flushed : u = .fin (t.fmt.unpack x).sign 0 0 := by simp only [u, FType.read_eq, if_pos h]
    have kept : v = .fin u.sign 0 (t.fmt.emin - t.fmt.fb) := by simp only [u, v, read_fpKeep, if_pos h]
    rw [kept, flushed]
    simp [FVal.sign, FVal.isNan, FVal.isInf, Machine.ratOf]
  · have kept : v = u := by simp only [u, v, read_fpKeep, if_neg h]
    rw [kept]
    exact ⟨rfl, rfl, rfl, rfl⟩

end Sys2Proof
end

section
/-! PROOFS. Lanes combined in a fixed order (R72, R197 to R199): the tree and the scan as the model runs them, and what a tree or a
fold of an operation says of the lanes under it. -/

namespace Sys2Proof.Machine

open Sys2Proof

/-! The model's tree and fold are those of R72 and R199. -/

/-- Two nodes of a level side by side, as treeLevel joins them. -/
theorem treeLevel_cons_cons (op : Nat → Nat → Nat × Flags) (a b : Option (Nat × Flags)) (t : List (Option (Nat × Flags))) :
    treeLevel op (a :: b :: t) = (match a, b with
      | some a, some b => some ((op a.1 b.1).1, a.2 ||| b.2 ||| (op a.1 b.1).2)
      | some a, none => some a
      | none, b => b) :: treeLevel op t := by
  cases a <;> cases b <;> rfl

/-- One level of the model's tree holds the nodes of the next level. -/
theorem treeLevel_nodes (op : Nat → Nat → Nat × Flags) (leaf : Nat → Option (Nat × Flags)) (j n k : Nat) :
    treeLevel op ((List.range' (2 * k) (2 * n)).map (treeNode op leaf j)) = (List.range' k n).map (treeNode op leaf (j + 1)) := by
  induction n generalizing k with
  | zero => rfl
  | succ n ih =>
    rw [show 2 * (n + 1) = 2 * n + 1 + 1 by ring, List.range'_succ, List.range'_succ, List.range'_succ, List.map_cons, List.map_cons,
      List.map_cons, treeLevel_cons_cons, show 2 * k + 1 + 1 = 2 * (k + 1) by ring, ih]
    rfl

theorem treeReduce_eq_treeNode (op : Nat → Nat → Nat × Flags) (leaf : Nat → Option (Nat × Flags)) :
    treeReduce op ((List.range 32).map leaf) = treeNode op leaf 5 0 := by
  have level (j n : Nat) := treeLevel_nodes op leaf j n 0
  have leaves : (List.range 32).map leaf = (List.range' (2 * 0) (2 * 16)).map (treeNode op leaf 0) := by
    rw [List.range_eq_range']; rfl
  rw [treeReduce, leaves, level 0 16, level 1 8, level 2 4, level 3 2, level 4 1]
  rfl

/-! The present lanes by number. -/

/-- The lane of a number, where the mask holds it. -/
def laneAt (p : Mask) (k : Nat) : Option Lane := if h : k < 32 then (if p.has ⟨k, h⟩ then some ⟨k, h⟩ else none) else none

theorem laneAt_val (p : Mask) (l : Lane) : laneAt p l.val = if p.has l then some l else none := by simp [laneAt]

/-- Lanes chosen by number, in order, are lanes of the mask. -/
theorem filterMap_laneAt (p : Mask) (c : Nat → Bool) :
    ((List.range 32).filter c).filterMap (laneAt p) = (Mask.lanes p).filter (fun l => c l.val) := by
  have numbers : List.range 32 = (List.finRange 32).map Fin.val := by decide
  rw [numbers, List.filter_map, List.filterMap_map, Mask.lanes, allLanes, List.filter_filter,
    ← List.filterMap_eq_filter, ← List.filterMap_eq_filter, List.filterMap_filterMap]
  refine List.filterMap_congr fun l _ => ?_
  simp only [Function.comp_apply, laneAt_val, Option.guard]
  by_cases hp : p.has l <;> by_cases hc : c l.val <;> simp [hp, hc]

theorem range_eq_filter (n : Nat) (h : n ≤ 32) : List.range n = (List.range 32).filter (fun k => decide (k < n)) := by
  obtain ⟨d, hd⟩ := Nat.exists_eq_add_of_le h
  rw [hd, List.range_add, List.filter_append, List.filter_eq_self.2 (by simp), List.filter_eq_nil_iff.2 (by simp), List.append_nil]

/-- The present lanes below a number. -/
theorem filterMap_range (p : Mask) (n : Nat) (h : n ≤ 32) :
    (List.range n).filterMap (laneAt p) = (Mask.lanes p).filter (fun l => decide (l.val < n)) := by
  rw [range_eq_filter n h, filterMap_laneAt]

/-! What a tree or a fold says of its lanes. -/

/-- Combining what holds of two stretches of lanes gives what holds of both, and it holds of one lane's value. -/
structure Combines (op : Nat → Nat → Nat × Flags) (v : Lane → Nat) (P : List Lane → Nat → Prop) : Prop where
  one : ∀ l, P [l] (v l)
  both : ∀ ls ms a b, ls ≠ [] → ms ≠ [] → P ls a → P ms b → P (ls ++ ms) (op a b).1

/-- A result of combining lanes: none over no lane, else one of which P holds. -/
def Combined (P : List Lane → Nat → Prop) (ls : List Lane) : Option (Nat × Flags) → Prop
  | none => ls = []
  | some r => ls ≠ [] ∧ P ls r.1

theorem Combined.getD {P : List Lane → Nat → Prop} {ls : List Lane} {r : Option (Nat × Flags)} (h : Combined P ls r)
    {d : Nat × Flags} (hd : ls = [] → P [] d.1) : P ls (r.getD d).1 := by
  cases r with
  | none => obtain rfl : ls = [] := h; exact hd rfl
  | some r => exact h.2

section
variable {op : Nat → Nat → Nat × Flags} {v : Lane → Nat} {P : List Lane → Nat → Prop}

/-- R72: a node of the tree speaks of the present lanes under it. -/
theorem Combines.treeNode (h : Combines op v P) (p : Mask) (j i : Nat) :
    Combined P ((List.range' (i * 2 ^ j) (2 ^ j)).filterMap (laneAt p))
      (treeNode op (fun k => ((laneAt p k).map v).map (fun x => (x, 0))) j i) := by
  induction j generalizing i with
  | zero =>
    cases hl : laneAt p i with
    | none => simp [Machine.treeNode, Combined, hl]
    | some l => simpa [Machine.treeNode, Combined, hl] using h.one l
  | succ j ih =>
    have halves : List.range' (i * 2 ^ (j + 1)) (2 ^ (j + 1)) =
        List.range' (2 * i * 2 ^ j) (2 ^ j) ++ List.range' ((2 * i + 1) * 2 ^ j) (2 ^ j) := by
      rw [show (2 * i + 1) * 2 ^ j = 2 * i * 2 ^ j + 2 ^ j by ring, List.range'_append_1]
      congr 1 <;> ring
    have left := ih (2 * i)
    have right := ih (2 * i + 1)
    rw [halves, List.filterMap_append, Machine.treeNode]
    generalize Machine.treeNode op _ j (2 * i) = x at left ⊢
    generalize Machine.treeNode op _ j (2 * i + 1) = y at right ⊢
    cases x with
    | none =>
      rw [show List.filterMap (laneAt p) _ = [] from left, List.nil_append]
      exact right
    | some a =>
      cases y with
      | none =>
        rw [show List.filterMap (laneAt p) (List.range' ((2 * i + 1) * 2 ^ j) _) = [] from right, List.append_nil]
        exact left
      | some b => exact ⟨by simp [left.1], h.both _ _ _ _ left.1 right.1 left.2 right.2⟩

/-- R199: a fold speaks of the present lanes that it has passed. -/
theorem Combines.laneFold (h : Combines op v P) (p : Mask) (n : Nat) :
    Combined P ((List.range n).filterMap (laneAt p)) (laneFold op (fun k => (laneAt p k).map v) n) := by
  induction n with
  | zero => rfl
  | succ n ih =>
    rw [List.range_succ, List.filterMap_append, Machine.laneFold]
    generalize Machine.laneFold op _ n = x at ih ⊢
    cases hl : laneAt p n with
    | none => cases x <;> simpa [hl] using ih
    | some l =>
      cases x with
      | none =>
        rw [show List.filterMap (laneAt p) (List.range n) = [] from ih]
        simpa [Combined, hl] using h.one l
      | some a => simpa [Combined, hl] using h.both _ [l] _ _ ih.1 (by simp) ih.2 (h.one l)

end

/-! REDX and SCANX (R197 to R199). -/

/-- The values of the present lanes, by number. -/
theorem combineArg_laneAt (s : State) (i : Iss) (f : WordF) (k : Nat) :
    (if h : k < 32 then (if (presentSet s i f.c).has ⟨k, h⟩ then some (combineArg s i f ⟨k, h⟩) else none) else none) =
      (laneAt (presentSet s i f.c) k).map (combineArg s i f) := by
  unfold laneAt; split
  · split <;> rfl
  · rfl

/-- R72, R198. -/
theorem redxValue_eq_treeNode (s : State) (i : Iss) (f : WordF) :
    redxValue s i f = (treeNode (combine i f) (fun k => ((laneAt (presentSet s i f.c) k).map (combineArg s i f)).map (fun x => (x, 0)))
      5 0).getD (identityOf f, 0) := by
  have numbers : List.range 32 = allLanes.map Fin.val := by decide
  have leaves (l : Lane) : (if (presentSet s i f.c).has l then some (combineArg s i f l, (0 : Flags)) else none) =
      ((laneAt (presentSet s i f.c) l.val).map (combineArg s i f)).map (fun x => (x, 0)) := by
    rw [laneAt_val]; split <;> rfl
  rw [← treeReduce_eq_treeNode, numbers, List.map_map, redxValue]
  simp only [leaves]
  rfl

/-- One step of a scan (R199). -/
def scanStep (op : Nat → Nat → Nat × Flags) (v : Lane → Nat) (acc : Option (Nat × Flags)) (l : Lane) : Option (Nat × Flags) :=
  match acc with
  | none => some (v l, 0)
  | some a => some ((op a.1 (v l)).1, a.2 ||| (op a.1 (v l)).2)

theorem foldl_scanStep (op : Nat → Nat → Nat × Flags) (v : Lane → Nat) (p : Mask) (n : Nat) :
    ((List.range n).filterMap (laneAt p)).foldl (scanStep op v) none = laneFold op (fun k => (laneAt p k).map v) n := by
  induction n with
  | zero => rfl
  | succ n ih =>
    rw [List.range_succ, List.filterMap_append, List.foldl_append, ih, laneFold]
    cases hl : laneAt p n with
    | none => cases laneFold op (fun k => (laneAt p k).map v) n <;> simp [hl]
    | some l => cases laneFold op (fun k => (laneAt p k).map v) n <;> simp [hl, scanStep]

/-- How many lanes, by number, a lane of a scan looks at. -/
def scanEnd (f : WordF) (l : Lane) : Nat := if (extVal f.b).testBit 5 then l.val else l.val + 1

theorem scanEnd_le (f : WordF) (l : Lane) : scanEnd f l ≤ 32 := by unfold scanEnd; split <;> omega

/-- The lanes that a lane of a scan combines: those before it, and itself in an inclusive scan. -/
theorem scan_lanes (f : WordF) (p : Mask) (l : Lane) :
    (Mask.lanes p).filter (fun j => if (extVal f.b).testBit 5 then decide (j < l) else decide (j ≤ l)) =
      (List.range (scanEnd f l)).filterMap (laneAt p) := by
  rw [filterMap_range p _ (scanEnd_le f l)]
  refine List.filter_congr fun j _ => ?_
  unfold scanEnd
  split
  · rfl
  · exact decide_eq_decide.2 (Nat.lt_succ_iff.symm)

/-- R199. -/
theorem scanLane_eq_laneFold (s : State) (i : Iss) (f : WordF) (l : Lane) :
    scanLane s i f l = (laneFold (combine i f) (fun k => (laneAt (presentSet s i f.c) k).map (combineArg s i f))
      (scanEnd f l)).getD (identityOf f, 0) := by
  have lanes := scan_lanes f (presentSet s i f.c) l
  rw [Mask.lanes, List.filter_filter] at lanes
  rw [← foldl_scanStep, ← lanes]
  simp only [scanLane, Bool.and_comm]
  congr 2
  funext acc j
  cases acc <;> rfl

/-- R72, R197 to R199. -/
theorem treesAndFolds : Claim.TreesAndFolds := by
  intro s i f p arg
  have args : arg = fun k => (laneAt p k).map (combineArg s i f) := funext (combineArg_laneAt s i f)
  rw [args]
  refine ⟨redxValue_eq_treeNode s i f, scanLane_eq_laneFold s i f, fun h => ?sum, fun h => ?minmax, fun h l => ?read⟩
  case sum =>
    refine ⟨fun a b => by simp [combine, h], ?_⟩
    simp [identityOf, h]
  case minmax =>
    refine ⟨fun a b => ?_, fun inf => ?_⟩
    · simp only [combine, h, minMaxOf]
      have code : extVal f.b / 8 % 4 < 4 := Nat.mod_lt _ (by decide)
      generalize extVal f.b / 8 % 4 = n at code ⊢
      interval_cases n <;> rfl
    · simp [identityOf, h, unpack_packInf _ _ inf]
  case read =>
    simp only [combineArg, Nat.not_lt.2 h, if_false]
    exact read_fpKeep_same _ _ _

end Sys2Proof.Machine
end

section
/-! PROOFS. The integer reductions and scans, by what they say of the present lanes (R197 to R199). -/

namespace Sys2Proof

/-! Values of an integer type (R50, R51). -/

theorem IType.val_mem (t : IType) (x : Nat) : t.lo ≤ t.val x ∧ t.val x ≤ t.hi := by
  cases t <;> simp [lo, hi, val, toSigned, signed, IType.bits] <;> omega

theorem IType.val_enc (t : IType) (x : Int) (h : t.lo ≤ x ∧ x ≤ t.hi) : t.val (t.enc x) = x := by
  revert h
  cases t <;> simp [lo, hi, val, enc, toSigned, ofInt, signed, IType.bits] <;> omega

theorem IType.lo_le_hi (t : IType) : t.lo ≤ t.hi := (t.val_mem 0).1.trans (t.val_mem 0).2

end Sys2Proof

namespace Sys2Proof.Machine

open Sys2Proof

/-- R198: what an operation's combinations give holds of the present lanes. -/
theorem redxValue_combines {s : State} {i : Iss} {f : WordF} {P : List Lane → Nat → Prop}
    (h : Combines (combine i f) (combineArg s i f) P) (none : P [] (identityOf f)) :
    P (Mask.lanes (presentSet s i f.c)) (redxValue s i f).1 := by
  have tree := h.treeNode (presentSet s i f.c) 5 0
  have all : (List.range' (0 * 2 ^ 5) (2 ^ 5)).filterMap (laneAt (presentSet s i f.c)) = Mask.lanes (presentSet s i f.c) := by
    rw [show List.range' (0 * 2 ^ 5) (2 ^ 5) = List.range 32 from List.range_eq_range'.symm, filterMap_range _ _ le_rfl]
    exact List.filter_eq_self.2 fun l _ => decide_eq_true l.isLt
  rw [all] at tree
  rw [redxValue_eq_treeNode]
  exact tree.getD fun _ => none

/-- R199: the same of a scan's lanes. -/
theorem scanLane_combines {s : State} {i : Iss} {f : WordF} {P : List Lane → Nat → Prop}
    (h : Combines (combine i f) (combineArg s i f) P) (none : P [] (identityOf f)) (l : Lane) :
    P ((Mask.lanes (presentSet s i f.c)).filter (fun j => if (extVal f.b).testBit 5 then decide (j < l) else decide (j ≤ l)))
      (scanLane s i f l).1 := by
  rw [scan_lanes, scanLane_eq_laneFold]
  exact (h.laneFold _ _).getD fun _ => none

/-! What each operation's result is. -/

/-- r is the sum of the lanes' values modulo 2^n. -/
def IsSum (n : Nat) (v : Lane → Nat) (ls : List Lane) (r : Nat) : Prop := r = (ls.map v).sum % 2 ^ n

/-- Each of the n bits of r is that of every lane. -/
def IsAnd (n : Nat) (v : Lane → Nat) (ls : List Lane) (r : Nat) : Prop :=
  ∀ j, j < n → (r.testBit j = true ↔ ∀ l ∈ ls, (v l).testBit j = true)

/-- Each bit of r is that of some lane. -/
def IsOr (v : Lane → Nat) (ls : List Lane) (r : Nat) : Prop := ∀ j, (r.testBit j = true ↔ ∃ l ∈ ls, (v l).testBit j = true)

/-- Each bit of r is set where an odd number of lanes has it. -/
def IsXor (v : Lane → Nat) (ls : List Lane) (r : Nat) : Prop :=
  ∀ j, r.testBit j = decide ((ls.filter (fun l => (v l).testBit j)).length % 2 = 1)

/-- r stands for the first of the lanes' values in an order, or for d where there is no lane. -/
def IsFirst (t : IType) (le : Int → Int → Prop) (d : Int) (v : Lane → Nat) (ls : List Lane) (r : Nat) : Prop :=
  (ls = [] → t.val r = d) ∧ (ls ≠ [] → (∃ l ∈ ls, t.val r = t.val (v l)) ∧ ∀ l ∈ ls, le (t.val r) (t.val (v l)))

section
variable {op : Nat → Nat → Nat × Flags} {v : Lane → Nat}

theorem combines_isSum {n : Nat} (hop : ∀ a b, (op a b).1 = (a + b) % 2 ^ n) (hv : ∀ l, v l < 2 ^ n) : Combines op v (IsSum n v) where
  one l := by simp [IsSum, Nat.mod_eq_of_lt (hv l)]
  both ls ms a b _ _ ha hb := by
    rw [IsSum] at ha hb ⊢
    rw [hop, ha, hb, List.map_append, List.sum_append, ← Nat.add_mod]

theorem combines_isAnd {n : Nat} (hop : ∀ a b, (op a b).1 = a &&& b) : Combines op v (IsAnd n v) where
  one l j _ := by simp
  both ls ms a b _ _ ha hb j hj := by
    rw [hop, Nat.testBit_and, Bool.and_eq_true, ha j hj, hb j hj, List.forall_mem_append]

theorem combines_isOr (hop : ∀ a b, (op a b).1 = a ||| b) : Combines op v (IsOr v) where
  one l j := by simp
  both ls ms a b _ _ ha hb j := by
    rw [hop, Nat.testBit_or, Bool.or_eq_true, ha j, hb j]
    simp [or_and_right, exists_or]

theorem combines_isXor (hop : ∀ a b, (op a b).1 = a ^^^ b) : Combines op v (IsXor v) where
  one l j := by cases h : (v l).testBit j <;> simp [h]
  both ls ms a b _ _ ha hb j := by
    rw [hop, Nat.testBit_xor, ha j, hb j, List.filter_append, List.length_append]
    have odd (m n : Nat) : (decide (m % 2 = 1) ^^ decide (n % 2 = 1)) = decide ((m + n) % 2 = 1) := by
      rcases Nat.mod_two_eq_zero_or_one m with hm | hm <;> rcases Nat.mod_two_eq_zero_or_one n with hn | hn <;>
        simp [Nat.add_mod, hm, hn]
    exact odd _ _

/-- An operation that delivers one of its operands, and one that comes before both in a transitive order. -/
theorem combines_isFirst {t : IType} {le : Int → Int → Prop} [Std.Refl le] [IsTrans Int le] {d : Int} {pick : Int → Int → Int}
    (hop : ∀ a b, t.val (op a b).1 = pick (t.val a) (t.val b)) (one : ∀ a b, pick a b = a ∨ pick a b = b)
    (left : ∀ a b, le (pick a b) a) (right : ∀ a b, le (pick a b) b) : Combines op v (IsFirst t le d v) where
  one l := ⟨by simp, fun _ => ⟨⟨l, by simp, rfl⟩, by simpa using refl_of le _⟩⟩
  both ls ms a b hls hms ha hb := by
    obtain ⟨⟨l, hl, hal⟩, least⟩ := ha.2 hls
    obtain ⟨⟨m, hm, hbm⟩, least'⟩ := hb.2 hms
    refine ⟨by simp [hls], fun _ => ⟨?_, List.forall_mem_append.2 ⟨fun k hk => ?_, fun k hk => ?_⟩⟩⟩
    · rcases one (t.val a) (t.val b) with h | h
      · exact ⟨l, List.mem_append_left _ hl, by rw [hop, h, hal]⟩
      · exact ⟨m, List.mem_append_right _ hm, by rw [hop, h, hbm]⟩
    · rw [hop]; exact trans_of le (left _ _) (least k hk)
    · rw [hop]; exact trans_of le (right _ _) (least' k hk)

end

/-! The statements. -/

theorem combine_int (i : Iss) (f : WordF) (h : f.sub.toNat < 6) (a b : Nat) :
    (combine i f a b).1 = intCombine (tyInt f) f.sub.toNat a b := by simp [combine, h]

theorem combineArg_int (s : State) (i : Iss) (f : WordF) (h : f.sub.toNat < 6) :
    combineArg s i f = srcVal s i (.int (tyInt f).bits) f.a := by funext l; simp [combineArg, h]

theorem identityOf_int (f : WordF) (h : f.sub.toNat < 6) : identityOf f = intIdentity (tyInt f) f.sub.toNat := by simp [identityOf, h]

theorem combines_sum (s : State) (i : Iss) (f : WordF) (h : f.sub = 0)
    (hv : ∀ l, srcVal s i (.int (tyInt f).bits) f.a l < 2 ^ (tyInt f).bits) :
    Combines (combine i f) (combineArg s i f) (IsSum (tyInt f).bits (srcVal s i (.int (tyInt f).bits) f.a)) ∧
      IsSum (tyInt f).bits (srcVal s i (.int (tyInt f).bits) f.a) [] (identityOf f) := by
  have small : f.sub.toNat < 6 := by simp [h]
  rw [combineArg_int s i f small, identityOf_int f small]
  exact ⟨combines_isSum (fun a b => by rw [combine_int i f small, h]; rfl) hv, by simp [h, IsSum, intIdentity]⟩

/-- R197, R198. -/
theorem reductionsOverPresentLanes : Claim.ReductionsOverPresentLanes := by
  intro s i f ls v hv
  refine ⟨fun h => ?sum, fun h => ?and, fun h => ?or, fun h => ?xor, fun h => ?min, fun h => ?max⟩
  case sum =>
    obtain ⟨sums, none⟩ := combines_sum s i f h hv
    exact redxValue_combines sums none
  all_goals
    have small : f.sub.toNat < 6 := by simp [h]
    have args := combineArg_int s i f small
    have step := combine_int i f small
    have identity := identityOf_int f small
    simp only [h] at step identity
  case and =>
    refine redxValue_combines (P := IsAnd (tyInt f).bits v) (args ▸ combines_isAnd step) fun j hj => ?_
    simp [identity, intIdentity, hj]
  case or =>
    refine redxValue_combines (P := IsOr v) (args ▸ combines_isOr step) fun j => ?_
    simp [identity, intIdentity]
  case xor =>
    refine redxValue_combines (P := IsXor v) (args ▸ combines_isXor step) fun j => ?_
    simp [identity, intIdentity]
  case min =>
    have value (a b : Nat) : (tyInt f).val (combine i f a b).1 = min ((tyInt f).val a) ((tyInt f).val b) := by
      have := (tyInt f).val_mem a; have := (tyInt f).val_mem b
      rw [step]; exact (tyInt f).val_enc _ (by omega)
    refine redxValue_combines (P := IsFirst (tyInt f) (· ≤ ·) (tyInt f).hi v)
      (args ▸ combines_isFirst value min_choice min_le_left min_le_right) ⟨fun _ => ?_, by simp⟩
    rw [identity]; exact (tyInt f).val_enc _ ⟨(tyInt f).lo_le_hi, le_rfl⟩
  case max =>
    have value (a b : Nat) : (tyInt f).val (combine i f a b).1 = max ((tyInt f).val a) ((tyInt f).val b) := by
      have := (tyInt f).val_mem a; have := (tyInt f).val_mem b
      rw [step]; exact (tyInt f).val_enc _ (by omega)
    refine redxValue_combines (P := IsFirst (tyInt f) (· ≥ ·) (tyInt f).lo v)
      (args ▸ combines_isFirst value max_choice le_max_left le_max_right) ⟨fun _ => ?_, by simp⟩
    rw [identity]; exact (tyInt f).val_enc _ ⟨le_rfl, (tyInt f).lo_le_hi⟩

/-- R199. -/
theorem scanIsPrefixSum : Claim.ScanIsPrefixSum := by
  intro s i f l h v hv
  obtain ⟨sums, none⟩ := combines_sum s i f h hv
  exact scanLane_combines sums none l

/-- Settles O18: what a combination keeps of its two operands' lanes holds at every node of the tree and in every prefix. -/
theorem laneReductions : Obligations.LaneReductions := ⟨reductionsOverPresentLanes, scanIsPrefixSum, treesAndFolds⟩

end Sys2Proof.Machine
end

section
/-! PROOFS. FMIN and FMAX pick one of their operands, or deliver a quieted NaN (R65, R68). -/

namespace Sys2Proof

/-- FMIN and FMINM deliver the lesser operand. -/
def MinMax.low (k : MinMax) : Bool := k == .min || k == .minm

/-- FMIN and FMAX deliver the number of a number and a NaN. -/
def MinMax.number (k : MinMax) : Bool := k == .min || k == .max

end Sys2Proof

namespace Sys2Proof.Machine

open Sys2Proof

/-! NaNs. -/

/-- An encoding of a NaN: its format has NaNs, and the fraction is the format's. -/
theorem nan_of_unpack {f : Fmt} {x : Nat} {s g : Bool} {fr n : Nat} (h : f.unpack x = .nan s g fr n) :
    n = f.fb ∧ fr < 2 ^ f.fb ∧ (f.hasInf = true ∨ f.hasNan = true) := by
  have small : bits x 0 f.fb < 2 ^ f.fb := Nat.mod_lt _ (Nat.two_pow_pos _)
  rw [Fmt.unpack_eq_value, Fmt.value] at h
  split at h
  · next inf =>
    split at h
    · cases h
    · cases h; exact ⟨rfl, small, .inl inf.2⟩
  · split at h
    · next nan => cases h; exact ⟨rfl, small, .inr nan.2.1⟩
    · split at h <;> cases h

theorem read_of_isNan {t : FType} {ftz : Bool} {x : Nat} (h : (t.fmt.read ftz x).isNan = true) :
    t.fmt.read ftz x = t.fmt.unpack x := by
  rw [FType.read_eq] at h ⊢
  split
  · next flushed => rw [if_pos flushed] at h; cases h
  · rfl

theorem isSignal_of_number {v : FVal} (h : v.isNan = false) : v.isSignal = false := by
  cases v with
  | nan => cases h
  | inf => rfl
  | fin => rfl

theorem unpack_packNan (t : FType) (s : Bool) (fr : Nat) (hfr : fr < 2 ^ t.fmt.fb) :
    t.fmt.unpack (t.fmt.packNan s fr) = t.fmt.value s (2 ^ t.fmt.eb - 1) fr := by
  have heb := t.one_lt_two_pow_eb
  rw [Fmt.packNan, add_assoc, Fmt.unpack_fields _ _ _ _ (by omega) hfr]

/-- A fraction of n + 1 bits with its quiet bit set. -/
theorem quiet_fraction (n fr : Nat) (h : fr < 2 ^ (n + 1)) :
    let q := if bits fr n 1 = 1 then fr else fr + 2 ^ n
    q < 2 ^ (n + 1) ∧ q ≠ 0 ∧ bits q n 1 = 1 := by
  have pos := Nat.two_pow_pos n
  rw [pow_succ] at h ⊢
  simp only [bits_eq_div_mod, pow_one]
  by_cases hq : fr < 2 ^ n
  · have one : (fr + 2 ^ n) / 2 ^ n = 1 := by rw [Nat.add_div_right _ pos, Nat.div_eq_of_lt hq]
    simp only [Nat.div_eq_of_lt hq, Nat.zero_mod, zero_ne_one, if_false, one, and_true]
    omega
  · have one : fr / 2 ^ n = 1 := Nat.div_eq_of_lt_le (by omega) (by omega)
    simp only [one, Nat.one_mod, if_true, and_true]
    omega

/-- A NaN moved into a format that has NaNs is quiet and keeps its sign (R65, R66). -/
theorem unpack_convNan (t : FType) (s : Bool) (fr : Nat) (hfr : fr < 2 ^ t.fmt.fb) (has : t.fmt.hasInf = true ∨ t.fmt.hasNan = true) :
    ∃ fr', t.fmt.unpack (t.fmt.convNan s fr t.fmt.fb) = .nan s false fr' t.fmt.fb := by
  have kinds : (t.fmt.ieeeNan = true ∧ t.fmt.hasInf = true ∧ ∃ n, t.fmt.fb = n + 1) ∨
      (t.fmt.ieeeNan = false ∧ t.fmt.hasInf = false ∧ (t.fmt.hasNan = true ∨ t.fmt.hasNan = false)) := by
    cases t <;> simp [FType.fmt]
  rcases kinds with ⟨ieee, inf, n, hn⟩ | ⟨ieee, inf, nan⟩
  · obtain ⟨small, nonzero, quiet⟩ := quiet_fraction n fr (hn ▸ hfr)
    rw [Fmt.convNan, if_pos ieee, if_pos le_rfl, Nat.sub_self, pow_zero, mul_one, hn, Nat.add_sub_cancel,
      unpack_packNan _ _ _ (by rwa [hn]), Fmt.value, if_pos ⟨rfl, inf⟩, if_neg nonzero, hn, Nat.add_sub_cancel, quiet]
    exact ⟨_, rfl⟩
  · have nan : t.fmt.hasNan = true := by simpa [inf] using has
    rw [Fmt.convNan, if_neg (by simp [ieee]), unpack_packNan _ _ _ (by have := Nat.two_pow_pos t.fmt.fb; omega), Fmt.value,
      if_neg (by simp [inf]), if_pos ⟨rfl, nan, rfl⟩]
    exact ⟨_, rfl⟩

/-- The NaN that an operation on two operands delivers is the first of theirs, quieted (R65). -/
theorem unpack_deliverNan (t : FType) (ftz : Bool) (a b : Nat) (h : (t.fmt.read ftz a).isNan = true ∨ (t.fmt.read ftz b).isNan = true) :
    let x := t.fmt.read ftz a
    let y := t.fmt.read ftz b
    ∃ fr, t.fmt.unpack (t.fmt.deliverNan [x, y]) = .nan (if x.isNan then x.sign else y.sign) false fr t.fmt.fb := by
  intro x y
  have quieted (c : Nat) (hc : (t.fmt.read ftz c).isNan = true) (v : FVal) (hv : [x, y].find? FVal.isNan = some v)
      (hx : v = t.fmt.read ftz c) : ∃ fr, t.fmt.unpack (t.fmt.deliverNan [x, y]) = .nan v.sign false fr t.fmt.fb := by
    have unpacked := hx.trans (read_of_isNan hc)
    rw [← hx] at hc
    cases v with
    | nan s g fr n =>
      obtain ⟨rfl, small, has⟩ := nan_of_unpack unpacked.symm
      rw [Fmt.deliverNan, hv]
      exact unpack_convNan t s fr small has
    | inf => cases hc
    | fin => cases hc
  cases hx : x.isNan with
  | true => simpa using quieted a hx x (by simp [hx]) rfl
  | false =>
    have hy : y.isNan = true := by simpa [x, hx] using h
    simpa using quieted b hy y (by simp [hx, hy]) rfl

/-! Order of finite values. -/

/-- The rational number that a signed exact value is. -/
def ratE (x : SExact) : ℚ := x.n * 2 ^ x.e

theorem ratE_exact {v : FVal} : ratE v.exact = ratOf v := by
  cases v with
  | fin s m e => cases s <;> simp [ratE, FVal.exact, ratOf]
  | nan => simp [ratE, FVal.exact, ratOf]
  | inf => simp [ratE, FVal.exact, ratOf]

/-- A power of two split at an exponent that is not above it. -/
theorem two_zpow_split {a b : Int} (h : a ≤ b) : (2 : ℚ) ^ (b - a).toNat * 2 ^ a = 2 ^ b := by
  rw [← zpow_natCast, ← zpow_add₀ two_ne_zero, Int.toNat_of_nonneg (by omega), sub_add_cancel]

theorem ratE_add (a b : SExact) : ratE (a.add b) = ratE a + ratE b := by
  simp only [ratE, SExact.add]
  push_cast
  rw [add_mul, mul_assoc, mul_assoc, two_zpow_split (min_le_left _ _), two_zpow_split (min_le_right _ _)]

theorem ratE_neg_iff (x : SExact) : x.n < 0 ↔ ratE x < 0 := by
  rw [← not_le, ← not_le, ratE, mul_nonneg_iff_of_pos_right (by positivity), Int.cast_nonneg_iff]

theorem ratE_eq_zero_iff (x : SExact) : x.n = 0 ↔ ratE x = 0 := by
  rw [ratE, mul_eq_zero_iff_right (by positivity), Int.cast_eq_zero]

theorem fpLess_iff {x y : FVal} (hx : FiniteVal x) (hy : FiniteVal y) : fpLess x y = true ↔ ratOf x < ratOf y := by
  have difference : fpLess x y = decide ((x.exact.add ⟨-y.exact.n, y.exact.e⟩).n < 0) := by
    cases x <;> cases y <;> simp_all [FiniteVal, FVal.isNan, FVal.isInf, fpLess]
  have negated : ratE ⟨-y.exact.n, y.exact.e⟩ = -ratE y.exact := by simp [ratE]
  rw [difference, decide_eq_true_iff, ratE_neg_iff, ratE_add, negated, ratE_exact, ratE_exact, ← sub_eq_add_neg, sub_neg]

theorem ratOf_of_isZero {v : FVal} (h : v.isZero = true) : ratOf v = 0 := by
  cases v <;> simp_all [FVal.isZero, ratOf]

/-! The pick. -/

/-- Of two values that are not NaNs, the first comes before the second, -0 before +0 (R68). -/
def before (x y : FVal) : Bool := fpLess x y || (x.isZero && y.isZero && x.sign && !y.sign)

/-- R68, case by case. -/
theorem fpMinMax_eq (t : FType) (k : MinMax) (ftz : Bool) (a b : Nat) :
    let x := t.fmt.read ftz a
    let y := t.fmt.read ftz b
    fpMinMax t k ftz a b =
      if x.isNan && y.isNan || (!k.number && (x.isNan || y.isNan)) then (t.fmt.deliverNan [x, y], signalFlag [x, y])
      else if x.isNan then (fpKeep t ftz b, signalFlag [x, y])
      else if y.isNan then (fpKeep t ftz a, signalFlag [x, y])
      else (fpKeep t ftz (if (if k.low then before x y || a == b else !before x y) then a else b), signalFlag [x, y]) := rfl

theorem fpMinMax_flags (t : FType) (k : MinMax) (ftz : Bool) (a b : Nat) :
    (fpMinMax t k ftz a b).2 = signalFlag [t.fmt.read ftz a, t.fmt.read ftz b] := by
  simp only [fpMinMax_eq, apply_ite Prod.snd, ite_self]

/-- Two numbers deliver one of them. -/
theorem fpMinMax_numbers (t : FType) (k : MinMax) (ftz : Bool) (a b : Nat) (hx : (t.fmt.read ftz a).isNan = false)
    (hy : (t.fmt.read ftz b).isNan = false) :
    (fpMinMax t k ftz a b).1 = fpKeep t ftz (if (if k.low then before (t.fmt.read ftz a) (t.fmt.read ftz b) || a == b
      else !before (t.fmt.read ftz a) (t.fmt.read ftz b)) then a else b) := by
  simp [fpMinMax_eq, hx, hy]

/-- Two NaNs, or one in a form that delivers it. -/
theorem fpMinMax_nan (t : FType) (k : MinMax) (ftz : Bool) (a b : Nat)
    (h : ((t.fmt.read ftz a).isNan = true ∧ (t.fmt.read ftz b).isNan = true) ∨
      (k.number = false ∧ ((t.fmt.read ftz a).isNan = true ∨ (t.fmt.read ftz b).isNan = true))) :
    (fpMinMax t k ftz a b).1 = t.fmt.deliverNan [t.fmt.read ftz a, t.fmt.read ftz b] := by
  rw [fpMinMax_eq, if_pos (by simpa using h)]

/-- The pick is the lesser or the greater value, -0 below +0. -/
theorem pick_value {t : FType} {k : MinMax} {ftz : Bool} {a b : Nat} (hx : FiniteVal (t.fmt.read ftz a))
    (hy : FiniteVal (t.fmt.read ftz b)) :
    let x := t.fmt.read ftz a
    let y := t.fmt.read ftz b
    let v := t.fmt.read ftz (if (if k.low then before x y || a == b else !before x y) then a else b)
    ratOf v = (if k.low then min (ratOf x) (ratOf y) else max (ratOf x) (ratOf y)) ∧
      (x.isZero = true → y.isZero = true → v.sign = if k.low then x.sign || y.sign else x.sign && y.sign) := by
  intro x y v
  have less : fpLess x y = true ↔ ratOf x < ratOf y := fpLess_iff hx hy
  by_cases leads : before x y = true
  · have pick : v = if k.low then x else y := by simp only [v, leads]; cases k.low <;> rfl
    have order : ratOf x ≤ ratOf y ∧ (x.isZero = true → y.isZero = true → x.sign = true ∧ y.sign = false) := by
      rw [before, Bool.or_eq_true, less] at leads
      rcases leads with h | h
      · exact ⟨h.le, fun hx hy => absurd h (by simp [ratOf_of_isZero hx, ratOf_of_isZero hy])⟩
      · simp only [Bool.and_eq_true, Bool.not_eq_true'] at h
        obtain ⟨⟨⟨zx, zy⟩, sx⟩, sy⟩ := h
        exact ⟨by rw [ratOf_of_isZero zx, ratOf_of_isZero zy], fun _ _ => ⟨sx, sy⟩⟩
    rw [pick]
    cases k.low with
    | true => exact ⟨(min_eq_left order.1).symm, fun zx zy => by simp [order.2 zx zy]⟩
    | false => exact ⟨(max_eq_right order.1).symm, fun zx zy => by simp [order.2 zx zy]⟩
  · have pick : v = if k.low then y else x := by
      simp only [v, leads]
      cases k.low with
      | true =>
        by_cases same : a = b
        · subst same; simp [y]
        · simp [same, y]
      | false => rfl
    have order : ratOf y ≤ ratOf x ∧ (x.isZero = true → y.isZero = true → x.sign = false ∨ y.sign = true) := by
      rw [before, Bool.or_eq_true, less, not_or, not_lt] at leads
      refine ⟨leads.1, fun zx zy => ?_⟩
      have := leads.2
      rw [zx, zy] at this
      cases hx : x.sign <;> cases hy : y.sign <;> simp_all
    rw [pick]
    cases k.low with
    | true => exact ⟨(min_eq_right order.1).symm, fun zx zy => by rcases order.2 zx zy with h | h <;> simp [h]⟩
    | false => exact ⟨(max_eq_left order.1).symm, fun zx zy => by rcases order.2 zx zy with h | h <;> simp [h]⟩

/-- R65, R68. -/
theorem minMaxPicks : Claim.MinMaxPicks := by
  intro t k ftz a b x y r low number
  refine ⟨fun hx hy => ?numbers, fun hx hy => ?value, fun hn hx hy => ?rightNumber,
    fun hn hx hy => ?leftNumber, fun h => ?nan, fun _ => ?flags⟩
  case numbers =>
    refine ⟨(fpMinMax_flags t k ftz a b).trans ?_, ?_⟩
    · simp [signalFlag, isSignal_of_number hx, isSignal_of_number hy, x, y]
    · rw [show r.1 = _ from fpMinMax_numbers t k ftz a b hx hy]
      generalize (if k.low then _ else _   : Bool) = pickA
      cases pickA
      · exact .inr rfl
      · exact .inl rfl
  case value =>
    obtain ⟨value, sign⟩ := pick_value (k := k) hx hy
    rw [show r.1 = _ from fpMinMax_numbers t k ftz a b hx.1 hy.1]
    obtain ⟨keptSign, keptValue, -, -⟩ := read_fpKeep_same t ftz
      (if (if k.low then before x y || a == b else !before x y) then a else b)
    rw [keptValue, keptSign]
    exact ⟨value, sign⟩
  case rightNumber =>
    have hn : k.number = true := hn
    simp only [r, fpMinMax_eq]
    simp [hn, show (t.fmt.read ftz a).isNan = true from hx, show (t.fmt.read ftz b).isNan = false from hy]
  case leftNumber =>
    have hn : k.number = true := hn
    simp only [r, fpMinMax_eq]
    simp [hn, show (t.fmt.read ftz a).isNan = false from hx, show (t.fmt.read ftz b).isNan = true from hy]
  case nan =>
    rw [show r.1 = _ from fpMinMax_nan t k ftz a b h]
    obtain ⟨fr, delivered⟩ := unpack_deliverNan t ftz a b (h.elim (fun h => .inl h.1) (·.2))
    rw [delivered]
    exact ⟨rfl, rfl, rfl⟩
  case flags => exact (fpMinMax_flags t k ftz a b).trans (by simp [signalFlag, x, y])

end Sys2Proof.Machine
end

section
/-! PROOFS. Rounding to the grid of a format (R60): the values of a format between two powers of two are the multiples of one last
place, so that rounding a magnitude to it is rounding a quotient to an integer. -/

namespace Sys2Proof.Machine

open Sys2Proof

/-! Rounding to an integer. -/

/-- q is the nonnegative y rounded to an integer as the magnitude of a value of a sign (R60). -/
def RoundsInt (mode : RMode) (sign : Bool) (y : ℚ) (q : Nat) : Prop :=
  match mode with
  | .rne => |y - q| ≤ 1 / 2 ∧ (|y - q| = 1 / 2 → 2 ∣ q)
  | .rtz => q ≤ y ∧ y < q + 1
  | .rup => if sign then q ≤ y ∧ y < q + 1 else (q : ℚ) - 1 < y ∧ y ≤ q
  | .rdn => if sign then (q : ℚ) - 1 < y ∧ y ≤ q else q ≤ y ∧ y < q + 1

theorem RoundsInt.abs_sub_lt {mode : RMode} {sign : Bool} {y : ℚ} {q : Nat} (h : RoundsInt mode sign y q) : |y - q| < 1 := by
  rw [abs_lt]
  cases mode with
  | rne => have := abs_le.1 h.1; constructor <;> linarith
  | rtz => obtain ⟨_, _⟩ := h; constructor <;> linarith
  | rup => cases sign <;> (obtain ⟨_, _⟩ := h; constructor <;> linarith)
  | rdn => cases sign <;> (obtain ⟨_, _⟩ := h; constructor <;> linarith)

theorem roundsInt_self (mode : RMode) (sign : Bool) (q : Nat) : RoundsInt mode sign q q := by
  cases mode <;> cases sign <;> simp [RoundsInt]

/-- A rounded value stays within integer bounds. -/
theorem RoundsInt.le_of_le {mode : RMode} {sign : Bool} {y : ℚ} {q b : Nat} (h : RoundsInt mode sign y q)
    (hb : (b : ℚ) ≤ y) : b ≤ q := by
  have := (abs_lt.1 h.abs_sub_lt).2
  have : (b : ℚ) < q + 1 := by linarith
  exact Nat.lt_succ_iff.1 (by exact_mod_cast this)

theorem RoundsInt.le_of_lt {mode : RMode} {sign : Bool} {y : ℚ} {q b : Nat} (h : RoundsInt mode sign y q) (hb : y < b) : q ≤ b := by
  have := (abs_lt.1 h.abs_sub_lt).1
  have : (q : ℚ) < b + 1 := by linarith
  exact Nat.lt_succ_iff.1 (by exact_mod_cast this)

/-! The grid. -/

/-- 2^lsb is the last place of a value of magnitude from 2^t up to 2^(t + 1), where none may weigh less than 2^low. -/
def Place (f : Fmt) (low : Option Int) (t lsb : Int) : Prop :=
  (lsb = t - f.fb ∧ ∀ l, low = some l → l ≤ lsb) ∨ (low = some lsb ∧ t - f.fb ≤ lsb)

theorem Place.sub_le {f : Fmt} {low : Option Int} {t lsb : Int} (h : Place f low t lsb) : t - f.fb ≤ lsb := by
  rcases h with ⟨rfl, -⟩ | ⟨-, h⟩
  · exact le_rfl
  · exact h

theorem Place.low_le {f : Fmt} {low : Option Int} {t lsb : Int} (h : Place f low t lsb) : ∀ l, low = some l → l ≤ lsb := by
  rcases h with ⟨-, h⟩ | ⟨h, -⟩
  · exact h
  · rintro l hl; exact (Option.some.inj (hl.symm.trans h)).le

theorem OnGrid.neg {f : Fmt} {low : Option Int} {z : ℚ} (h : OnGrid f low z) : OnGrid f low (-z) := by
  obtain ⟨n, e, place, small, rfl⟩ := h
  exact ⟨-n, e, place, by simpa using small, by push_cast; ring⟩

theorem EvenPlace.neg {f : Fmt} {low : Option Int} {z : ℚ} (h : EvenPlace f low z) : EvenPlace f low (-z) := by
  obtain ⟨n, e, place, small, full, even, rfl⟩ := h
  exact ⟨-n, e, place, by simpa using small, by simpa using full, by simpa using even, by push_cast; ring⟩

/-- A significand of fb + 1 bits, or the power of two past it, at the last place. -/
theorem significand {f : Fmt} {low : Option Int} {lsb : Int} {q : Nat} (hlow : ∀ l, low = some l → l ≤ lsb)
    (hq : q ≤ 2 ^ (f.fb + 1)) (hfull : low = some lsb ∨ 2 ^ f.fb ≤ q) (hfb : 0 < f.fb) :
    OnGrid f low (q * 2 ^ lsb) ∧ (2 ∣ q → EvenPlace f low (q * 2 ^ lsb)) := by
  rcases hq.lt_or_eq with hq | rfl
  · have small : (q : Int).natAbs < 2 ^ (f.fb + 1) := by simpa using hq
    exact ⟨⟨q, lsb, hlow, small, by push_cast; rfl⟩, fun even =>
      ⟨q, lsb, hlow, small, by simpa using hfull, by exact_mod_cast even, by push_cast; rfl⟩⟩
  · have value : ((2 ^ (f.fb + 1) : ℕ) : ℚ) * 2 ^ lsb = ((2 ^ f.fb : ℤ) : ℚ) * 2 ^ (lsb + 1) := by
      rw [zpow_add_one₀ two_ne_zero]; push_cast; ring
    have place : ∀ l, low = some l → l ≤ lsb + 1 := fun l hl => (hlow l hl).trans (by omega)
    have small : (2 ^ f.fb : ℤ).natAbs < 2 ^ (f.fb + 1) := by
      rw [Int.natAbs_pow]; exact Nat.pow_lt_pow_right (by decide) (by omega)
    have even : (2 : ℤ) ∣ 2 ^ f.fb := dvd_pow_self 2 (by omega)
    rw [value]
    exact ⟨⟨_, _, place, small, rfl⟩, fun _ => ⟨_, _, place, small, .inr (by rw [Int.natAbs_pow]; rfl), even, rfl⟩⟩

section
variable {f : Fmt} {low : Option Int} {t lsb : Int} (place : Place f low t lsb)
include place

/-- Values of the format from 2^t up are multiples of the last place there. -/
theorem OnGrid.multiple {z : ℚ} (hz : OnGrid f low z) (h : 2 ^ t ≤ |z| ∨ low = some lsb) : ∃ k : Int, z = k * 2 ^ lsb := by
  obtain ⟨n, e, hlow, small, rfl⟩ := hz
  have le : lsb ≤ e := by
    rcases place with ⟨rfl, -⟩ | ⟨fixed, -⟩
    · rcases h with h | h
      · have bound : (2 : ℚ) ^ t < 2 ^ ((f.fb : Int) + 1 + e) := by
          refine h.trans_lt ?_
          rw [abs_mul, abs_of_pos (a := (2 : ℚ) ^ e) (by positivity), zpow_add₀ two_ne_zero]
          refine mul_lt_mul_of_pos_right ?_ (by positivity)
          rw [← Int.cast_abs, Int.abs_eq_natAbs]
          exact_mod_cast small
        have := (zpow_lt_zpow_iff_right₀ one_lt_two).1 bound
        omega
      · exact hlow _ h
    · exact hlow _ fixed
  refine ⟨n * 2 ^ (e - lsb).toNat, ?_⟩
  push_cast
  rw [mul_assoc, two_zpow_split le]

variable {v : ℚ} (hv : 2 ^ t ≤ v)
include hv

theorem grid_above {z : ℚ} (hz : OnGrid f low z) (h : v ≤ z) : ∃ k : Int, z = k * 2 ^ lsb :=
  hz.multiple place (.inl (hv.trans (h.trans (le_abs_self z))))

/-- Under a value, some multiple of the last place lies at or above each value of the format. -/
theorem grid_below {z : ℚ} (hz : OnGrid f low z) (h : z ≤ v) : ∃ k : Int, z ≤ k * 2 ^ lsb ∧ k * 2 ^ lsb ≤ v := by
  by_cases multiple : 2 ^ t ≤ |z| ∨ low = some lsb
  · obtain ⟨k, rfl⟩ := hz.multiple place multiple
    exact ⟨k, le_rfl, h⟩
  · rw [not_or, not_le] at multiple
    have power : ((2 ^ f.fb : Int) : ℚ) * 2 ^ lsb = 2 ^ t := by
      rcases place with ⟨rfl, -⟩ | ⟨fixed, -⟩
      · push_cast; rw [← zpow_natCast, ← zpow_add₀ two_ne_zero]; congr 1; omega
      · exact absurd fixed multiple.2
    exact ⟨2 ^ f.fb, by rw [power]; exact (le_abs_self z).trans multiple.1.le, by rwa [power]⟩

variable {q : Nat}

theorem floor_greatest (hq : v / 2 ^ lsb < q + 1) {z : ℚ} (hz : OnGrid f low z) (h : z ≤ v) : z ≤ q * 2 ^ lsb := by
  obtain ⟨k, above, below⟩ := grid_below place hv hz h
  have lt : (k : ℚ) < q + 1 := ((le_div_iff₀ (by positivity)).2 below).trans_lt hq
  have le : (k : ℚ) ≤ q := by exact_mod_cast Int.lt_add_one_iff.1 (by exact_mod_cast lt)
  exact above.trans (mul_le_mul_of_nonneg_right le (by positivity))

theorem ceil_least (hq : (q : ℚ) - 1 < v / 2 ^ lsb) {z : ℚ} (hz : OnGrid f low z) (h : v ≤ z) : q * 2 ^ lsb ≤ z := by
  obtain ⟨k, rfl⟩ := grid_above place hv hz h
  have lt : (q : ℚ) - 1 < k := hq.trans_le ((div_le_iff₀ (by positivity)).2 h)
  have le : (q : ℚ) ≤ k := by exact_mod_cast Int.sub_one_lt_iff.1 (by exact_mod_cast lt)
  exact mul_le_mul_of_nonneg_right le (by positivity)

omit place hv in
theorem abs_sub_scaled (k : ℚ) : |v / 2 ^ lsb - k| * 2 ^ lsb = |v - k * 2 ^ lsb| := by
  have unit : |(2 : ℚ) ^ lsb| = 2 ^ lsb := abs_of_pos (by positivity)
  rw [← unit, ← abs_mul, unit, sub_mul, div_mul_cancel₀ _ (by positivity)]

/-- A value of the format is no nearer than some multiple of the last place, and as near only where it is that multiple. -/
theorem grid_distance {z : ℚ} (hz : OnGrid f low z) :
    ∃ k : Int, |v / 2 ^ lsb - k| * 2 ^ lsb ≤ |v - z| ∧ (|v / 2 ^ lsb - k| * 2 ^ lsb = |v - z| → z = k * 2 ^ lsb) := by
  rcases le_total z v with h | h
  · obtain ⟨k, above, below⟩ := grid_below place hv hz h
    refine ⟨k, ?_, ?_⟩ <;> rw [abs_sub_scaled, abs_of_nonneg (by linarith), abs_of_nonneg (by linarith)]
    · linarith
    · intro same; linarith
  · obtain ⟨k, rfl⟩ := grid_above place hv hz h
    exact ⟨k, (abs_sub_scaled _).le, fun _ => rfl⟩

omit place hv in
/-- Every integer but a nearest one is at least half away. -/
theorem half_le_of_ne {y : ℚ} (hq : |y - q| ≤ 1 / 2) {k : Int} (hk : k ≠ q) : 1 / 2 ≤ |y - k| := by
  have apart : (1 : ℚ) ≤ |(q : ℚ) - k| := by
    have : (1 : Int) ≤ |(q : Int) - k| := Int.one_le_abs (sub_ne_zero.2 hk.symm)
    exact_mod_cast this
  have := abs_sub_le (q : ℚ) y k
  rw [abs_sub_comm (q : ℚ) y] at this
  linarith

theorem nearest_least (hq : |v / 2 ^ lsb - q| ≤ 1 / 2) {z : ℚ} (hz : OnGrid f low z) : |v - q * 2 ^ lsb| ≤ |v - z| := by
  obtain ⟨k, near, -⟩ := grid_distance place hv hz
  rw [← abs_sub_scaled]
  by_cases hk : k = q
  · subst hk; simpa using near
  · exact (mul_le_mul_of_nonneg_right (hq.trans (half_le_of_ne hq hk)) (by positivity)).trans near

theorem nearest_tie (hq : |v / 2 ^ lsb - q| ≤ 1 / 2) {z : ℚ} (hz : OnGrid f low z) (other : z ≠ q * 2 ^ lsb)
    (tie : |v - z| = |v - q * 2 ^ lsb|) : |v / 2 ^ lsb - q| = 1 / 2 := by
  obtain ⟨k, near, only⟩ := grid_distance place hv hz
  rw [← abs_sub_scaled] at tie
  rw [tie] at near only
  by_cases hk : k = q
  · subst hk; exact absurd (by simpa using only) other
  · exact le_antisymm hq ((half_le_of_ne hq hk).trans (le_of_mul_le_mul_right near (by positivity)))

variable (hv' : v < 2 ^ (t + 1))
include hv'

/-- The bounds of a significand at the last place. -/
theorem significand_bounds {mode : RMode} {sign : Bool} (h : RoundsInt mode sign (v / 2 ^ lsb) q) :
    q ≤ 2 ^ (f.fb + 1) ∧ (low = some lsb ∨ 2 ^ f.fb ≤ q) := by
  constructor
  · refine h.le_of_lt ?_
    rw [div_lt_iff₀ (by positivity)]
    push_cast
    rw [← zpow_natCast, ← zpow_add₀ two_ne_zero]
    refine hv'.trans_le (zpow_le_zpow_right₀ one_le_two ?_)
    have := place.sub_le
    push_cast; omega
  · rcases place with ⟨rfl, -⟩ | ⟨fixed, -⟩
    · refine .inr (h.le_of_le ?_)
      rw [le_div_iff₀ (by positivity)]
      push_cast
      rw [← zpow_natCast, ← zpow_add₀ two_ne_zero, add_sub_cancel]
      exact hv
    · exact .inl fixed

/-- R60, for a positive value. -/
theorem roundsTo_of_roundsInt_pos (hfb : 0 < f.fb) {mode : RMode} (h : RoundsInt mode false (v / 2 ^ lsb) q) :
    RoundsTo f low mode v (q * 2 ^ lsb) := by
  obtain ⟨le, full⟩ := significand_bounds place hv hv' h
  obtain ⟨grid, even⟩ := significand place.low_le le full hfb
  have pos : 0 < v := lt_of_lt_of_le (by positivity) hv
  have abs_y : |(q : ℚ) * 2 ^ lsb| = q * 2 ^ lsb := abs_of_nonneg (by positivity)
  have below (hq : (q : ℚ) ≤ v / 2 ^ lsb) : q * 2 ^ lsb ≤ v := (le_div_iff₀ (by positivity)).1 hq
  have above (hq : v / 2 ^ lsb ≤ q) : v ≤ q * 2 ^ lsb := (div_le_iff₀ (by positivity)).1 hq
  refine ⟨grid, ?_⟩
  cases mode with
  | rne => exact ⟨fun z hz => nearest_least place hv h.1 hz, fun z hz other tie => even (h.2 (nearest_tie place hv h.1 hz other tie))⟩
  | rtz =>
    refine ⟨by positivity, ?_, fun z hz hle => ?_⟩
    · rw [abs_y, abs_of_pos pos]; exact below h.1
    · rw [abs_y]; rw [abs_of_pos pos] at hle
      refine floor_greatest place hv h.2 ?_ hle
      rcases abs_choice z with e | e <;> rw [e]
      · exact hz
      · exact hz.neg
  | rup => exact ⟨above h.2, fun z hz hle => ceil_least place hv h.1 hz hle⟩
  | rdn => exact ⟨below h.1, fun z hz hle => floor_greatest place hv h.2 hz hle⟩

end

/-! Signs. -/

/-- The mode that does to a value's negation what a mode does to the value. -/
def mirrorMode : RMode → RMode
  | .rup => .rdn
  | .rdn => .rup
  | m => m

theorem RoundsTo.mirror {f : Fmt} {low : Option Int} {mode : RMode} {x y : ℚ} (h : RoundsTo f low (mirrorMode mode) x y) :
    RoundsTo f low mode (-x) (-y) := by
  obtain ⟨grid, h⟩ := h
  refine ⟨grid.neg, ?_⟩
  have flip (z : ℚ) : |-x - z| = |x - -z| := by rw [← abs_neg]; congr 1; ring
  cases mode with
  | rne =>
    refine ⟨fun z hz => ?_, fun z hz other tie => ?_⟩
    · rw [flip, flip, neg_neg]; exact h.1 _ hz.neg
    · rw [flip, flip, neg_neg] at tie
      exact (h.2 _ hz.neg (fun e => other (by rw [← e, neg_neg])) tie).neg
  | rtz =>
    obtain ⟨sign, le, best⟩ := h
    exact ⟨by simpa using sign, by simpa using le, fun z hz hle => by simpa using best z hz (by simpa using hle)⟩
  | rup => exact ⟨neg_le_neg h.1, fun z hz hle => neg_le.1 (h.2 _ hz.neg (neg_le.1 hle))⟩
  | rdn => exact ⟨neg_le_neg h.1, fun z hz hle => le_neg.1 (h.2 _ hz.neg (le_neg.1 hle))⟩

theorem roundsInt_mirror (mode : RMode) (y : ℚ) (q : Nat) : RoundsInt mode true y q = RoundsInt (mirrorMode mode) false y q := by
  cases mode <;> simp [RoundsInt, mirrorMode]

/-- A magnitude with a sign. -/
def signed (sign : Bool) (v : ℚ) : ℚ := if sign then -v else v

/-- R60: the rounded quotient by the last place is the rounded value. -/
theorem roundsTo_of_roundsInt {f : Fmt} {low : Option Int} {t lsb : Int} {v : ℚ} {q : Nat} {mode : RMode} {sign : Bool}
    (place : Place f low t lsb) (hv : 2 ^ t ≤ v) (hv' : v < 2 ^ (t + 1)) (hfb : 0 < f.fb)
    (h : RoundsInt mode sign (v / 2 ^ lsb) q) : RoundsTo f low mode (signed sign v) (signed sign (q * 2 ^ lsb)) := by
  cases sign with
  | false => exact roundsTo_of_roundsInt_pos place hv hv' hfb h
  | true => exact (roundsTo_of_roundsInt_pos place hv hv' hfb (roundsInt_mirror mode _ q ▸ h)).mirror

end Sys2Proof.Machine
end

section
/-! PROOFS. The model's rounding (R60 to R64): what roundAt does to an exact value, what the encodings of finite results stand for,
and that Fmt.round rounds once. -/

namespace Sys2Proof.Machine

open Sys2Proof

/-! Exact magnitudes. -/

/-- An exact magnitude stands for v: for its significand's multiple, or, where it is sticky, for some value past it and below the
next. -/
def Holds (x : Exact) (v : ℚ) : Prop :=
  if x.sticky then x.m * 2 ^ x.e < v ∧ v < (x.m + 1) * 2 ^ x.e else v = x.m * 2 ^ x.e

/-- The rest of a magnitude past its significand, in units of its exponent. -/
theorem Holds.rest {x : Exact} {v : ℚ} (h : Holds x v) :
    ∃ d : ℚ, v / 2 ^ x.e = x.m + d ∧ 0 ≤ d ∧ d < 1 ∧ (x.sticky = true ↔ 0 < d) := by
  have unit : (0 : ℚ) < 2 ^ x.e := by positivity
  refine ⟨v / 2 ^ x.e - x.m, by ring, ?_⟩
  unfold Holds at h
  split at h
  · next sticky =>
    have lower := (lt_div_iff₀ unit).2 h.1
    have upper := (div_lt_iff₀ unit).2 h.2
    exact ⟨by linarith, by linarith, fun _ => by linarith, fun _ => sticky⟩
  · next exact =>
    rw [h, mul_div_cancel_right₀ _ unit.ne']
    simp [exact]

theorem Holds.bounds {x : Exact} {v : ℚ} (h : Holds x v) (hm : x.m ≠ 0) : 2 ^ x.top ≤ v ∧ v < 2 ^ (x.top + 1) := by
  obtain ⟨d, value, low, high, -⟩ := h.rest
  have unit : (0 : ℚ) < 2 ^ x.e := by positivity
  have v_eq : v = (x.m + d) * 2 ^ x.e := by rw [← value, div_mul_cancel₀ _ unit.ne']
  have lower : (2 : ℚ) ^ Nat.log2 x.m ≤ x.m := by exact_mod_cast Nat.log2_self_le hm
  have upper : (x.m : ℚ) + 1 ≤ 2 ^ (Nat.log2 x.m + 1) := by exact_mod_cast Nat.lt_log2_self
  rw [v_eq, Exact.top, add_right_comm, zpow_add₀ two_ne_zero, zpow_add₀ two_ne_zero]
  constructor
  · refine mul_le_mul_of_nonneg_right ?_ unit.le
    rw [zpow_natCast]; linarith
  · refine mul_lt_mul_of_pos_right ?_ unit
    rw [← Nat.cast_succ, zpow_natCast, Nat.succ_eq_add_one]; linarith

/-! Rounding at a last place. -/

/-- The choice between an integer and the next, by whether the rest past it is above a half, a half, or not zero (R60). -/
def roundsUp (mode : RMode) (sign odd above tie inexact : Bool) : Bool :=
  match mode with
  | .rne => above || (tie && odd)
  | .rtz => false
  | .rup => !sign && inexact
  | .rdn => sign && inexact

/-- R60: an integer and a rest below one, rounded. -/
theorem roundsInt_of_rest (mode : RMode) (sign : Bool) (q : Nat) {p : ℚ} (low : 0 ≤ p) (high : p < 1) :
    let up := roundsUp mode sign (q % 2 == 1) (decide (1 / 2 < p)) (decide (p = 1 / 2)) (decide (p ≠ 0))
    RoundsInt mode sign (q + p) (if up then q + 1 else q) ∧ (p = 0 ↔ q + p = ((if up then q + 1 else q : Nat) : ℚ)) := by
  intro up
  have stays (h : up = false) : RoundsInt mode sign (q + p) q := by
    cases mode with
    | rne =>
      simp only [up, roundsUp, Bool.or_eq_false_iff, decide_eq_false_iff_not, not_lt, Bool.and_eq_false_iff, beq_eq_false_iff_ne] at h
      have dist : |(q : ℚ) + p - q| = p := by rw [add_sub_cancel_left, abs_of_nonneg low]
      refine ⟨dist.le.trans h.1, fun half => ?_⟩
      have := h.2.resolve_left (not_not.2 (dist.symm.trans half))
      omega
    | rtz => constructor <;> linarith
    | rup => cases sign <;> simp_all [up, roundsUp, RoundsInt]
    | rdn => cases sign <;> simp_all [up, roundsUp, RoundsInt]
  have moves (h : up = true) : RoundsInt mode sign (q + p) (q + 1 : Nat) ∧ p ≠ 0 := by
    cases mode with
    | rne =>
      simp only [up, roundsUp, Bool.or_eq_true, decide_eq_true_iff, Bool.and_eq_true, beq_iff_eq] at h
      have dist : |(q : ℚ) + p - (q + 1 : Nat)| = 1 - p := by
        rw [abs_sub_comm, abs_of_nonneg (by push_cast; linarith)]; push_cast; ring
      rw [RoundsInt, dist]
      rcases h with h | ⟨h, odd⟩
      · exact ⟨⟨by linarith, fun half => by linarith⟩, by linarith⟩
      · exact ⟨⟨by linarith, fun _ => by omega⟩, by linarith⟩
    | rtz => exact absurd h (by simp [up, roundsUp])
    | rup => cases sign <;> simp_all [up, roundsUp, RoundsInt, low.lt_of_ne', high.le]
    | rdn => cases sign <;> simp_all [up, roundsUp, RoundsInt, low.lt_of_ne', high.le]
  cases h : up with
  | false => exact ⟨stays h, by simp⟩
  | true => exact ⟨(moves h).1, iff_of_false (moves h).2 (by simpa using high.ne)⟩

/-- An integer and a rest below one, against an integer. -/
theorem compare_rest {r b : Nat} {d : ℚ} (low : 0 ≤ d) (high : d < 1) :
    ((b : ℚ) < r + d ↔ b < r ∨ (r = b ∧ 0 < d)) ∧ ((r : ℚ) + d = b ↔ r = b ∧ ¬ 0 < d) := by
  rcases lt_trichotomy r b with h | rfl | h
  · have : (r : ℚ) + 1 ≤ b := by exact_mod_cast h
    exact ⟨iff_of_false (by linarith) (by omega), iff_of_false (by linarith) (by omega)⟩
  · exact ⟨by simp, by simp [low.ge_iff_eq', eq_comm]⟩
  · have : (b : ℚ) + 1 ≤ r := by exact_mod_cast h
    exact ⟨iff_of_true (by linarith) (.inl h), iff_of_false (by linarith) (by omega)⟩

/-- What roundAt compares is the rest past the integer with zero and with a half. -/
theorem compare_half {r k : Nat} {d : ℚ} (low : 0 ≤ d) (high : d < 1) :
    let p : ℚ := (r + d) / (2 ^ (k + 1) : Nat)
    (1 / 2 < p ↔ 2 ^ k < r ∨ (r = 2 ^ k ∧ 0 < d)) ∧ (p = 1 / 2 ↔ r = 2 ^ k ∧ ¬ 0 < d) ∧ (p = 0 ↔ r = 0 ∧ ¬ 0 < d) := by
  intro p
  have pos : (0 : ℚ) < (2 ^ (k + 1) : Nat) := by positivity
  have half : (1 / 2 : ℚ) * (2 ^ (k + 1) : Nat) = (2 ^ k : Nat) := by push_cast; ring
  obtain ⟨above, tie⟩ := compare_rest (r := r) (b := 2 ^ k) low high
  have zero := (compare_rest (r := r) (b := 0) low high).2
  rw [Nat.cast_zero] at zero
  exact ⟨by rw [lt_div_iff₀ pos, half, above], by rw [div_eq_iff pos.ne', half, tie], by
    rw [div_eq_zero_iff, or_iff_left pos.ne', zero]⟩

/-- roundAt past the last place of its value. -/
theorem roundAt_of_lt (mode : RMode) (sign : Bool) (x : Exact) (lsb : Int) (k : Nat) (h : lsb = x.e + (k + 1 : Nat)) :
    let q := x.m / 2 ^ (k + 1)
    let r := x.m % 2 ^ (k + 1)
    roundAt mode sign x lsb =
      (if roundsUp mode sign (q % 2 == 1) (decide (r > 2 ^ k) || (r == 2 ^ k && x.sticky)) (r == 2 ^ k && !x.sticky) (r != 0 || x.sticky)
        then q + 1 else q, r != 0 || x.sticky) := by
  intro q r
  have shift : (lsb - x.e).toNat = k + 1 := by omega
  have tie (a b c d : Bool) : (a || b && (c || d)) = (a || b && c || b && !c && d) := by revert a b c d; decide
  rw [roundAt, if_neg (by omega)]
  simp only [shift, Nat.add_sub_cancel, roundsUp, tie]
  cases mode <;> rfl

/-- R60: roundAt rounds the quotient by the last place, and says whether it differs. -/
theorem roundAt_rounds {x : Exact} {v : ℚ} (h : Holds x v) (mode : RMode) (sign : Bool) {lsb : Int}
    (fine : x.sticky = true → x.e < lsb) :
    RoundsInt mode sign (v / 2 ^ lsb) (roundAt mode sign x lsb).1 ∧
      ((roundAt mode sign x lsb).2 = false ↔ v = (roundAt mode sign x lsb).1 * 2 ^ lsb) := by
  rw [← div_eq_iff (a := v) (by positivity : (2 : ℚ) ^ lsb ≠ 0)]
  by_cases le : lsb ≤ x.e
  · have exact : x.sticky = false := Bool.eq_false_iff.2 fun s => absurd (fine s) (by omega)
    have value : v / 2 ^ lsb = (x.m * 2 ^ (x.e - lsb).toNat : Nat) := by
      rw [Holds, exact] at h
      rw [h, div_eq_iff (by positivity)]
      push_cast
      rw [mul_assoc, two_zpow_split le]
    rw [roundAt, if_pos le, value]
    exact ⟨roundsInt_self mode sign _, by simp [exact]⟩
  · obtain ⟨k, hk⟩ : ∃ k : Nat, lsb = x.e + (k + 1 : Nat) := ⟨(lsb - x.e).toNat - 1, by omega⟩
    obtain ⟨d, value, low, high, sticky⟩ := h.rest
    set q := x.m / 2 ^ (k + 1) with hq
    set r := x.m % 2 ^ (k + 1) with hr
    set p : ℚ := (r + d) / (2 ^ (k + 1) : Nat) with hp
    have pos : (0 : ℚ) < (2 ^ (k + 1) : Nat) := by positivity
    have split : v / 2 ^ lsb = q + p := by
      have parts : (x.m : ℚ) = (2 ^ (k + 1) : Nat) * q + r := by exact_mod_cast (Nat.div_add_mod x.m (2 ^ (k + 1))).symm
      rw [hk, zpow_add₀ two_ne_zero, ← div_div, value, parts, zpow_natCast, hp]
      push_cast at pos ⊢
      field_simp
      ring
    have below : p < 1 := by
      have : (r : ℚ) + 1 ≤ (2 ^ (k + 1) : Nat) := by exact_mod_cast Nat.mod_lt x.m (Nat.two_pow_pos (k + 1))
      rw [hp, div_lt_one pos]; linarith
    obtain ⟨above, tie, zero⟩ := compare_half (r := r) (k := k) low high
    have comparisons : (decide (r > 2 ^ k) || (r == 2 ^ k && x.sticky)) = decide (1 / 2 < p) ∧
        (r == 2 ^ k && !x.sticky) = decide (p = 1 / 2) ∧ (r != 0 || x.sticky) = decide (p ≠ 0) := by
      refine ⟨?_, ?_, ?_⟩ <;> rw [Bool.eq_iff_iff, decide_eq_true_iff]
      · rw [above, ← sticky]; simp
      · rw [tie, ← sticky]; simp
      · rw [ne_eq, zero, ← sticky]; simp [imp_iff_or_not, or_comm]
    obtain ⟨rounds, same⟩ := roundsInt_of_rest mode sign q (p := p) (by positivity) below
    rw [roundAt_of_lt mode sign x lsb k hk, split]
    simp only [← hq, ← hr, comparisons]
    exact ⟨rounds, by simpa using same⟩

end Sys2Proof.Machine
end

section
/-! PROOFS. What the encodings of results stand for, in the formats of arithmetic (R53, R61). -/

namespace Sys2Proof.Machine

open Sys2Proof

/-- The constants of a format agree as in the formats of IEEE 754: infinities at the greatest exponent, and all significands below. -/
structure IeeeFmt (f : Fmt) : Prop where
  inf : f.hasInf = true
  maxExp : f.maxExp = f.bias
  top : 2 ^ f.eb = 2 * f.bias + 2
  maxSig : f.maxSig + 1 = 2 ^ (f.fb + 1)
  fb_pos : 0 < f.fb
  bias_pos : 0 < f.bias

/-- Arithmetic is done in such formats (R53, R63). -/
theorem ieeeFmt_of_flushed {t : FType} (h : t.fmt.flushed = true) : IeeeFmt t.fmt := by
  cases t with
  | e5m2 => cases h
  | e4m3 => cases h
  | e2m1 => cases h
  | f64 => constructor <;> decide
  | f32 => constructor <;> decide
  | f16 => constructor <;> decide
  | bf16 => constructor <;> decide

theorem ratOf_fin (s : Bool) (m : Nat) (e : Int) : ratOf (.fin s m e) = signed s (m * 2 ^ e) := by
  cases s <;> simp [ratOf, signed]

/-- The largest finite value of a format. -/
def maxVal (f : Fmt) : ℚ := f.maxSig * 2 ^ (f.maxExp - f.fb)

theorem exceedsMax_iff (f : Fmt) (q : Nat) (lsb : Int) : f.exceedsMax q lsb = true ↔ maxVal f < q * 2 ^ lsb := by
  unfold Fmt.exceedsMax maxVal
  dsimp only
  split
  · next le =>
    rw [decide_eq_true_iff, ← two_zpow_split le, ← mul_assoc, mul_lt_mul_iff_left₀ (by positivity)]
    exact_mod_cast Iff.rfl
  · next lt =>
    rw [decide_eq_true_iff, ← two_zpow_split (a := f.maxExp - f.fb) (b := lsb) (by omega), ← mul_assoc,
      mul_lt_mul_iff_left₀ (by positivity)]
    exact_mod_cast Iff.rfl

/-- An encoding by its exponent and fraction stands for its value. -/
theorem stands_of_fields {f : Fmt} {sign : Bool} {e fr c : Nat} {y : ℚ} (hc : c = signBit sign * 2 ^ (f.eb + f.fb) + (e * 2 ^ f.fb + fr))
    (he : e + 1 < 2 ^ f.eb) (hfr : fr < 2 ^ f.fb)
    (hy : y = signed sign (if e = 0 then fr * 2 ^ (f.emin - f.fb) else (2 ^ f.fb + fr : Nat) * 2 ^ ((e : Int) - f.bias - f.fb))) :
    Stands f sign y c := by
  have value := f.unpack_fields sign e fr (by omega) hfr
  rw [f.value_of_exponent _ _ _ (by omega), ← hc] at value
  rw [hy]
  split at value
  · next h => exact ⟨_, _, value, by rw [ratOf_fin, if_pos h]⟩
  · next h => exact ⟨_, _, value, by rw [ratOf_fin, if_neg h]⟩

section
variable {f : Fmt} (hf : IeeeFmt f)
include hf

theorem maxVal_lt : maxVal f < 2 ^ (f.maxExp + 1) := by
  have split : (2 : ℚ) ^ (f.maxExp + 1) = (2 ^ (f.fb + 1) : Nat) * 2 ^ (f.maxExp - f.fb) := by
    push_cast; rw [← zpow_natCast, ← zpow_add₀ two_ne_zero]; congr 1; push_cast; ring
  rw [maxVal, split]
  refine mul_lt_mul_of_pos_right ?_ (by positivity)
  exact_mod_cast (by have := hf.maxSig; omega : f.maxSig < 2 ^ (f.fb + 1))

theorem two_pow_le_maxSig : 2 ^ f.fb ≤ f.maxSig := by
  have maxSig := hf.maxSig
  have := Nat.two_pow_pos f.fb
  rw [pow_succ] at maxSig
  omega

theorem emin_le_maxVal : 2 ^ f.emin ≤ maxVal f := by
  have emin : f.emin = 1 - (f.bias : Int) := rfl
  have maxExp := hf.maxExp
  have bias := hf.bias_pos
  calc (2 : ℚ) ^ f.emin ≤ 2 ^ ((f.fb : Int) + (f.maxExp - f.fb)) := zpow_le_zpow_right₀ one_le_two (by omega)
    _ = (2 ^ f.fb : Nat) * 2 ^ (f.maxExp - f.fb) := by rw [zpow_add₀ two_ne_zero]; push_cast; rw [zpow_natCast]
    _ ≤ maxVal f := mul_le_mul_of_nonneg_right (by exact_mod_cast two_pow_le_maxSig hf) (by positivity)

/-- A full significand whose value the format holds has an exponent that the format holds. -/
theorem place_le_of_le_maxVal {q : Nat} {lsb : Int} (full : 2 ^ f.fb ≤ q) (le : q * 2 ^ lsb ≤ maxVal f) : lsb ≤ f.maxExp - f.fb := by
  have power : (2 : ℚ) ^ ((f.fb : Int) + lsb) ≤ q * 2 ^ lsb := by
    rw [zpow_add₀ two_ne_zero, zpow_natCast]
    exact mul_le_mul_of_nonneg_right (by exact_mod_cast full) (by positivity)
  have := (zpow_lt_zpow_iff_right₀ one_lt_two).1 ((power.trans le).trans_lt (maxVal_lt hf))
  omega

theorem stands_packFin_of_lt {sign : Bool} {q : Nat} {lsb : Int} (low : f.emin - f.fb ≤ lsb) (hq : q < 2 ^ (f.fb + 1))
    (full : f.emin - f.fb = lsb ∨ 2 ^ f.fb ≤ q) (le : q * 2 ^ lsb ≤ maxVal f) :
    Stands f sign (signed sign (q * 2 ^ lsb)) (f.packFin sign q lsb) := by
  have emin : f.emin = 1 - (f.bias : Int) := rfl
  have top := hf.top
  by_cases sub : q < 2 ^ f.fb
  · obtain rfl : f.emin - f.fb = lsb := full.resolve_right (by omega)
    refine stands_of_fields (e := 0) (fr := q) ?_ (by omega) sub (by rw [if_pos rfl])
    rw [Fmt.packFin, show (f.emin - f.fb + f.fb + f.bias - 1).toNat = 0 by omega]
  · have bound := place_le_of_le_maxVal hf (by omega) le
    have maxExp := hf.maxExp
    have exponent : ((lsb + f.fb + f.bias).toNat : Int) = lsb + f.fb + f.bias := by omega
    refine stands_of_fields (e := (lsb + f.fb + f.bias).toNat) (fr := q - 2 ^ f.fb) ?_ (by omega) (by rw [pow_succ] at hq; omega) ?_
    · rw [Fmt.packFin, show (lsb + f.fb + f.bias).toNat = (lsb + f.fb + f.bias - 1).toNat + 1 by omega, Nat.add_one_mul]
      omega
    · rw [if_neg (by omega), exponent, Nat.add_sub_cancel' (by omega)]
      congr 3; ring

omit hf in
/-- A significand that has been rounded up to a power of two takes the next exponent. -/
theorem packFin_carry (sign : Bool) {lsb : Int} (low : f.emin - f.fb ≤ lsb) :
    f.packFin sign (2 ^ (f.fb + 1)) lsb = f.packFin sign (2 ^ f.fb) (lsb + 1) := by
  have emin : f.emin = 1 - (f.bias : Int) := rfl
  rw [Fmt.packFin, Fmt.packFin, show (lsb + 1 + f.fb + f.bias - 1).toNat = (lsb + f.fb + f.bias - 1).toNat + 1 by omega]
  ring

/-- A finite result stands for its significand at its last place. -/
theorem stands_packFin {sign : Bool} {q : Nat} {lsb : Int} (low : f.emin - f.fb ≤ lsb) (hq : q ≤ 2 ^ (f.fb + 1))
    (full : f.emin - f.fb = lsb ∨ 2 ^ f.fb ≤ q) (le : q * 2 ^ lsb ≤ maxVal f) :
    Stands f sign (signed sign (q * 2 ^ lsb)) (f.packFin sign q lsb) := by
  rcases hq.lt_or_eq with hq | rfl
  · exact stands_packFin_of_lt hf low hq full le
  · have value : ((2 ^ (f.fb + 1) : Nat) : ℚ) * 2 ^ lsb = (2 ^ f.fb : Nat) * 2 ^ (lsb + 1) := by
      rw [zpow_add_one₀ two_ne_zero]; push_cast; ring
    rw [packFin_carry sign low, value]
    rw [value] at le
    exact stands_packFin_of_lt hf (by omega) (Nat.pow_lt_pow_right (by decide) (by omega)) (.inr le_rfl) le

theorem stands_packMax (sign : Bool) : Stands f sign (signed sign (maxVal f)) (f.packMax sign) := by
  have emin : f.emin = 1 - (f.bias : Int) := rfl
  have maxExp := hf.maxExp
  have bias := hf.bias_pos
  have maxSig := hf.maxSig
  have full := two_pow_le_maxSig hf
  have packed : f.packMax sign = f.packFin sign f.maxSig (f.maxExp - f.fb) := by
    rw [Fmt.packMax, Fmt.packFin, show (f.maxExp + f.bias).toNat = (f.maxExp - f.fb + f.fb + f.bias - 1).toNat + 1 by omega,
      Nat.add_one_mul]
    omega
  rw [packed]
  exact stands_packFin_of_lt hf (by omega) (by omega) (.inr full) le_rfl

end

end Sys2Proof.Machine
end

section
/-! PROOFS. Fmt.round delivers an exact value rounded once, with the flags of R64 (R60 to R64). -/

namespace Sys2Proof.Machine

open Sys2Proof

theorem signed_inj {s : Bool} {a b : ℚ} : signed s a = signed s b ↔ a = b := by cases s <;> simp [signed]

theorem abs_signed (s : Bool) {a : ℚ} (h : 0 ≤ a) : |signed s a| = a := by cases s <;> simp [signed, abs_of_nonneg h]

theorem signed_neg_iff (s : Bool) {a : ℚ} (h : 0 < a) : signed s a < 0 ↔ s = true := by
  cases s <;> simp [signed, h, h.le]

theorem signed_pos_iff (s : Bool) {a : ℚ} (h : 0 < a) : 0 < signed s a ↔ s = false := by
  cases s <;> simp [signed, h, h.le]

/-- The last place of an exact value in a format (R60). -/
def lastPlace (f : Fmt) (x : Exact) : Int := max (x.top - f.fb) (f.emin - f.fb)

/-- The value is tiny: rounded with an unbounded exponent, it lies below the smallest normal value (R62). -/
def isTiny (f : Fmt) (mode : RMode) (sign : Bool) (x : Exact) : Bool :=
  decide (x.top < f.emin) && !((roundAt mode sign x (x.top - f.fb)).1 == 2 ^ (f.fb + 1) && decide (x.top + 1 ≥ f.emin))

/-- Fmt.round of a value that is not zero, case by case. -/
theorem round_eq (f : Fmt) (fit : Fit) (mode : RMode) (ftz sign : Bool) {x : Exact} (nonzero : x.m ≠ 0) :
    let r := roundAt mode sign x (lastPlace f x)
    f.round fit mode ftz sign x =
      if isTiny f mode sign x then
        if ftz ∧ f.flushed then (f.packZero sign, flagUF ||| flagNX)
        else (f.packFin sign r.1 (lastPlace f x), if r.2 then flagUF ||| flagNX else 0)
      else if f.exceedsMax r.1 (lastPlace f x) then (f.overflow fit mode sign, flagOF ||| flagNX)
      else (f.packFin sign r.1 (lastPlace f x), if r.2 then flagNX else 0) := by
  rw [Fmt.round, if_neg (fun h => nonzero h.1)]
  rfl

/-- An exact value to be rounded to a format: not zero, with more bits than the format's where it is sticky. -/
structure Rounds (f : Fmt) (x : Exact) (v : ℚ) : Prop where
  holds : Holds x v
  nonzero : x.m ≠ 0
  fine : x.sticky = true → f.fb < Nat.log2 x.m

section
variable {f : Fmt} {x : Exact} {v : ℚ} (h : Rounds f x v) (mode : RMode) (sign : Bool)
include h

theorem Rounds.pos : 0 < v := lt_of_lt_of_le (by positivity) (h.holds.bounds h.nonzero).1

theorem Rounds.roundsInt {lsb : Int} (hl : x.top - f.fb ≤ lsb) :
    RoundsInt mode sign (v / 2 ^ lsb) (roundAt mode sign x lsb).1 ∧
      ((roundAt mode sign x lsb).2 = false ↔ v = (roundAt mode sign x lsb).1 * 2 ^ lsb) :=
  roundAt_rounds h.holds mode sign fun sticky => by have := h.fine sticky; unfold Exact.top at hl; omega

omit h in
theorem sub_le_lastPlace : x.top - f.fb ≤ lastPlace f x := le_max_left _ _

omit h in
theorem place_lastPlace : Place f (some (f.emin - f.fb)) x.top (lastPlace f x) := by
  unfold Place lastPlace
  rcases le_total (x.top - f.fb) (f.emin - f.fb) with le | le
  · exact .inr ⟨by rw [max_eq_right le], le_max_left _ _⟩
  · exact .inl ⟨max_eq_left le, fun l hl => by cases hl; exact le_max_right _ _⟩

omit h in
theorem place_unbounded : Place f none x.top (x.top - f.fb) := .inl ⟨rfl, by simp⟩

/-- R62: tiny, as the exact value rounded with an unbounded exponent. -/
theorem Rounds.isTiny_iff :
    isTiny f mode sign x = true ↔ (roundAt mode sign x (x.top - f.fb)).1 * (2 : ℚ) ^ (x.top - f.fb) < 2 ^ f.emin := by
  obtain ⟨lower, upper⟩ := h.holds.bounds h.nonzero
  obtain ⟨le, full⟩ := significand_bounds (place_unbounded (f := f)) lower upper (h.roundsInt mode sign le_rfl).1
  have full : 2 ^ f.fb ≤ (roundAt mode sign x (x.top - f.fb)).1 := full.resolve_left (by simp)
  have power (n : Nat) : ((2 ^ n : Nat) : ℚ) * 2 ^ (x.top - f.fb) = 2 ^ (x.top - f.fb + n) := by
    push_cast; rw [← zpow_natCast, ← zpow_add₀ two_ne_zero, add_comm]
  unfold isTiny
  generalize (roundAt mode sign x (x.top - f.fb)).1 = q at *
  rcases le.lt_or_eq with lt | rfl
  · have low : (2 : ℚ) ^ x.top ≤ q * 2 ^ (x.top - f.fb) := by
      rw [← sub_add_cancel x.top (f.fb : Int), ← power, sub_add_cancel]
      exact mul_le_mul_of_nonneg_right (by exact_mod_cast full) (by positivity)
    have high : q * (2 : ℚ) ^ (x.top - f.fb) < 2 ^ (x.top + 1) := by
      rw [show x.top + 1 = x.top - f.fb + (f.fb + 1 : Nat) by push_cast; ring, ← power]
      exact mul_lt_mul_of_pos_right (by exact_mod_cast lt) (by positivity)
    have carry : (q == 2 ^ (f.fb + 1)) = false := by simpa using lt.ne
    rw [carry, Bool.false_and, Bool.not_false, Bool.and_true, decide_eq_true_iff]
    exact ⟨fun below => high.trans_le (zpow_le_zpow_right₀ one_le_two below),
      fun below => (zpow_lt_zpow_iff_right₀ one_lt_two).1 (low.trans_lt below)⟩
  · rw [power, zpow_lt_zpow_iff_right₀ one_lt_two]
    simp only [BEq.rfl, Bool.true_and, Bool.and_eq_true, Bool.not_eq_true', decide_eq_true_iff, decide_eq_false_iff_not]
    push_cast
    omega

/-- A tiny value stays at or below the smallest normal value. -/
theorem Rounds.tiny_le (tiny : isTiny f mode sign x = true) :
    (roundAt mode sign x (lastPlace f x)).1 * (2 : ℚ) ^ lastPlace f x ≤ 2 ^ f.emin := by
  obtain ⟨-, upper⟩ := h.holds.bounds h.nonzero
  have below : x.top < f.emin := by simp only [isTiny, Bool.and_eq_true, decide_eq_true_iff] at tiny; exact tiny.1
  have place : lastPlace f x = f.emin - f.fb := max_eq_right (by omega)
  have power : ((2 ^ f.fb : Nat) : ℚ) * 2 ^ (f.emin - f.fb) = 2 ^ f.emin := by
    push_cast; rw [← zpow_natCast, ← zpow_add₀ two_ne_zero]; congr 1; ring
  have le : (roundAt mode sign x (lastPlace f x)).1 ≤ 2 ^ f.fb := by
    refine (h.roundsInt mode sign sub_le_lastPlace).1.le_of_lt ?_
    rw [place, div_lt_iff₀ (by positivity), power]
    exact upper.trans_le (zpow_le_zpow_right₀ one_le_two below)
  rw [place] at le ⊢
  rw [← power]
  exact mul_le_mul_of_nonneg_right (by exact_mod_cast le) (by positivity)

/-- A finite result stands for the rounded value. -/
theorem Rounds.stands (hf : IeeeFmt f) (le : (roundAt mode sign x (lastPlace f x)).1 * 2 ^ lastPlace f x ≤ maxVal f) :
    Stands f sign (signed sign ((roundAt mode sign x (lastPlace f x)).1 * 2 ^ lastPlace f x))
      (f.packFin sign (roundAt mode sign x (lastPlace f x)).1 (lastPlace f x)) := by
  obtain ⟨lower, upper⟩ := h.holds.bounds h.nonzero
  obtain ⟨small, full⟩ := significand_bounds place_lastPlace lower upper (h.roundsInt mode sign sub_le_lastPlace).1
  exact stands_packFin hf (le_max_right _ _) small (full.imp_left Option.some.inj) le

end

/-- The flags of a finite result, by whether it is inexact. -/
theorem flags_cases {v w : ℚ} {inexact : Bool} (h : inexact = false ↔ v = w) (fl : Flags) :
    (w = v → (if inexact then fl else 0) = 0) ∧ (w ≠ v → (if inexact then fl else 0) = fl) := by
  rw [Ne, eq_comm, ← h]
  cases inexact <;> simp

/-- The overflow result, by whether the mode rounds away from zero (R61). -/
theorem overflow_eq {f : Fmt} (inf : f.hasInf = true) (mode : RMode) (sign : Bool) :
    f.overflow .ieee mode sign = if roundsUp mode sign true true true true then f.packInf sign else f.packMax sign := by
  cases mode <;> cases sign <;> simp [Fmt.overflow, roundsUp, inf]

/-- R60 to R64, for a magnitude with a sign. -/
theorem roundedOnce_of_magnitude {f : Fmt} {mode : RMode} {ftz sign : Bool} {v y u : ℚ} {r : Nat × Flags} (hv : 0 < v) (hy : 0 ≤ y)
    (hu : 0 ≤ u) (bounded : RoundsTo f (some (f.emin - f.fb)) mode (signed sign v) (signed sign y))
    (unbounded : RoundsTo f none mode (signed sign v) (signed sign u))
    (flushed : u < 2 ^ f.emin → ftz = true → Stands f sign 0 r.1 ∧ r.2 = flagUF ||| flagNX)
    (overflow : ¬ u < 2 ^ f.emin → maxVal f < y → r.2 = flagOF ||| flagNX ∧
      if roundsUp mode sign true true true true then f.unpack r.1 = .inf sign else Stands f sign (signed sign (maxVal f)) r.1)
    (finite : ¬ (u < 2 ^ f.emin ∧ ftz = true) → (u < 2 ^ f.emin ∨ y ≤ maxVal f) → Stands f sign (signed sign y) r.1 ∧
      (y = v → r.2 = 0) ∧ (y ≠ v → u < 2 ^ f.emin → r.2 = flagUF ||| flagNX) ∧
      (y ≠ v → ¬ u < 2 ^ f.emin → r.2 = flagNX)) :
    RoundedOnce f mode ftz (signed sign v) r := by
  have isNeg : decide (signed sign v < 0) = sign := by rw [Bool.eq_iff_iff, decide_eq_true_iff, signed_neg_iff sign hv]
  have isPos : decide (0 < signed sign v) = !sign := by
    rw [Bool.eq_iff_iff, decide_eq_true_iff, signed_pos_iff sign hv, Bool.not_eq_true']
  have top : (if signed sign v < 0 then -maxVal f else maxVal f) = signed sign (maxVal f) := by simp only [signed_neg_iff sign hv]; rfl
  refine ⟨signed sign y, signed sign u, bounded, unbounded, ?_⟩
  simp only [abs_signed sign hy, abs_signed sign hu, isNeg, isPos, ne_eq, signed_inj]
  refine ⟨fun h => flushed h.1 h.2, fun normal large => ?_, finite⟩
  obtain ⟨flags, result⟩ := overflow normal large
  rw [← top] at result
  refine ⟨flags, ?_⟩
  cases mode <;> cases sign <;> simpa [roundsUp, maxVal] using result

/-- R60 to R64: Fmt.round delivers the value rounded once, in each format of arithmetic. -/
theorem round_roundedOnce {t : FType} (flushed : t.fmt.flushed = true) (mode : RMode) (ftz sign : Bool) {x : Exact} {v : ℚ}
    (h : Rounds t.fmt x v) : RoundedOnce t.fmt mode ftz (signed sign v) (t.fmt.round .ieee mode ftz sign x) := by
  have hf := ieeeFmt_of_flushed flushed
  obtain ⟨lower, upper⟩ := h.holds.bounds h.nonzero
  obtain ⟨int, exact⟩ := h.roundsInt mode sign sub_le_lastPlace
  have tiny := h.isTiny_iff mode sign
  refine roundedOnce_of_magnitude h.pos (by positivity) (by positivity)
    (roundsTo_of_roundsInt place_lastPlace lower upper hf.fb_pos int)
    (roundsTo_of_roundsInt place_unbounded lower upper hf.fb_pos (h.roundsInt mode sign le_rfl).1) ?flushed ?overflow ?finite
  all_goals rw [← tiny, round_eq t.fmt .ieee mode ftz sign h.nonzero]
  case flushed =>
    intro small ftz
    rw [if_pos small, if_pos ⟨ftz, flushed⟩]
    exact ⟨⟨_, _, unpack_packZero t sign, by simp [ratOf]⟩, rfl⟩
  case overflow =>
    intro normal large
    rw [if_neg normal, if_pos ((exceedsMax_iff _ _ _).2 large), overflow_eq hf.inf]
    refine ⟨rfl, ?_⟩
    split
    · exact unpack_packInf t sign hf.inf
    · exact stands_packMax hf sign
  case finite =>
    intro kept fits
    have le : (roundAt mode sign x (lastPlace t.fmt x)).1 * (2 : ℚ) ^ lastPlace t.fmt x ≤ maxVal t.fmt :=
      fits.elim (fun small => (h.tiny_le mode sign small).trans (emin_le_maxVal hf)) id
    have stands := h.stands mode sign hf le
    by_cases small : isTiny t.fmt mode sign x = true
    · obtain ⟨same, differs⟩ := flags_cases exact (flagUF ||| flagNX)
      rw [if_pos small, if_neg (fun both => kept ⟨small, both.1⟩)]
      exact ⟨stands, same, fun ne _ => differs ne, fun _ normal => absurd small normal⟩
    · obtain ⟨same, differs⟩ := flags_cases exact flagNX
      rw [if_neg small, if_neg (by rw [exceedsMax_iff]; exact le.not_gt)]
      exact ⟨stands, same, fun _ small' => absurd small' small, fun ne _ => differs ne⟩

end Sys2Proof.Machine
end

section
/-! PROOFS. Sums, products, quotients and conversions of finite operands are rounded once, and exact zeros take the sign of R65 (R60,
R65, R130, R132, R139, R142, R144). -/

namespace Sys2Proof.Machine

open Sys2Proof

/-! Finite values. -/

theorem FiniteVal.exists_fin {v : FVal} (h : FiniteVal v) : ∃ s m e, v = .fin s m e := by
  cases v with
  | fin s m e => exact ⟨s, m, e, rfl⟩
  | nan => exact absurd h.1 (by simp [FVal.isNan])
  | inf => exact absurd h.2 (by simp [FVal.isInf])

theorem finiteVal_fin (s : Bool) (m : Nat) (e : Int) : FiniteVal (.fin s m e) := ⟨rfl, rfl⟩

theorem FiniteVal.negate {v : FVal} (h : FiniteVal v) : FiniteVal v.negate ∧ ratOf v.negate = -ratOf v ∧ v.negate.sign = !v.sign := by
  obtain ⟨s, m, e, rfl⟩ := h.exists_fin
  refine ⟨finiteVal_fin _ _ _, ?_, rfl⟩
  cases s <;> simp [FVal.negate, ratOf]

theorem signed_add (s : Bool) (a b : ℚ) : signed s a + signed s b = signed s (a + b) := by
  cases s <;> simp [signed, add_comm]

theorem signed_eq_zero {s : Bool} {a : ℚ} : signed s a = 0 ↔ a = 0 := by cases s <;> simp [signed]

theorem signed_mul (s s' : Bool) (a b : ℚ) : signed s a * signed s' b = signed (s != s') (a * b) := by
  cases s <;> cases s' <;> simp [signed]

theorem signed_div (s s' : Bool) (a b : ℚ) : signed s a / signed s' b = signed (s != s') (a / b) := by
  cases s <;> cases s' <;> simp [signed, neg_div, div_neg]

/-- A product of finite values is exact. -/
theorem mulTerm_finite {x y : FVal} (hx : FiniteVal x) (hy : FiniteVal y) :
    FiniteVal (mulTerm x y) ∧ ratOf (mulTerm x y) = ratOf x * ratOf y ∧ (mulTerm x y).sign = (x.sign != y.sign) := by
  obtain ⟨s, m, e, rfl⟩ := hx.exists_fin
  obtain ⟨s', m', e', rfl⟩ := hy.exists_fin
  refine ⟨finiteVal_fin _ _ _, ?_, rfl⟩
  rw [ratOf_fin, ratOf_fin, signed_mul, mulTerm, ratOf_fin, zpow_add₀ two_ne_zero]
  push_cast
  congr 1
  ring

theorem isZero_iff {v : FVal} (h : FiniteVal v) : v.isZero = true ↔ ratOf v = 0 := by
  obtain ⟨s, m, e, rfl⟩ := h.exists_fin
  have unit : (2 : ℚ) ^ e ≠ 0 := by positivity
  cases s <;> simp [FVal.isZero, ratOf, unit]

/-- A value has its sign. -/
theorem ratOf_eq_signed {v : FVal} (h : FiniteVal v) : ratOf v = signed v.sign |ratOf v| := by
  obtain ⟨s, m, e, rfl⟩ := h.exists_fin
  rw [ratOf_fin, abs_signed s (by positivity)]
  rfl

/-! Exact sums. -/

theorem ratE_sumTerms (ts : List FVal) : ratE (sumTerms ts) = (ts.map ratOf).sum := by
  have fold (ts : List FVal) (a : SExact) : ratE (ts.foldl (fun a t => a.add t.exact) a) = ratE a + (ts.map ratOf).sum := by
    induction ts generalizing a with
    | nil => simp
    | cons t ts ih => rw [List.foldl_cons, ih, ratE_add, ratE_exact, List.map_cons, List.sum_cons, add_assoc]
  rw [sumTerms, fold, ratE, Int.cast_zero, zero_mul, zero_add]

theorem rounds_exact (f : Fmt) {m : Nat} (e : Int) (hm : m ≠ 0) : Rounds f ⟨m, e, false⟩ (m * 2 ^ e) where
  holds := rfl
  nonzero := hm
  fine := nofun

/-- A signed exact value is its magnitude with its sign. -/
theorem ratE_eq_signed (x : SExact) : ratE x = signed (decide (x.n < 0)) (x.n.natAbs * 2 ^ x.e) := by
  have abs : ((x.n.natAbs : Nat) : ℚ) = |(x.n : ℚ)| := by rw [Nat.cast_natAbs, Int.cast_abs]
  rw [abs, ratE]
  by_cases h : x.n < 0
  · rw [abs_of_neg (by exact_mod_cast h)]; simp [h, signed]
  · rw [abs_of_nonneg (by exact_mod_cast not_lt.1 h)]; simp [h, signed]

/-- The sign of an exact zero sum (R65). -/
def zeroSign (mode : RMode) (ts : List FVal) : Bool :=
  if ts.all (fun t => t.isZero && t.sign) then true else if ts.all (fun t => t.isZero && !t.sign) then false else mode == .rdn

theorem sumRound_finite (f : Fmt) (mode : RMode) (ftz : Bool) {ts : List FVal} (h : ∀ v ∈ ts, FiniteVal v) :
    f.sumRound mode ftz ts = if (sumTerms ts).n = 0 then (f.packZero (zeroSign mode ts), 0)
      else f.round .ieee mode ftz (decide ((sumTerms ts).n < 0)) (sumTerms ts).mag := by
  have none : ts.find? FVal.isInf = none := List.find?_eq_none.2 fun v hv => by simp [(h v hv).2]
  rw [Fmt.sumRound, none]
  rfl

/-- Without NaNs and infinities a sum of products and terms is the rounded sum. -/
theorem dot_finite (f : Fmt) (mode : RMode) (ftz : Bool) {ps : List (FVal × FVal)} {zs ops : List FVal}
    (hp : ∀ p ∈ ps, FiniteVal p.1 ∧ FiniteVal p.2) (hz : ∀ z ∈ zs, FiniteVal z) (ho : ∀ v ∈ ops, FiniteVal v) :
    f.dot mode ftz ps zs ops = f.sumRound mode ftz (ps.map (fun p => mulTerm p.1 p.2) ++ zs) ∧
      ∀ v ∈ ps.map (fun p => mulTerm p.1 p.2) ++ zs, FiniteVal v := by
  have terms : ∀ v ∈ ps.map (fun p => mulTerm p.1 p.2) ++ zs, FiniteVal v := by
    intro v hv
    rcases List.mem_append.1 hv with hv | hv
    · obtain ⟨p, mem, rfl⟩ := List.mem_map.1 hv
      exact (mulTerm_finite (hp p mem).1 (hp p mem).2).1
    · exact hz v hv
  have noNan : ops.any FVal.isNan = false := List.any_eq_false.2 fun v hv => by simp [(ho v hv).1]
  have noBad : ps.any (fun p => badProduct p.1 p.2) = false :=
    List.any_eq_false.2 fun p hp' => by simp [badProduct, (hp p hp').1.2, (hp p hp').2.2]
  have noInf (c : FVal → Bool) : (ps.map (fun p => mulTerm p.1 p.2) ++ zs).any (fun t => t.isInf && c t) = false :=
    List.any_eq_false.2 fun v hv => by simp [(terms v hv).2]
  refine ⟨?_, terms⟩
  simp only [Fmt.dot, noNan, noBad, noInf]
  rfl

/-- R60, R65: a sum of products and terms is rounded once, or is an exact zero. -/
theorem dot_roundedOnce {t : FType} (flushed : t.fmt.flushed = true) (mode : RMode) (ftz : Bool) {ps : List (FVal × FVal)}
    {zs ops : List FVal} (hp : ∀ p ∈ ps, FiniteVal p.1 ∧ FiniteVal p.2) (hz : ∀ z ∈ zs, FiniteVal z)
    (ho : ∀ v ∈ ops, FiniteVal v) :
    let r := t.fmt.dot mode ftz ps zs ops
    let s := (ps.map (fun p => ratOf p.1 * ratOf p.2)).sum + (zs.map ratOf).sum
    (s ≠ 0 → RoundedOnce t.fmt mode ftz s r) ∧
      (s = 0 → Stands t.fmt (zeroSign mode (ps.map (fun p => mulTerm p.1 p.2) ++ zs)) 0 r.1 ∧ r.2 = 0) := by
  intro r s
  obtain ⟨dot, terms⟩ := dot_finite t.fmt mode ftz hp hz ho
  set ts := ps.map (fun p => mulTerm p.1 p.2) ++ zs
  have products : (ps.map (fun p => mulTerm p.1 p.2)).map ratOf = ps.map (fun p => ratOf p.1 * ratOf p.2) := by
    rw [List.map_map]
    exact List.map_congr_left fun p mem => (mulTerm_finite (hp p mem).1 (hp p mem).2).2.1
  have sum : ratE (sumTerms ts) = s := by rw [ratE_sumTerms, List.map_append, List.sum_append, products]
  have result : r = _ := dot.trans (sumRound_finite t.fmt mode ftz terms)
  rw [result, ← sum, Ne, ← ratE_eq_zero_iff]
  constructor
  · intro nonzero
    rw [if_neg nonzero, ratE_eq_signed]
    exact round_roundedOnce flushed mode ftz _ (rounds_exact _ _ (Int.natAbs_ne_zero.2 nonzero))
  · intro zero
    rw [if_pos zero]
    exact ⟨⟨_, _, unpack_packZero t _, by simp [ratOf]⟩, rfl⟩

/-! The sign of an exact zero (R65). -/

theorem zeroSign_one (mode : RMode) {x : FVal} (hx : FiniteVal x) (h : ratOf x = 0) : zeroSign mode [x] = x.sign := by
  cases hs : x.sign <;> simp [zeroSign, (isZero_iff hx).2 h, hs]

theorem zeroSign_two (mode : RMode) {x y : FVal} (hx : FiniteVal x) (hy : FiniteVal y) (h : ratOf x + ratOf y = 0) :
    zeroSign mode [x, y] = if x.sign = y.sign then x.sign else mode == .rdn := by
  by_cases same : x.sign = y.sign
  · have zeros : ratOf x = 0 ∧ ratOf y = 0 := by
      rw [ratOf_eq_signed hx, ratOf_eq_signed hy, ← same, signed_add, signed_eq_zero,
        add_eq_zero_iff_of_nonneg (abs_nonneg _) (abs_nonneg _), abs_eq_zero, abs_eq_zero] at h
      exact h
    rw [if_pos same]
    cases hs : x.sign <;> simp [zeroSign, (isZero_iff hx).2 zeros.1, (isZero_iff hy).2 zeros.2, hs, ← same]
  · rw [if_neg same]
    cases hx : x.sign <;> cases hy : y.sign <;> simp_all [zeroSign]

/-! The words. -/

section
variable {t : FType} (flushed : t.fmt.flushed = true) (mode : RMode) (ftz : Bool)
include flushed

/-- R130: a sum or a difference. -/
theorem fpAdd_roundedOnce (neg : Bool) {a b : Nat} (hx : FiniteVal (t.fmt.read ftz a)) (hy : FiniteVal (t.fmt.read ftz b)) :
    let x := t.fmt.read ftz a
    let y := if neg then (t.fmt.read ftz b).negate else t.fmt.read ftz b
    let r := fpAdd t mode ftz neg a b
    (ratOf x + ratOf y ≠ 0 → RoundedOnce t.fmt mode ftz (ratOf x + ratOf y) r) ∧
      (ratOf x + ratOf y = 0 → Stands t.fmt (if x.sign = y.sign then x.sign else mode == .rdn) 0 r.1 ∧ r.2 = 0) := by
  intro x y r
  have hy' : FiniteVal y := by cases neg <;> simp [y, hy, hy.negate.1]
  obtain ⟨rounded, zero⟩ := dot_roundedOnce flushed mode ftz (ps := []) (zs := [x, y]) (ops := [x, t.fmt.read ftz b]) (by simp)
    (by simp [x, hx, hy']) (by simp [x, hx, hy])
  have sum : (([] : List (FVal × FVal)).map (fun p => ratOf p.1 * ratOf p.2)).sum + ([x, y].map ratOf).sum = ratOf x + ratOf y := by simp
  rw [sum] at rounded zero
  exact ⟨rounded, fun h => zeroSign_two mode hx hy' h ▸ zero h⟩

/-- R130: a product. -/
theorem fpMul_roundedOnce {a b : Nat} (hx : FiniteVal (t.fmt.read ftz a)) (hy : FiniteVal (t.fmt.read ftz b)) :
    let x := t.fmt.read ftz a
    let y := t.fmt.read ftz b
    let r := fpMul t mode ftz a b
    (ratOf x * ratOf y ≠ 0 → RoundedOnce t.fmt mode ftz (ratOf x * ratOf y) r) ∧
      (ratOf x * ratOf y = 0 → Stands t.fmt (x.sign != y.sign) 0 r.1 ∧ r.2 = 0) := by
  intro x y r
  obtain ⟨rounded, zero⟩ := dot_roundedOnce flushed mode ftz (ps := [(x, y)]) (zs := []) (ops := [x, y])
    (by simp [x, y, hx, hy]) (by simp) (by simp [x, y, hx, hy])
  obtain ⟨finite, value, sign⟩ := mulTerm_finite hx hy
  have sum : ([(x, y)].map (fun p => ratOf p.1 * ratOf p.2)).sum + (([] : List FVal).map ratOf).sum = ratOf x * ratOf y := by simp
  rw [sum] at rounded zero
  exact ⟨rounded, fun h => sign ▸ zeroSign_one mode finite (value.trans h) ▸ zero h⟩

/-- R130: a fused product and sum. -/
theorem fpFma_roundedOnce {a b c : Nat} (hx : FiniteVal (t.fmt.read ftz a)) (hy : FiniteVal (t.fmt.read ftz b))
    (hz : FiniteVal (t.fmt.read ftz c)) :
    let x := t.fmt.read ftz a
    let y := t.fmt.read ftz b
    let z := t.fmt.read ftz c
    let r := fpFma t mode ftz a b c
    (ratOf x * ratOf y + ratOf z ≠ 0 → RoundedOnce t.fmt mode ftz (ratOf x * ratOf y + ratOf z) r) ∧
      (ratOf x * ratOf y + ratOf z = 0 →
        Stands t.fmt (if (x.sign != y.sign) = z.sign then x.sign != y.sign else mode == .rdn) 0 r.1 ∧ r.2 = 0) := by
  intro x y z r
  obtain ⟨rounded, zero⟩ := dot_roundedOnce flushed mode ftz (ps := [(x, y)]) (zs := [z]) (ops := [x, y, z]) (by simp [x, y, hx, hy])
    (by simp [z, hz]) (by simp [x, y, z, hx, hy, hz])
  obtain ⟨finite, value, sign⟩ := mulTerm_finite hx hy
  have sum : ([(x, y)].map (fun p => ratOf p.1 * ratOf p.2)).sum + ([z].map ratOf).sum = ratOf x * ratOf y + ratOf z := by simp
  rw [sum] at rounded zero
  exact ⟨rounded, fun h => sign ▸ zeroSign_two mode finite hz (by rw [value]; exact h) ▸ zero h⟩

end

/-- R132: a dot product of elements of any format. -/
theorem fpDot_roundedOnce (mode : RMode) (ftz : Bool) (u : FType) (n : Nat) {a b c : Nat}
    (elements : ∀ k, k < n → FiniteVal (u.fmt.read ftz (fpElem u a k)) ∧ FiniteVal (u.fmt.read ftz (fpElem u b k)))
    (hz : FiniteVal (FType.f32.fmt.read ftz c)) :
    let s := ((List.range n).map (fun k => ratOf (u.fmt.read ftz (fpElem u a k)) * ratOf (u.fmt.read ftz (fpElem u b k)))).sum +
      ratOf (FType.f32.fmt.read ftz c)
    s ≠ 0 → RoundedOnce FType.f32.fmt mode ftz s (fpDot u n mode ftz a b c) := by
  intro s
  set x := fun k => u.fmt.read ftz (fpElem u a k)
  set y := fun k => u.fmt.read ftz (fpElem u b k)
  set z := FType.f32.fmt.read ftz c
  have hp : ∀ p ∈ (List.range n).map (fun k => (x k, y k)), FiniteVal p.1 ∧ FiniteVal p.2 := by
    simpa using elements
  have ho : ∀ v ∈ (List.range n).map x ++ (List.range n).map y ++ [z], FiniteVal v := by
    simp only [List.mem_append, List.mem_map, List.mem_range, List.mem_singleton]
    rintro v ((⟨k, hk, rfl⟩ | ⟨k, hk, rfl⟩) | rfl)
    · exact (elements k hk).1
    · exact (elements k hk).2
    · exact hz
  have dot : fpDot u n mode ftz a b c = FType.f32.fmt.dot mode ftz ((List.range n).map (fun k => (x k, y k))) [z]
      ((List.range n).map x ++ (List.range n).map y ++ [z]) := by
    rw [← List.zip_map']; rfl
  have sum : (((List.range n).map (fun k => (x k, y k))).map (fun p => ratOf p.1 * ratOf p.2)).sum + ([z].map ratOf).sum = s := by
    simp [s, x, y, z, Function.comp_def]
  rw [dot, ← sum]
  exact (dot_roundedOnce (by rfl) mode ftz hp (by simp [hz]) ho).1

/-! Quotients. -/

/-- A quotient to 130 bits, sticky where it is not exact, holds the quotient (R139). -/
theorem quotExact_rounds {f : Fmt} (hfb : f.fb < 129) {m m' : Nat} (e e' : Int) (hm : m ≠ 0) (hm' : m' ≠ 0) :
    Rounds f (quotExact m e m' e') (m * 2 ^ e / (m' * 2 ^ e')) := by
  set k := 130 + Nat.log2 m' with hk
  set n := m * 2 ^ k with hn
  have exact : quotExact m e m' e' = ⟨n / m', e - e' - k, n % m' != 0⟩ := rfl
  have big : 2 ^ 129 ≤ n / m' := by
    rw [Nat.le_div_iff_mul_le (Nat.pos_of_ne_zero hm'), hn, hk]
    calc 2 ^ 129 * m' ≤ 2 ^ 129 * 2 ^ (Nat.log2 m' + 1) := Nat.mul_le_mul_left _ Nat.lt_log2_self.le
      _ = 1 * 2 ^ (130 + Nat.log2 m') := by ring
      _ ≤ m * 2 ^ (130 + Nat.log2 m') := Nat.mul_le_mul_right _ (Nat.pos_of_ne_zero hm)
  have pos : (0 : ℚ) < m' := by exact_mod_cast Nat.pos_of_ne_zero hm'
  have unit : (0 : ℚ) < 2 ^ (e - e' - k) := by positivity
  have value : (m : ℚ) * 2 ^ e / (m' * 2 ^ e') = n / m' * 2 ^ (e - e' - k) := by
    rw [hn, zpow_sub₀ two_ne_zero, zpow_sub₀ two_ne_zero]
    push_cast
    rw [zpow_natCast]
    field_simp
  have parts : (n : ℚ) = m' * (n / m' : Nat) + (n % m' : Nat) := by exact_mod_cast (Nat.div_add_mod n m').symm
  have nonzero : n / m' ≠ 0 := by have := Nat.two_pow_pos 129; omega
  rw [exact, value]
  refine ⟨?_, nonzero, fun _ => hfb.trans_le ((Nat.le_log2 nonzero).2 big)⟩
  unfold Holds
  split
  · next sticky =>
    have rest : (0 : ℚ) < (n % m' : Nat) := by exact_mod_cast Nat.pos_of_ne_zero (by simpa using sticky)
    have less : ((n % m' : Nat) : ℚ) < m' := by exact_mod_cast Nat.mod_lt n (Nat.pos_of_ne_zero hm')
    refine ⟨mul_lt_mul_of_pos_right ?_ unit, mul_lt_mul_of_pos_right ?_ unit⟩
    · rw [lt_div_iff₀ pos]; linarith
    · rw [div_lt_iff₀ pos]; linarith
  · next whole =>
    have rest : ((n % m' : Nat) : ℚ) = 0 := by exact_mod_cast (by simpa using whole)
    rw [parts, rest, add_zero, mul_div_cancel_left₀ _ pos.ne']

/-- R139: a quotient. -/
theorem fpDiv_roundedOnce {t : FType} (flushed : t.fmt.flushed = true) (mode : RMode) (ftz : Bool) {a b : Nat}
    (hx : FiniteVal (t.fmt.read ftz a)) (hy : FiniteVal (t.fmt.read ftz b)) (nx : ratOf (t.fmt.read ftz a) ≠ 0)
    (ny : ratOf (t.fmt.read ftz b) ≠ 0) :
    RoundedOnce t.fmt mode ftz (ratOf (t.fmt.read ftz a) / ratOf (t.fmt.read ftz b)) (fpDiv t mode ftz a b) := by
  obtain ⟨s, m, e, x⟩ := hx.exists_fin
  obtain ⟨s', m', e', y⟩ := hy.exists_fin
  rw [x, ratOf_fin] at nx ⊢
  rw [y, ratOf_fin] at ny ⊢
  have hm : m ≠ 0 := fun h => nx (by simp [h, signed])
  have hm' : m' ≠ 0 := fun h => ny (by simp [h, signed])
  have result : fpDiv t mode ftz a b = t.fmt.round .ieee mode ftz (s != s') (quotExact m e m' e') := by
    simp only [fpDiv, x, y, FVal.isNan, FVal.sign, hm, hm']
    rfl
  have precise : t.fmt.fb < 129 := by cases t <;> decide
  rw [result, signed_div]
  exact round_roundedOnce flushed mode ftz _ (quotExact_rounds precise e e' hm hm')

/-! Conversions. -/

/-- R142: a conversion to a format of arithmetic. -/
theorem fpCvt_roundedOnce {t u : FType} (flushed : t.fmt.flushed = true) (nsat : Bool) (mode : RMode) (ftz : Bool) {a : Nat}
    (other : u ≠ t) (hx : FiniteVal (u.fmt.read ftz a)) (nonzero : ratOf (u.fmt.read ftz a) ≠ 0) :
    RoundedOnce t.fmt mode ftz (ratOf (u.fmt.read ftz a)) (fpCvt t u nsat mode ftz a) := by
  obtain ⟨s, m, e, x⟩ := hx.exists_fin
  have fit : fitOf t nsat = .ieee := by cases t <;> simp_all [fitOf, FType.fmt]
  have result : fpCvt t u nsat mode ftz a = t.fmt.round .ieee mode ftz s ⟨m, e, false⟩ := by
    rw [fpCvt, if_neg other.symm, fit, x]; rfl
  rw [x, ratOf_fin] at nonzero ⊢
  rw [result]
  exact round_roundedOnce flushed mode ftz s (rounds_exact _ e fun h => nonzero (by simp [h, signed]))

/-- R144: a conversion from an integer. -/
theorem intToFp_roundedOnce {t : FType} (flushed : t.fmt.flushed = true) (i : IType) (mode : RMode) (ftz : Bool) {a : Nat}
    (nonzero : i.val a ≠ 0) : RoundedOnce t.fmt mode ftz (i.val a : ℚ) (intToFp t i mode ftz a) := by
  have value : (i.val a : ℚ) = ratE ⟨i.val a, 0⟩ := by simp [ratE]
  rw [value, ratE_eq_signed]
  exact round_roundedOnce flushed mode ftz _ (rounds_exact _ 0 (Int.natAbs_ne_zero.2 nonzero))

/-! The statements. -/

/-- R60 to R65, R130, R132, R139, R142, R144. -/
theorem finiteResults_roundedOnce : Claim.FloatsRoundOnce := by
  intro t mode ftz a b c flushed x y z zero
  refine ⟨fun hx hy => ?arithmetic, fun u n elements hz => fpDot_roundedOnce mode ftz u n elements hz,
    fun u nsat other hx nonzero => fpCvt_roundedOnce flushed nsat mode ftz other hx nonzero,
    fun i nonzero => intToFp_roundedOnce flushed i mode ftz nonzero⟩
  obtain ⟨add, addZero⟩ := fpAdd_roundedOnce flushed mode ftz false hx hy
  obtain ⟨sub, subZero⟩ := fpAdd_roundedOnce flushed mode ftz true hx hy
  obtain ⟨mul, mulZero⟩ := fpMul_roundedOnce flushed mode ftz hx hy
  obtain ⟨-, negated, sign⟩ := FiniteVal.negate (v := t.fmt.read ftz b) hy
  simp only [if_true, negated, sign, ← sub_eq_add_neg] at sub subZero
  refine ⟨add, addZero, sub, subZero, mul, fun h => ?_, fpDiv_roundedOnce flushed mode ftz hx hy, fun hz => ?_⟩
  · simpa only [zero, if_true] using mulZero h
  · exact fpFma_roundedOnce flushed mode ftz hx hy hz

/-- Settles O60: a magnitude rounded at its last place is a value rounded to the format's grid, and every operation hands its exact
result to that rounding; a minimum or maximum is one of its operands. -/
theorem floatsRoundOnce : Obligations.FloatsRoundOnce := ⟨finiteResults_roundedOnce, minMaxPicks⟩

end Sys2Proof.Machine
end

section
/-! PROOFS. Instruction words as rows of fields (R77, R80, R82, R88): a word holds given fields exactly when packing them makes it, and
eight bytes are a word (R6). -/

namespace Sys2Proof

/-! Fields side by side. -/

theorem append_eq_extractLsb'_iff {N n m lo : Nat} {x : BitVec n} {y : BitVec m} {w : BitVec N} :
    x ++ y = w.extractLsb' lo (n + m) ↔ x = w.extractLsb' (lo + m) n ∧ y = w.extractLsb' lo m := by
  rw [← BitVec.extractLsb'_append_extractLsb'_eq_extractLsb' (w := N) (x := w) rfl]
  constructor
  · intro h
    have high := congrArg (BitVec.extractLsb' m n) h
    have low := congrArg (BitVec.extractLsb' 0 m) h
    simp only [BitVec.extractLsb'_append_eq_of_le, le_refl, Nat.sub_self, BitVec.extractLsb'_eq_self] at high
    simp only [BitVec.extractLsb'_append_eq_of_add_le, Nat.zero_add, le_refl, BitVec.extractLsb'_eq_self] at low
    exact ⟨high, low⟩
  · rintro ⟨rfl, rfl⟩; rfl

/-- A row of fields that fills a word is read off slice by slice. -/
theorem eq_iff_eq_extractLsb' {n : Nat} {x w : BitVec n} : x = w ↔ x = w.extractLsb' 0 n := by
  rw [BitVec.extractLsb'_eq_self]

theorem ofBool1_eq_iff {b : Bool} {x : BitVec 1} : ofBool1 b = x ↔ b = bit1 x := by
  revert b x; decide

theorem guardBits_eq_iff {g : Guard} {w : Dword} : g.gn = fld w 51 1 ∧ g.gp = fld w 48 3 ↔ g = guardOf w := by
  obtain ⟨n, p⟩ := g
  have bits : Guard.gp ⟨n, p⟩ = fld w 48 3 ↔ p.val = (fld w 48 3).toNat := by
    simp [← BitVec.toNat_inj, Guard.gp]
  rw [bits, Guard.gn, ofBool1_eq_iff, guardOf, Guard.mk.injEq, Fin.ext_iff]

theorem packF_eq_iff {opc : BitVec 11} {gn : BitVec 1} {gp : BitVec 3} {d : BitVec 9} {a b c : RawOpd} {mod : BitVec 6} {w : Dword} :
    packF opc gn gp d a b c mod = w ↔
      0#1 = fld w 63 1 ∧ opc = fld w 52 11 ∧ gn = fld w 51 1 ∧ gp = fld w 48 3 ∧ d = fld w 39 9 ∧ a = rawAt w 30 11 8 ∧
      b = rawAt w 21 10 7 ∧ c = rawAt w 12 9 6 ∧ mod = fld w 0 6 := by
  obtain ⟨ac, al, aw⟩ := a
  obtain ⟨bc, bl, bw⟩ := b
  obtain ⟨cc, cl, cw⟩ := c
  rw [eq_iff_eq_extractLsb', packF]
  change @Eq (BitVec (1 + 11 + 1 + 3 + 9 + 9 + 9 + 9 + 1 + 1 + 1 + 1 + 1 + 1 + 6)) _ (w.extractLsb' 0 _) ↔ _
  simp only [append_eq_extractLsb'_iff]
  simp only [ofBool1_eq_iff, fld, rawAt, RawOpd.mk.injEq, Nat.reduceAdd]
  tauto

theorem packM_eq_iff {opc : BitVec 11} {gn : BitVec 1} {gp : BitVec 3} {data base : RawOpd} {off : BitVec 18}
    {cls ord scp xm : BitVec 2} {w : Dword} :
    packM opc gn gp data base off cls ord scp xm = w ↔
      0#1 = fld w 63 1 ∧ opc = fld w 52 11 ∧ gn = fld w 51 1 ∧ gp = fld w 48 3 ∧ data = rawAt w 39 9 8 ∧ base = rawAt w 30 11 10 ∧
      off = fld w 12 18 ∧ cls = fld w 6 2 ∧ ord = fld w 4 2 ∧ scp = fld w 2 2 ∧ xm = fld w 0 2 := by
  obtain ⟨dc, dl, dw⟩ := data
  obtain ⟨bc, bl, bw⟩ := base
  rw [eq_iff_eq_extractLsb', packM]
  change @Eq (BitVec (1 + 11 + 1 + 3 + 9 + 9 + 18 + 1 + 1 + 1 + 1 + 2 + 2 + 2 + 2)) _ (w.extractLsb' 0 _) ↔ _
  simp only [append_eq_extractLsb'_iff]
  simp only [ofBool1_eq_iff, fld, rawAt, RawOpd.mk.injEq, Nat.reduceAdd]
  tauto

theorem packB_eq_iff {opc : BitVec 11} {gn : BitVec 1} {gp : BitVec 3} {disp : BitVec 24} {ct : RawOpd} {bmod : BitVec 13}
    {w : Dword} :
    packB opc gn gp disp ct bmod = w ↔
      0#1 = fld w 63 1 ∧ opc = fld w 52 11 ∧ gn = fld w 51 1 ∧ gp = fld w 48 3 ∧ disp = fld w 24 24 ∧ ct = rawAt w 15 14 13 ∧
      bmod = fld w 0 13 := by
  obtain ⟨code, lu, wt⟩ := ct
  rw [eq_iff_eq_extractLsb', packB]
  change @Eq (BitVec (1 + 11 + 1 + 3 + 24 + 9 + 1 + 1 + 13)) _ (w.extractLsb' 0 _) ↔ _
  simp only [append_eq_extractLsb'_iff]
  simp only [ofBool1_eq_iff, fld, rawAt, RawOpd.mk.injEq, Nat.reduceAdd]
  tauto

/-- The operand field of a half as its bits stand (R88). -/
def rawHalf (x : BitVec 31) : RawOpd := ⟨x.extractLsb' 7 9, bit1 (x.extractLsb' 6 1), bit1 (x.extractLsb' 5 1)⟩

theorem packHalf_eq_iff {h : Half} {x : BitVec 31} :
    packHalf h = x ↔ BitVec.ofNat 7 h.op.code = x.extractLsb' 24 7 ∧ BitVec.ofNat 8 h.hd.val = x.extractLsb' 16 8 ∧
      rawSrc h.hs = rawHalf x ∧ h.hmod = x.extractLsb' 0 5 := by
  rw [eq_iff_eq_extractLsb', packHalf]
  obtain ⟨code, lu, wt⟩ := rawSrc h.hs
  change @Eq (BitVec (7 + 8 + 9 + 1 + 1 + 5)) _ (x.extractLsb' 0 _) ↔ _
  simp only [append_eq_extractLsb'_iff]
  simp only [ofBool1_eq_iff, rawHalf, RawOpd.mk.injEq, Nat.reduceAdd]
  tauto

theorem packH_eq_iff {hi lo : Half} {w : Dword} :
    packH hi lo = w ↔ 1#1 = fld w 63 1 ∧ 0#1 = fld w 62 1 ∧ packHalf hi = halfBits w 31 ∧ packHalf lo = halfBits w 0 := by
  rw [eq_iff_eq_extractLsb', packH]
  change @Eq (BitVec (1 + 1 + 31 + 31)) _ (w.extractLsb' 0 _) ↔ _
  simp only [append_eq_extractLsb'_iff]
  simp only [fld, halfBits, Nat.reduceAdd]
  tauto

theorem packIlleg_eq_iff {low : BitVec 52} {w : Dword} :
    (0#1 ++ 0x2FF#11 ++ low : Dword) = w ↔ 0#1 = fld w 63 1 ∧ 0x2FF#11 = fld w 52 11 ∧ low = fld w 0 52 := by
  rw [eq_iff_eq_extractLsb']
  change @Eq (BitVec (1 + 11 + 52)) _ (w.extractLsb' 0 _) ↔ _
  simp only [append_eq_extractLsb'_iff]
  simp only [fld, Nat.reduceAdd]
  tauto

/-! Bytes of words. -/

open Machine in
theorem bytesOfDword_eq_bytesOfNat (w : Dword) : bytesOfDword w = bytesOfNat 8 w.toNat := by
  simp [bytesOfDword, bytesOfNat, List.range_succ, Nat.shiftRight_eq_div_pow, Nat.div_div_eq_div_mul]

open Machine in
theorem dwordOfBytes_eq_natOfBytes (l : List Byte) : dwordOfBytes l = BitVec.ofNat 64 (natOfBytes l) := by
  have fold : l.foldr (fun b acc => b.toNat + 256 * acc) 0 = natOfBytes l := by
    induction l with
    | nil => rfl
    | cons b t ih => rw [List.foldr_cons, ih]; rfl
  rw [dwordOfBytes, fold]

open Machine in
theorem natOfBytes_bytesOfNat (n x : Nat) : natOfBytes (bytesOfNat n x) = x % 256 ^ n := by
  induction n generalizing x with
  | zero => simp [bytesOfNat, natOfBytes, Nat.mod_one]
  | succ n ih => simp [bytesOfNat, natOfBytes, ih, pow_succ', Nat.mod_mul]

open Machine in
theorem natOfBytes_lt (l : List Byte) : natOfBytes l < 256 ^ l.length := by
  induction l with
  | nil => simp [natOfBytes]
  | cons b t ih =>
    have := b.isLt
    rw [natOfBytes, List.length_cons, pow_succ]
    omega

open Machine in
theorem bytesOfNat_natOfBytes (l : List Byte) : bytesOfNat l.length (natOfBytes l) = l := by
  induction l with
  | nil => rfl
  | cons b t ih =>
    have lt := b.isLt
    have rest : (b.toNat + 256 * natOfBytes t) / 256 = natOfBytes t := by omega
    simp [bytesOfNat, natOfBytes, rest, ih, BitVec.ofNat_add, BitVec.ofNat_mul]

theorem length_bytesOfDword (w : Dword) : (bytesOfDword w).length = 8 := by simp [bytesOfDword]

theorem dwordOfBytes_bytesOfDword (w : Dword) : dwordOfBytes (bytesOfDword w) = w := by
  rw [dwordOfBytes_eq_natOfBytes, bytesOfDword_eq_bytesOfNat, natOfBytes_bytesOfNat, show 256 ^ 8 = 2 ^ 64 by norm_num,
    Nat.mod_eq_of_lt w.isLt, BitVec.ofNat_toNat, BitVec.setWidth_eq]

theorem bytesOfDword_dwordOfBytes {l : List Byte} (h : l.length = 8) : bytesOfDword (dwordOfBytes l) = l := by
  have lt := natOfBytes_lt l
  rw [h, show 256 ^ 8 = 2 ^ 64 by norm_num] at lt
  rw [bytesOfDword_eq_bytesOfNat, dwordOfBytes_eq_natOfBytes, BitVec.toNat_ofNat, Nat.mod_eq_of_lt lt, ← h, bytesOfNat_natOfBytes]

end Sys2Proof
end

section
/-! PROOFS. Operand fields (R78, R83 to R87): what a position reads from a field that passes its checks is the operand which that field
encodes, and it is the literal where the code is 511. -/

namespace Sys2Proof

/-! Codes (R83). -/

theorem srcOfCode_congr {code : Nat} (h : code < 511) (l l' : Dword) : srcOfCode code l = srcOfCode code l' := by
  have fp : code - 496 < 15 := by omega
  simp [srcOfCode, fp]

theorem srcOfCode_literal (l : Dword) : srcOfCode 511 l = some (.lit l) := rfl

theorem code_of_srcOfCode {code : Nat} {l : Dword} {o : Src} (hc : code < 512) (h : srcOfCode code l = some o) : o.code = code := by
  unfold srcOfCode at h
  split_ifs at h <;> cases h <;> simp only [Src.code] <;> omega

theorem eq_literal_of_srcOfCode {code : Nat} {l x : Dword} (h : srcOfCode code l = some (.lit x)) : 511 ≤ code ∧ x = l := by
  unfold srcOfCode at h
  split_ifs at h <;> cases h
  exact ⟨by omega, rfl⟩

/-! Positions. -/

/-- Checks 7 to 13 of R97 for one position. -/
def PosSpec.ok (p : PosSpec) (r : RawOpd) : Bool := p.accepts r.code.toNat && p.unusedOk r && p.lastOk r && p.waitOk r

/-- Extension codes, none of them that of the literal (R83). -/
def smallCodes (codes : List Nat) : Bool := codes.all (fun n => decide (n < 511))

theorem smallCodes_iff {codes : List Nat} : smallCodes codes = true ↔ ∀ n ∈ codes, n < 511 := by simp [smallCodes]

/-- A position that stands as a source, or as the destination of a format F or X word: a predicate is a destination there alone, and an
extension code is never that of the literal. -/
def PosSpec.fits (dst : Bool) (p : PosSpec) : Bool :=
  match p with
  | .none | .dst _ _ _ _ => true
  | .src _ _ _ _ _ _ _ | .predSrc _ => !dst
  | .predDst => dst
  | .ext codes _ => !dst && smallCodes codes

/-- The field that holds an operand. -/
def rawOf (dst : Bool) (o : Opd) : RawOpd := if dst then rawDst o else rawSrc o

theorem wf_iff {p : PosSpec} {dst : Bool} {o : Opd} :
    p.wf dst o = true ↔ p.ok (rawOf dst o) = true ∧ p.readOpd (rawOf dst o) (o.lit?.getD 0) = o := by
  simp [PosSpec.wf, PosSpec.ok, rawOf]

/-- What a field that passes its checks reads as: the operand that it encodes, whose literal is the one given where the code is 511. -/
structure Faithful (dst : Bool) (p : PosSpec) (r : RawOpd) (l : Dword) : Prop where
  raw : rawOf dst (p.readOpd r l) = r
  lit : (p.readOpd r l).lit? = if r.code = 511#9 then some l else Option.none
  same : r.code ≠ 511#9 → ∀ l', p.readOpd r l' = p.readOpd r l

/-- A code that names a source keeps it, and the literal is that of code 511 alone (R83, R85). -/
theorem faithful_of_register {dst : Bool} {p : PosSpec} {r : RawOpd} {l : Dword} {o : Src}
    (hd : dst = true → r.lu = false ∧ r.w = false) (ho : srcOfCode r.code.toNat 0 = some o)
    (read : ∀ l o, srcOfCode r.code.toNat l = some o → p.readOpd r l = .src o r.lu r.w) : Faithful dst p r l := by
  obtain ⟨c, lu, w⟩ := r
  replace ho : srcOfCode c.toNat 0 = some o := ho
  have small : c ≠ 511#9 → c.toNat < 511 := by bv_omega
  have ⟨x, hx, hl⟩ : ∃ x, srcOfCode c.toNat l = some x ∧ (Opd.src x lu w).lit? = if c = 511#9 then some l else Option.none := by
    by_cases hc : c = 511#9
    · subst hc; exact ⟨.lit l, srcOfCode_literal l, by simp [Opd.lit?]⟩
    · refine ⟨o, by rw [← ho]; exact srcOfCode_congr (small hc) _ _, ?_⟩
      rw [if_neg hc]
      cases o with
      | lit x => have := (eq_literal_of_srcOfCode ho).1; have := small hc; omega
      | _ => rfl
  refine ⟨?_, by rw [read l x hx]; exact hl, fun hc l' => ?_⟩
  · rw [read l x hx]
    have code : BitVec.ofNat 9 x.code = c := by rw [code_of_srcOfCode c.isLt hx, BitVec.ofNat_toNat, BitVec.setWidth_eq]
    cases dst with
    | false => simp [rawOf, rawSrc, code]
    | true => obtain ⟨rfl, rfl⟩ := hd rfl; simp [rawOf, rawDst, rawSrc, code]
  · rw [read l x hx, read l' x (by rw [← hx]; exact srcOfCode_congr (small hc) _ _)]

/-- A code below 16 is a predicate and its negation (R86). -/
theorem faithful_of_predicate {dst : Bool} {p : PosSpec} {r : RawOpd} {l : Dword} (below : r.code.toNat < 16)
    (marks : r.lu = false ∧ r.w = !dst)
    (read : ∀ l, p.readOpd r l = .pred (r.code.toNat / 8 % 2 == 1) ⟨r.code.toNat % 8, Nat.mod_lt _ (by decide)⟩) :
    Faithful dst p r l := by
  obtain ⟨c, lu, w⟩ := r
  obtain ⟨rfl, rfl⟩ : lu = false ∧ w = !dst := marks
  have code : BitVec.ofNat 9 ((if (c.toNat / 8 % 2 == 1) = true then 8 else 0) + c.toNat % 8) = c := by
    apply BitVec.eq_of_toNat_eq
    simp only [BitVec.toNat_ofNat, beq_iff_eq] at below ⊢
    split <;> omega
  have small : c ≠ 511#9 := by rintro rfl; simp at below
  refine ⟨?_, by rw [read, if_neg small]; rfl, fun _ l' => by rw [read, read]⟩
  rw [read]
  cases dst <;> simp only [rawOf, rawDst, rawSrc, code, Bool.not_true, Bool.not_false, if_true, if_false, Bool.false_eq_true]

/-- Every position reads back what the field encodes, kind by kind of position (R78, R83 to R86). -/
theorem faithful_of_ok {dst : Bool} {p : PosSpec} {r : RawOpd} (fits : p.fits dst = true) (ok : p.ok r = true)
    (hd : dst = true → r.lu = false ∧ r.w = false) (l : Dword) : Faithful dst p r l := by
  simp only [PosSpec.ok, Bool.and_eq_true] at ok
  obtain ⟨⟨⟨accepts, unused⟩, last⟩, wait⟩ := ok
  cases p with
  | none =>
    obtain ⟨c, lu, w⟩ := r
    obtain ⟨⟨rfl, rfl⟩, rfl⟩ : (c = 0#9 ∧ lu = false) ∧ w = false := by simpa [PosSpec.unusedOk] using unused
    exact ⟨by cases dst <;> rfl, rfl, fun _ _ => rfl⟩
  | dst | src =>
    obtain ⟨o, ho⟩ : ∃ o, srcOfCode r.code.toNat 0 = some o := by
      simp only [PosSpec.accepts] at accepts
      split at accepts <;> simp_all
    exact faithful_of_register hd ho fun l o h => by simp [PosSpec.readOpd, h]
  | predSrc neg =>
    obtain rfl : dst = false := by simpa [PosSpec.fits] using fits
    obtain ⟨below, -⟩ : r.code.toNat < 16 ∧ _ := by simpa [PosSpec.accepts] using accepts
    exact faithful_of_predicate below ⟨by simpa [PosSpec.lastOk] using last, by simpa [PosSpec.waitOk] using wait⟩ fun _ => rfl
  | predDst =>
    obtain rfl : dst = true := by simpa [PosSpec.fits] using fits
    have below : r.code.toNat < 8 := by simpa [PosSpec.accepts] using accepts
    exact faithful_of_predicate (by omega) (hd rfl) fun _ => rfl
  | ext codes wt =>
    obtain ⟨c, lu, w⟩ := r
    obtain ⟨rfl, bound⟩ : dst = false ∧ ∀ n ∈ codes, n < 511 := by simpa [PosSpec.fits, smallCodes_iff] using fits
    obtain rfl : lu = false := by simpa [PosSpec.lastOk] using last
    have small : c ≠ 511#9 := by
      have := bound c.toNat (by simpa [PosSpec.accepts] using accepts)
      bv_omega
    exact ⟨by simp [rawOf, rawSrc, PosSpec.readOpd], by simp [PosSpec.readOpd, Opd.lit?, small], fun _ _ => rfl⟩

/-- What a position reads from a field is the operand that the field encodes, where the field passes its checks and the literal is the
one given. -/
theorem readOpd_eq_iff {dst : Bool} {p : PosSpec} (fits : p.fits dst = true) {r : RawOpd}
    (hd : dst = true → r.lu = false ∧ r.w = false) {l : Dword} {o : Opd} :
    p.ok r = true ∧ p.readOpd r l = o ↔ rawOf dst o = r ∧ p.wf dst o = true ∧ ∀ x, o.lit? = some x → x = l := by
  constructor
  · rintro ⟨ok, rfl⟩
    have faithful := faithful_of_ok fits ok hd l
    rw [wf_iff, faithful.raw, faithful.lit]
    refine ⟨rfl, ⟨ok, ?_⟩, fun x h => by split at h <;> simp_all⟩
    split
    · rfl
    · next hc => exact faithful.same hc _
  · rintro ⟨rfl, wf, lits⟩
    obtain ⟨ok, read⟩ := wf_iff.1 wf
    refine ⟨ok, ?_⟩
    have faithful := faithful_of_ok fits ok hd (o.lit?.getD 0)
    by_cases hc : (rawOf dst o).code = 511#9
    · have lit := faithful.lit
      rw [read, if_pos hc] at lit
      rwa [lits _ lit] at read
    · rw [faithful.same hc, read]

/-- A source position (R78). -/
theorem readSrc_eq_iff {p : PosSpec} (fits : p.fits false = true) {r : RawOpd} {l : Dword} {o : Opd} :
    p.ok r = true ∧ p.readOpd r l = o ↔ rawSrc o = r ∧ p.wf false o = true ∧ ∀ x, o.lit? = some x → x = l :=
  readOpd_eq_iff fits (by simp)

theorem isLit_iff {dst : Bool} {p : PosSpec} (fits : p.fits dst = true) {o : Opd} (wf : p.wf dst o = true) :
    o.isLit = true ↔ (rawOf dst o).code = 511#9 := by
  obtain ⟨ok, read⟩ := wf_iff.1 wf
  have marks : dst = true → (rawOf dst o).lu = false ∧ (rawOf dst o).w = false := by rintro rfl; exact ⟨rfl, rfl⟩
  have lit := (faithful_of_ok fits ok marks (o.lit?.getD 0)).lit
  rw [read] at lit
  rw [Opd.isLit, lit]
  split
  · next hc => simp only [hc, Option.isSome_some]
  · next hc => simp only [hc, Option.isSome_none, Bool.false_eq_true]

theorem isLit_src_iff {p : PosSpec} (fits : p.fits false = true) {o : Opd} (wf : p.wf false o = true) :
    o.isLit = true ↔ (rawSrc o).code = 511#9 := isLit_iff fits wf

/-- A position accepts the literal (R85). -/
def PosSpec.takesLit (p : PosSpec) : Bool :=
  match p with
  | .src _ _ _ _ lit _ _ => lit
  | _ => false

/-- An operand at a position that refuses the literal is another. -/
theorem lit?_eq_none {dst : Bool} {p : PosSpec} {o : Opd} (fits : p.fits dst = true) (refuses : p.takesLit = false)
    (wf : p.wf dst o = true) : o.lit? = none := by
  by_contra isLit
  have code := (isLit_iff fits wf).1 (Option.isSome_iff_ne_none.2 isLit)
  obtain ⟨ok, -⟩ := wf_iff.1 wf
  simp only [PosSpec.ok, Bool.and_eq_true] at ok
  obtain ⟨⟨⟨accepts, unused⟩, -⟩, -⟩ := ok
  rw [code] at accepts
  cases p with
  | none => simp [PosSpec.unusedOk, code] at unused
  | dst => exact Bool.noConfusion accepts
  | src => exact Bool.noConfusion (accepts.symm.trans refuses)
  | predSrc => simp [PosSpec.accepts] at accepts
  | predDst => simp [PosSpec.accepts] at accepts
  | ext codes w =>
    simp only [PosSpec.fits, Bool.and_eq_true, smallCodes_iff] at fits
    exact absurd (fits.2 511 (List.contains_iff_mem.1 accepts)) (by decide)

/-- A destination position of a format F or X word, whose field is a code alone (R78). -/
theorem readDst_eq_iff {p : PosSpec} (fits : p.fits true = true) {c : BitVec 9} {l : Dword} {o : Opd} :
    (p.accepts c.toNat = true ∧ p.unusedOk ⟨c, false, false⟩ = true) ∧ p.readOpd ⟨c, false, false⟩ l = o ↔
      (rawDst o).code = c ∧ p.wf true o = true := by
  have unmarked : p.lastOk ⟨c, false, false⟩ = true ∧ p.waitOk ⟨c, false, false⟩ = true := by
    cases p <;> simp_all [PosSpec.fits, PosSpec.lastOk, PosSpec.waitOk]
  have ok : p.ok ⟨c, false, false⟩ = true ↔ p.accepts c.toNat = true ∧ p.unusedOk ⟨c, false, false⟩ = true := by
    simp [PosSpec.ok, unmarked]
  have field : rawOf true o = ⟨c, false, false⟩ ↔ (rawDst o).code = c := by simp [rawOf, rawDst]
  rw [← ok, readOpd_eq_iff fits (fun _ => ⟨rfl, rfl⟩), field]
  refine and_congr_right fun _ => and_iff_left_of_imp fun wf x hx => ?_
  have noLit : p.takesLit = false := by cases p <;> simp_all [PosSpec.fits, PosSpec.takesLit]
  exact absurd (hx.symm.trans (lit?_eq_none fits noLit wf)) (by simp)

end Sys2Proof
end

section
/-! PROOFS. The forms: their operand positions (R78) and the opcodes that select them (R92, R93). -/

namespace Sys2Proof

/-! Positions. -/

theorem smallCodes_range {n : Nat} (h : n ≤ 511) : smallCodes (List.range n) = true :=
  smallCodes_iff.2 fun _ hx => (List.mem_range.1 hx).trans_le h

theorem smallCodes_filter {n : Nat} (h : n ≤ 511) (f : Nat → Bool) : smallCodes ((List.range n).filter f) = true :=
  smallCodes_iff.2 fun x hx => smallCodes_iff.1 (smallCodes_range h) x (List.mem_filter.1 hx).1

@[simp] theorem smallCodes_accrdExt (ty : Nat) : smallCodes (accrdExt ty) = true := smallCodes_filter (by decide) _
@[simp] theorem smallCodes_ropExt (scan : Bool) (rop : Nat) : smallCodes (ropExt scan rop) = true := smallCodes_filter (by decide) _
@[simp] theorem smallCodes_fcvtExt (ty : Nat) : smallCodes (fcvtExt ty) = true := smallCodes_filter (by decide) _
@[simp] theorem smallCodes_ctlRegs : smallCodes (ctlRegs.map Prod.fst) = true := by decide

theorem smallCodes_short : smallCodes [0] = true ∧ smallCodes [0, 1] = true ∧ smallCodes [0, 1, 2] = true ∧
    smallCodes (List.range 8) = true ∧ smallCodes (List.range 16) = true := by decide

/-- A form's positions stand where they are used: the first as a destination, the others as sources. -/
def SpecF.Fits (p : SpecF) : Prop := p.d.fits true = true ∧ p.a.fits false = true ∧ p.b.fits false = true ∧ p.c.fits false = true

/-- The table of the forms of formats F and X, read form by form: only the extension fields of a few list codes. -/
theorem fSpec_fits {k : FKind} {mod sub cb cc : Nat} {p : SpecF} (h : fSpec k mod sub cb cc = some p) : p.Fits := by
  cases k <;> simp only [fSpec, specInt, specFp, specPacked, specIf] at h <;> split_ifs at h <;> cases h <;>
    simp [SpecF.Fits, PosSpec.fits, smallCodes_short, dstR, dstS, srcI, srcF, srcU, srcS, srcPair, srcGroup, srcMask, srcR, tilePos,
      accPos]

theorem mData_fits (k : MKind) (sub xm : Nat) : (mData k sub xm).fits false = true := by
  cases k with
  | st | sts => simp only [mData]; split <;> rfl
  | _ => rfl

theorem mBase_fits (k : MKind) : (mBase k).fits false = true := by cases k <;> rfl

theorem ct_fits (k : BKind) : k.ct.fits false = true := by cases k <;> rfl

theorem halfSpec_fits {op : HalfOp} {hmod : Nat} {p : PosSpec} (h : halfSpec op hmod = some p) : p.fits false = true := by
  cases op <;> simp only [halfSpec] at h <;> split_ifs at h <;> cases h <;> rfl

/-! Opcodes. -/

theorem FKind.mem_all (k : FKind) : k ∈ FKind.all := by cases k <;> decide

theorem MKind.mem_all (k : MKind) : k ∈ MKind.all := by cases k <;> decide

/-- An opcode is one of those a form takes. -/
def FKind.Takes (k : FKind) (opc : Nat) : Prop := k.opcode ≤ opc ∧ opc < k.opcode + k.block

def MKind.Takes (k : MKind) (opc : Nat) : Prop := k.opcode ≤ opc ∧ opc < k.opcode + k.block

theorem FKind.takes_iff {k : FKind} {opc : Nat} : k.Takes opc ↔ k ∈ FKind.ofOpcode opc := by
  simp [FKind.ofOpcode, FKind.Takes, FKind.mem_all]

theorem MKind.takes_iff {k : MKind} {opc : Nat} : k.Takes opc ↔ k ∈ MKind.ofOpcode opc := by
  simp [MKind.ofOpcode, MKind.Takes, MKind.mem_all]

/-- No opcode of formats F and X is one of format B, ILLEG's, or that of a word of zeros. -/
theorem FKind.opcodes_apart : ∀ k ∈ FKind.all, ∀ j < k.block,
    BKind.ofOpcode (k.opcode + j) = none ∧ k.opcode + j ≠ 0x2FF ∧ 0 < k.opcode + j ∧ k.opcode + j < 2048 := by
  decide +kernel

/-- No opcode of format M is one of another format, ILLEG's, or that of a word of zeros. -/
theorem MKind.opcodes_apart : ∀ k ∈ MKind.all, ∀ j < k.block,
    BKind.ofOpcode (k.opcode + j) = none ∧ FKind.ofOpcode (k.opcode + j) = [] ∧ k.opcode + j ≠ 0x2FF ∧ 0 < k.opcode + j ∧
      k.opcode + j < 2048 := by
  decide +kernel

theorem FKind.Takes.apart {k : FKind} {opc : Nat} (h : k.Takes opc) :
    BKind.ofOpcode opc = none ∧ opc ≠ 0x2FF ∧ 0 < opc ∧ opc < 2048 := by
  obtain ⟨low, high⟩ := h
  have := FKind.opcodes_apart k k.mem_all (opc - k.opcode) (by omega)
  rwa [Nat.add_sub_cancel' low] at this

theorem MKind.Takes.apart {k : MKind} {opc : Nat} (h : k.Takes opc) :
    BKind.ofOpcode opc = none ∧ FKind.ofOpcode opc = [] ∧ opc ≠ 0x2FF ∧ 0 < opc ∧ opc < 2048 := by
  obtain ⟨low, high⟩ := h
  have := MKind.opcodes_apart k k.mem_all (opc - k.opcode) (by omega)
  rwa [Nat.add_sub_cancel' low] at this

theorem FKind.selects_mod (k : FKind) (mod : Nat) : k.selects (mod % 4) = k.selects mod := by
  cases k <;> simp [FKind.selects]

/-- Two forms that share an opcode part its MOD values among them, by the low two bits (R167, R323, R377). -/
theorem FKind.selected_once : ∀ k ∈ FKind.all, ∀ k' ∈ FKind.all, k'.opcode < k.opcode + k.block →
    k.opcode < k'.opcode + k'.block → ∀ m < 4, k.selects m = true → k'.selects m = true → k' = k := by
  decide +kernel

/-- The CCTL forms part the XM values of their opcode among them (R271). -/
theorem MKind.selected_once : ∀ k ∈ MKind.all, ∀ k' ∈ MKind.all, k'.opcode < k.opcode + k.block →
    k.opcode < k'.opcode + k'.block → ∀ xm < 4, k.selects xm = true → k'.selects xm = true → k' = k := by
  decide +kernel

/-- An opcode and a MOD value select the form that takes them. -/
theorem FKind.Takes.find {k : FKind} {opc mod : Nat} (h : k.Takes opc) (hs : k.selects mod = true) :
    (FKind.ofOpcode opc).find? (fun x => x.selects mod) = some k := by
  obtain ⟨k', found⟩ : ∃ k', (FKind.ofOpcode opc).find? (fun x => x.selects mod) = some k' :=
    Option.isSome_iff_exists.1 (List.find?_isSome.2 ⟨k, FKind.takes_iff.1 h, hs⟩)
  obtain ⟨low, high⟩ := h
  obtain ⟨low', high'⟩ := FKind.takes_iff.2 (List.mem_of_find?_eq_some found)
  have hs' : k'.selects mod = true := by simpa using List.find?_some found
  rw [found, FKind.selected_once k k.mem_all k' k'.mem_all (by omega) (by omega) (mod % 4) (Nat.mod_lt _ (by decide))
    (by rwa [FKind.selects_mod]) (by rwa [FKind.selects_mod])]

theorem MKind.Takes.find {k : MKind} {opc xm : Nat} (h : k.Takes opc) (hx : xm < 4) (hs : k.selects xm = true) :
    (MKind.ofOpcode opc).find? (fun x => x.selects xm) = some k := by
  obtain ⟨k', found⟩ : ∃ k', (MKind.ofOpcode opc).find? (fun x => x.selects xm) = some k' :=
    Option.isSome_iff_exists.1 (List.find?_isSome.2 ⟨k, MKind.takes_iff.1 h, hs⟩)
  obtain ⟨low, high⟩ := h
  obtain ⟨low', high'⟩ := MKind.takes_iff.2 (List.mem_of_find?_eq_some found)
  have hs' : k'.selects xm = true := by simpa using List.find?_some found
  rw [found, MKind.selected_once k k.mem_all k' k'.mem_all (by omega) (by omega) xm hx hs hs']

/-- Forms that share an opcode agree on whether DATA is a pure source (R76). -/
theorem MKind.dataIsSrc_shared : ∀ k ∈ MKind.all, ∀ k' ∈ MKind.all, k'.opcode < k.opcode + k.block →
    k.opcode < k'.opcode + k'.block → k'.dataIsSrc = k.dataIsSrc := by
  decide +kernel

/-- The form that an opcode of format B names. -/
theorem BKind.ofOpcode_eq_some_iff {k : BKind} {opc : Nat} : BKind.ofOpcode opc = some k ↔ k.opcode = opc := by
  constructor
  · intro h
    simpa using List.find?_some h
  · rintro rfl
    cases k <;> rfl

theorem BKind.opcode_bounds (k : BKind) : k.opcode ≠ 0x2FF ∧ 0 < k.opcode ∧ k.opcode < 2048 := by cases k <;> decide

/-- No opcode is ILLEG's (R166). -/
theorem ofOpcode_illeg : BKind.ofOpcode 0x2FF = none ∧ FKind.ofOpcode 0x2FF = [] ∧ MKind.ofOpcode 0x2FF = [] := by decide +kernel

/-! The format view of an instruction (R75). -/

@[simp] theorem formOf_mkF (k : FKind) (f : WordF) : formOf (k.mk f) = .f k f := by cases k <;> rfl
@[simp] theorem formOf_mkM (k : MKind) (m : WordM) : formOf (k.mk m) = .m k m := by cases k <;> rfl
@[simp] theorem formOf_mkB (k : BKind) (b : WordB) : formOf (k.mk b) = .b k b := by cases k <;> rfl

/-- The instruction of a form; none for a step without a word. -/
def Form.instr (x : Form) : Option Instr :=
  match x with
  | .f k w => some (k.mk w)
  | .m k w => some (k.mk w)
  | .b k w => some (k.mk w)
  | .h hi lo => some (.pairedWord hi lo)
  | .illeg low => some (.illeg low)
  | .event => none

/-- The format view says all of an instruction word. -/
theorem instr_formOf (i : Instr) : (formOf i).instr.getD i = i := by cases i <;> rfl

theorem eq_mkF {i : Instr} {k : FKind} {f : WordF} (h : formOf i = .f k f) : i = k.mk f := by
  rw [← instr_formOf i, h]; rfl

theorem eq_mkM {i : Instr} {k : MKind} {m : WordM} (h : formOf i = .m k m) : i = k.mk m := by
  rw [← instr_formOf i, h]; rfl

theorem eq_mkB {i : Instr} {k : BKind} {b : WordB} (h : formOf i = .b k b) : i = k.mk b := by
  rw [← instr_formOf i, h]; rfl

theorem eq_pairedWord {i : Instr} {hi lo : Half} (h : formOf i = .h hi lo) : i = .pairedWord hi lo := by
  rw [← instr_formOf i, h]; rfl

theorem eq_illeg {i : Instr} {low : BitVec 52} (h : formOf i = .illeg low) : i = .illeg low := by
  rw [← instr_formOf i, h]; rfl

end Sys2Proof
end

section
/-! PROOFS. The decoder of formats F and X (R77, R78, R85, R97): it gives an instruction of a form for a word exactly where the word
encodes that instruction. -/

namespace Sys2Proof

@[simp] theorem firstFail_nil : firstFail [] = none := rfl

@[simp] theorem firstFail_cons (b : Bool) (r : Reject) (l : List (Bool × Reject)) :
    firstFail ((b, r) :: l) = if b then firstFail l else some r := by cases b <;> rfl

theorem firstFail_eq_none_iff {l : List (Bool × Reject)} : firstFail l = none ↔ ∀ e ∈ l, e.1 = true := by
  induction l with
  | nil => simp
  | cons e t ih => obtain ⟨b, r⟩ := e; cases b <;> simp [ih]

theorem not_forall_of_firstFail {l : List (Bool × Reject)} {r : Reject} (h : firstFail l = some r) : ¬ ∀ e ∈ l, e.1 = true :=
  fun pass => nomatch h.symm.trans (firstFail_eq_none_iff.2 pass)

theorem FKind.mk_inj {k : FKind} {f f' : WordF} : k.mk f = k.mk f' ↔ f = f' :=
  ⟨fun h => by simpa using congrArg formOf h, congrArg _⟩

theorem MKind.mk_inj {k : MKind} {m m' : WordM} : k.mk m = k.mk m' ↔ m = m' :=
  ⟨fun h => by simpa using congrArg formOf h, congrArg _⟩

theorem BKind.mk_inj {k : BKind} {b b' : WordB} : k.mk b = k.mk b' ↔ b = b' :=
  ⟨fun h => by simpa using congrArg formOf h, congrArg _⟩

/-- An instruction is well formed, and its words are the given word and, where it has two, the given literal. -/
def Encodes (i : Instr) (w lit : Dword) : Prop := i.wf = true ∧ ∃ t, encode i = w :: t ∧ ∀ x ∈ t, x = lit

/-! Formats F and X. -/

theorem decodeF_eq_ok_iff {k : FKind} {w lit : Dword} {i : Instr} :
    decodeF k w lit = .ok i ↔ ∃ p, fSpec k (fld w 0 6).toNat (BitVec.ofNat 4 (opcOf w - k.opcode)).toNat (rawAt w 21 10 7).code.toNat
        (rawAt w 12 9 6).code.toNat = some p ∧
      firstFail (checksF k (fld w 0 6).toNat p ⟨fld w 39 9, false, false⟩ (rawAt w 30 11 8) (rawAt w 21 10 7) (rawAt w 12 9 6) lit) =
        none ∧
      i = k.mk ⟨guardOf w, p.d.readOpd ⟨fld w 39 9, false, false⟩ lit, p.a.readOpd (rawAt w 30 11 8) lit,
        p.b.readOpd (rawAt w 21 10 7) lit, p.c.readOpd (rawAt w 12 9 6) lit, fld w 0 6, BitVec.ofNat 4 (opcOf w - k.opcode)⟩ := by
  simp only [decodeF]
  split
  · next h => simp only [h, reduceCtorEq, false_and, exists_false]
  · next p h =>
    simp only [h, Option.some.injEq, exists_eq_left']
    split
    · next r hr => simp only [hr, reduceCtorEq, false_and]
    · next hr => simp only [hr, true_and, Except.ok.injEq, eq_comm]

theorem checksF_pass_iff {k : FKind} {mod : Nat} {p : SpecF} {d a b c : RawOpd} {lit : Dword} :
    firstFail (checksF k mod p d a b c lit) = none ↔
      (p.d.accepts d.code.toNat = true ∧ p.d.unusedOk d = true) ∧ p.a.ok a = true ∧ p.b.ok b = true ∧ p.c.ok c = true ∧
      literalOpnd a b c = none ∧
      uniformOkF k mod (p.d.readOpd d lit) (p.a.readOpd a lit) (p.b.readOpd b lit) (p.c.readOpd c lit) = true := by
  rw [firstFail_eq_none_iff]
  simp only [checksF, List.forall_mem_cons, List.not_mem_nil, PosSpec.ok, Bool.and_eq_true, Option.isNone_iff_eq_none]
  tauto

/-- At most one of three operands is the literal (R85). -/
theorem literalOpnd_eq_none_iff {a b c : RawOpd} : literalOpnd a b c = none ↔
    (if a.code = 511#9 then 1 else 0) + (if b.code = 511#9 then 1 else 0) + (if c.code = 511#9 then 1 else 0) ≤ 1 := by
  unfold literalOpnd
  simp only [Bool.or_eq_true, Bool.and_eq_true, beq_iff_eq]
  split_ifs <;> simp_all

theorem literalOpnd_rawSrc_iff {pa pb pc : PosSpec} {a b c : Opd} (fa : pa.fits false = true) (fb : pb.fits false = true)
    (fc : pc.fits false = true) (ha : pa.wf false a = true) (hb : pb.wf false b = true) (hc : pc.wf false c = true) :
    literalOpnd (rawSrc a) (rawSrc b) (rawSrc c) = none ↔
      (if a.isLit then 1 else 0) + (if b.isLit then 1 else 0) + (if c.isLit then 1 else 0) ≤ 1 := by
  simp only [literalOpnd_eq_none_iff, isLit_src_iff fa ha, isLit_src_iff fb hb, isLit_src_iff fc hc]

theorem literals_agree_iff {a b c : Opd} {lit : Dword}
    (once : (if a.isLit then 1 else 0) + (if b.isLit then 1 else 0) + (if c.isLit then 1 else 0) ≤ 1) :
    (∀ x, literalOf [a, b, c] = some x → x = lit) ↔
      (∀ x, a.lit? = some x → x = lit) ∧ (∀ x, b.lit? = some x → x = lit) ∧ ∀ x, c.lit? = some x → x = lit := by
  simp only [Opd.isLit] at once
  cases ha : a.lit? <;> cases hb : b.lit? <;> cases hc : c.lit? <;> simp_all [literalOf]

/-- The sub-op field is the opcode's place in its block (R93). -/
theorem opcodeBits_iff {base block : Nat} {sub : BitVec 4} {w : Dword} (small : block ≤ 16) (room : base + block ≤ 2048)
    (low : base ≤ opcOf w) (high : opcOf w < base + block) :
    sub = BitVec.ofNat 4 (opcOf w - base) ↔ sub.toNat < block ∧ BitVec.ofNat 11 (base + sub.toNat) = fld w 52 11 := by
  have opc : opcOf w = (fld w 52 11).toNat := rfl
  rw [← BitVec.toNat_inj, ← BitVec.toNat_inj, BitVec.toNat_ofNat, BitVec.toNat_ofNat, ← opc]
  omega

theorem FKind.block_room (k : FKind) : k.block ≤ 16 ∧ k.opcode + k.block ≤ 2048 := by cases k <;> decide
theorem MKind.block_room (k : MKind) : k.block ≤ 16 ∧ k.opcode + k.block ≤ 2048 := by cases k <;> decide

theorem wfF_iff {k : FKind} {f : WordF} : wfF k f = true ↔
    (k.selects f.mod.toNat = true ∧ f.sub.toNat < k.block) ∧
    ∃ p, fSpec k f.mod.toNat f.sub.toNat (rawSrc f.b).code.toNat (rawSrc f.c).code.toNat = some p ∧
      p.d.wf true f.dst = true ∧ p.a.wf false f.a = true ∧ p.b.wf false f.b = true ∧ p.c.wf false f.c = true ∧
      ((if f.a.isLit then 1 else 0) + (if f.b.isLit then 1 else 0) + (if f.c.isLit then 1 else 0) ≤ 1) ∧
      uniformOkF k f.mod.toNat f.dst f.a f.b f.c = true := by
  rw [wfF, Bool.and_eq_true, Bool.and_eq_true, decide_eq_true_eq]
  refine and_congr_right fun _ => ?_
  split
  · next h => simp only [h, reduceCtorEq, false_and, exists_false, Bool.false_eq_true]
  · next p h => simp only [h, Option.some.injEq, exists_eq_left', Bool.and_eq_true, decide_eq_true_eq, and_assoc]

theorem encodes_mkF_iff {k : FKind} {f : WordF} {w lit : Dword} : Encodes (k.mk f) w lit ↔
    wfF k f = true ∧ packF (BitVec.ofNat 11 (k.opcode + f.sub.toNat)) f.guard.gn f.guard.gp (rawDst f.dst).code (rawSrc f.a)
      (rawSrc f.b) (rawSrc f.c) f.mod = w ∧ ∀ x, literalOf [f.a, f.b, f.c] = some x → x = lit := by
  simp only [Encodes, Instr.wf, encode, formOf_mkF, List.cons.injEq, and_assoc, exists_and_left, exists_eq_left', Option.mem_toList]

/-- The decoder of formats F and X undoes and is undone by their encoding (R77, R78). -/
theorem decodeF_iff {k : FKind} {f : WordF} {w lit : Dword} (full : fld w 63 1 = 0#1) (takes : k.Takes (opcOf w))
    (selects : k.selects (fld w 0 6).toNat = true) : decodeF k w lit = .ok (k.mk f) ↔ Encodes (k.mk f) w lit := by
  have opcode := fun s : BitVec 4 => opcodeBits_iff (sub := s) k.block_room.1 k.block_room.2 takes.1 takes.2
  rw [decodeF_eq_ok_iff, encodes_mkF_iff, packF_eq_iff, wfF_iff]
  simp only [checksF_pass_iff, FKind.mk_inj]
  constructor
  · rintro ⟨p, spec, ⟨dOk, aOk, bOk, cOk, once, uniform⟩, rfl⟩
    have ⟨dFits, aFits, bFits, cFits⟩ := fSpec_fits spec
    obtain ⟨dRaw, dWf⟩ := (readDst_eq_iff dFits).1 ⟨dOk, rfl⟩
    obtain ⟨aRaw, aWf, aLit⟩ := (readSrc_eq_iff aFits).1 ⟨aOk, rfl⟩
    obtain ⟨bRaw, bWf, bLit⟩ := (readSrc_eq_iff bFits).1 ⟨bOk, rfl⟩
    obtain ⟨cRaw, cWf, cLit⟩ := (readSrc_eq_iff cFits).1 ⟨cOk, rfl⟩
    obtain ⟨inBlock, opc⟩ := (opcode _).1 rfl
    obtain ⟨gn, gp⟩ := guardBits_eq_iff.2 (rfl : guardOf w = _)
    have count := (literalOpnd_rawSrc_iff aFits bFits cFits aWf bWf cWf).1 (by rw [aRaw, bRaw, cRaw]; exact once)
    exact ⟨⟨⟨selects, inBlock⟩, p, by rw [bRaw, cRaw]; exact spec, dWf, aWf, bWf, cWf, count, uniform⟩,
      ⟨full.symm, opc, gn, gp, dRaw, aRaw, bRaw, cRaw, rfl⟩, (literals_agree_iff count).2 ⟨aLit, bLit, cLit⟩⟩
  · rintro ⟨⟨⟨-, inBlock⟩, p, spec, dWf, aWf, bWf, cWf, count, uniform⟩, ⟨-, opc, gn, gp, dRaw, aRaw, bRaw, cRaw, hmod⟩, lits⟩
    have ⟨dFits, aFits, bFits, cFits⟩ := fSpec_fits spec
    obtain ⟨aLit, bLit, cLit⟩ := (literals_agree_iff count).1 lits
    obtain ⟨dOk, dRead⟩ := (readDst_eq_iff (l := lit) dFits).2 ⟨dRaw, dWf⟩
    obtain ⟨aOk, aRead⟩ := (readSrc_eq_iff aFits).2 ⟨aRaw, aWf, aLit⟩
    obtain ⟨bOk, bRead⟩ := (readSrc_eq_iff bFits).2 ⟨bRaw, bWf, bLit⟩
    obtain ⟨cOk, cRead⟩ := (readSrc_eq_iff cFits).2 ⟨cRaw, cWf, cLit⟩
    have sub := (opcode _).2 ⟨inBlock, opc⟩
    have guard := guardBits_eq_iff.1 ⟨gn, gp⟩
    have once := (literalOpnd_rawSrc_iff aFits bFits cFits aWf bWf cWf).2 count
    rw [aRaw, bRaw, cRaw] at once
    refine ⟨p, ?_, ⟨dOk, aOk, bOk, cOk, once, ?_⟩, ?_⟩
    · rw [← hmod, ← sub, ← bRaw, ← cRaw]; exact spec
    · rw [← hmod, dRead, aRead, bRead, cRead]; exact uniform
    · rw [dRead, aRead, bRead, cRead, ← hmod, ← sub, ← guard]

end Sys2Proof
end

section
/-! PROOFS. The decoders of formats M, B and H (R80, R82, R88 to R91, R256), as that of formats F and X. -/

namespace Sys2Proof

/-! Format M. -/

/-- The fields of a format M word as its form reads them (R80). -/
def readM (k : MKind) (w lit : Dword) : WordM :=
  let sub := BitVec.ofNat 4 (opcOf w - k.opcode)
  ⟨guardOf w, (mData k sub.toNat (fld w 0 2).toNat).readOpd (rawAt w 39 9 8) lit, (mBase k).readOpd (rawAt w 30 11 10) lit, fld w 12 18,
    clsOf (fld w 6 2).toNat, ordOf (fld w 4 2).toNat, scpOf (fld w 2 2).toNat, fld w 0 2, sub⟩

theorem mBase_ok_iff {k : MKind} {r : RawOpd} : (mBase k).ok r = true ↔
    (mBase k).accepts r.code.toNat = true ∧ (mBase k).lastOk r = true ∧ (mBase k).waitOk r = true := by
  have used : (mBase k).unusedOk r = true := by cases k <;> rfl
  simp only [PosSpec.ok, used, Bool.and_true, Bool.and_eq_true, and_assoc]

theorem dataOk_iff {p : PosSpec} {r : RawOpd} : p.ok r = true ↔
    (p != .none || (!r.lu && !r.w)) = true ∧ (p.accepts r.code.toNat && p.unusedOk r) = true ∧ p.lastOk r = true ∧
      p.waitOk r = true := by
  have unmarked : p.unusedOk r = true → (p != .none || (!r.lu && !r.w)) = true := by
    cases p <;> simp +contextual [PosSpec.unusedOk]
  simp only [PosSpec.ok, Bool.and_eq_true, and_assoc]
  exact ⟨fun h => ⟨unmarked h.2.1, h⟩, And.right⟩

theorem decodeM_eq_ok_iff {k : MKind} {w lit : Dword} {i : Instr} : decodeM k w lit = .ok i ↔
    (k.subOk (readM k w lit).sub.toNat = true ∧
      k.modOk (readM k w lit).sub.toNat (fld w 6 2).toNat (fld w 4 2).toNat (fld w 2 2).toNat (fld w 0 2).toNat = true ∧
      (k != .cctlIinv || fld w 12 18 == 0) = true ∧
      (mData k (readM k w lit).sub.toNat (fld w 0 2).toNat).ok (rawAt w 39 9 8) = true ∧ (mBase k).ok (rawAt w 30 11 10) = true ∧
      uniformOkM k (readM k w lit).data (readM k w lit).base = true) ∧ k.mk (readM k w lit) = i := by
  simp only [decodeM]
  split
  · next r hr =>
    refine iff_of_false nofun fun ⟨pass, _⟩ => ?_
    rw [dataOk_iff, mBase_ok_iff] at pass
    obtain ⟨sub, mod, off, ⟨dMarks, dAcc, dLast, dWait⟩, ⟨bAcc, bLast, bWait⟩, uniform⟩ := pass
    refine not_forall_of_firstFail hr ?_
    simp only [List.forall_mem_cons, List.not_mem_nil]
    exact ⟨sub, mod, off, dMarks, dAcc, bAcc, bLast, dLast, bWait, dWait, uniform, by simp⟩
  · next hr =>
    rw [firstFail_eq_none_iff] at hr
    simp only [List.forall_mem_cons, List.not_mem_nil] at hr
    obtain ⟨sub, mod, off, dMarks, dAcc, bAcc, bLast, dLast, bWait, dWait, uniform, -⟩ := hr
    rw [dataOk_iff, mBase_ok_iff, Except.ok.injEq]
    exact (and_iff_right ⟨sub, mod, off, ⟨dMarks, dAcc, dLast, dWait⟩, ⟨bAcc, bLast, bWait⟩, uniform⟩).symm

theorem cls_le_two {k : MKind} {sub cls ord scp xm : Nat} (h : k.modOk sub cls ord scp xm = true) : cls ≤ 2 := by
  cases k <;> simp [MKind.modOk] at h <;> omega

theorem clsOf_eq_iff {x : BitVec 2} {c : CacheClass} : x.toNat ≤ 2 → (c = clsOf x.toNat ↔ BitVec.ofNat 2 c.code = x) := by
  cases c <;> revert x <;> decide

theorem ordOf_eq_iff {x : BitVec 2} {o : Order} : o = ordOf x.toNat ↔ BitVec.ofNat 2 o.code = x := by
  cases o <;> revert x <;> decide

theorem scpOf_eq_iff {x : BitVec 2} {o : Scope} : o = scpOf x.toNat ↔ BitVec.ofNat 2 o.code = x := by
  cases o <;> revert x <;> decide

@[simp] theorem toNat_clsCode (c : CacheClass) : (BitVec.ofNat 2 c.code).toNat = c.code := by cases c <;> rfl
@[simp] theorem toNat_ordCode (o : Order) : (BitVec.ofNat 2 o.code).toNat = o.code := by cases o <;> rfl
@[simp] theorem toNat_scpCode (o : Scope) : (BitVec.ofNat 2 o.code).toNat = o.code := by cases o <;> rfl

theorem wfM_iff {k : MKind} {m : WordM} : wfM k m = true ↔
    (k.selects m.xm.toNat = true ∧ m.sub.toNat < k.block) ∧ k.subOk m.sub.toNat = true ∧
    k.modOk m.sub.toNat m.cls.code m.ord.code m.scp.code m.xm.toNat = true ∧ (k != .cctlIinv || m.off == 0) = true ∧
    (mData k m.sub.toNat m.xm.toNat).wf false m.data = true ∧ (mBase k).wf false m.base = true ∧ uniformOkM k m.data m.base = true := by
  simp only [wfM, Bool.and_eq_true, decide_eq_true_eq, and_assoc]

theorem encodes_mkM_iff {k : MKind} {m : WordM} {w lit : Dword} : Encodes (k.mk m) w lit ↔
    wfM k m = true ∧ packM (BitVec.ofNat 11 (k.opcode + m.sub.toNat)) m.guard.gn m.guard.gp (rawSrc m.data) (rawSrc m.base) m.off
      (BitVec.ofNat 2 m.cls.code) (BitVec.ofNat 2 m.ord.code) (BitVec.ofNat 2 m.scp.code) m.xm = w ∧
      ∀ x, literalOf [m.data] = some x → x = lit := by
  simp only [Encodes, Instr.wf, encode, formOf_mkM, List.cons.injEq, and_assoc, exists_and_left, exists_eq_left', Option.mem_toList]

theorem literalOf_single (o : Opd) : literalOf [o] = o.lit? := by
  cases h : o.lit? <;> simp [literalOf, h]

/-- The base of a format M word is a register (R80). -/
theorem lit?_base {k : MKind} {o : Opd} (wf : (mBase k).wf false o = true) : o.lit? = none :=
  lit?_eq_none (mBase_fits k) (by cases k <;> rfl) wf

/-- The decoder of format M undoes and is undone by its encoding (R80). -/
theorem decodeM_iff {k : MKind} {m : WordM} {w lit : Dword} (full : fld w 63 1 = 0#1) (takes : k.Takes (opcOf w))
    (selects : k.selects (fld w 0 2).toNat = true) : decodeM k w lit = .ok (k.mk m) ↔ Encodes (k.mk m) w lit := by
  have opcode := fun s : BitVec 4 => opcodeBits_iff (sub := s) k.block_room.1 k.block_room.2 takes.1 takes.2
  have baseFits := mBase_fits k
  rw [decodeM_eq_ok_iff, encodes_mkM_iff, packM_eq_iff, wfM_iff, MKind.mk_inj, literalOf_single]
  constructor
  · rintro ⟨⟨subOk, modOk, off, dataOk, baseOk, uniform⟩, rfl⟩
    obtain ⟨dataRaw, dataWf, dataLit⟩ := (readSrc_eq_iff (mData_fits _ _ _)).1 ⟨dataOk, rfl⟩
    obtain ⟨baseRaw, baseWf, -⟩ := (readSrc_eq_iff baseFits).1 ⟨baseOk, rfl⟩
    obtain ⟨inBlock, opc⟩ := (opcode (readM k w lit).sub).1 rfl
    obtain ⟨gn, gp⟩ := guardBits_eq_iff.2 (rfl : (readM k w lit).guard = guardOf w)
    have cls := (clsOf_eq_iff (cls_le_two modOk)).1 (rfl : (readM k w lit).cls = _)
    have ord := ordOf_eq_iff.1 (rfl : (readM k w lit).ord = _)
    have scp := scpOf_eq_iff.1 (rfl : (readM k w lit).scp = _)
    rw [← cls, ← ord, ← scp, toNat_clsCode, toNat_ordCode, toNat_scpCode] at modOk
    exact ⟨⟨⟨selects, inBlock⟩, subOk, modOk, off, dataWf, baseWf, uniform⟩,
      ⟨full.symm, opc, gn, gp, dataRaw, baseRaw, rfl, cls, ord, scp, rfl⟩, dataLit⟩
  · rintro ⟨⟨⟨-, inBlock⟩, subOk, modOk, off, dataWf, baseWf, uniform⟩,
      ⟨-, opc, gn, gp, dataRaw, baseRaw, hoff, cls, ord, scp, xm⟩, lits⟩
    obtain ⟨dataOk, dataRead⟩ := (readSrc_eq_iff (mData_fits _ _ _)).2 ⟨dataRaw, dataWf, lits⟩
    obtain ⟨baseOk, baseRead⟩ := (readSrc_eq_iff (l := lit) baseFits).2 ⟨baseRaw, baseWf, by simp [lit?_base baseWf]⟩
    have sub := (opcode _).2 ⟨inBlock, opc⟩
    have guard := guardBits_eq_iff.1 ⟨gn, gp⟩
    rw [← toNat_clsCode, ← toNat_ordCode, ← toNat_scpCode, cls, ord, scp] at modOk
    have read : readM k w lit = m := by
      have cls' := (clsOf_eq_iff (cls_le_two modOk)).2 cls
      have ord' := ordOf_eq_iff.2 ord
      have scp' := scpOf_eq_iff.2 scp
      rw [readM, ← sub, ← xm, ← hoff, ← cls', ← ord', ← scp', ← guard, dataRead, baseRead]
    rw [read, ← xm, ← hoff]
    exact ⟨⟨subOk, modOk, off, dataOk, baseOk, uniform⟩, rfl⟩

/-! Format B. -/

theorem decodeB_eq_ok_iff {k : BKind} {w lit : Dword} {i : Instr} : decodeB k w lit = .ok i ↔
    (k.bmodOk (fld w 0 13).toNat = true ∧ (k.usesDisp || fld w 24 24 == 0) = true ∧ k.ct.ok (rawAt w 15 14 13) = true) ∧
      k.mk ⟨guardOf w, fld w 24 24, k.ct.readOpd (rawAt w 15 14 13) lit, fld w 0 13⟩ = i := by
  simp only [decodeB, PosSpec.ok, Bool.and_eq_true]
  split
  · next r hr =>
    refine iff_of_false nofun fun ⟨⟨mod, disp, ⟨⟨acc, unused⟩, last⟩, wait⟩, _⟩ => ?_
    refine not_forall_of_firstFail hr ?_
    simp only [List.forall_mem_cons, List.not_mem_nil]
    exact ⟨mod, disp, unused, acc, last, wait, by simp⟩
  · next hr =>
    rw [firstFail_eq_none_iff] at hr
    simp only [List.forall_mem_cons, List.not_mem_nil] at hr
    obtain ⟨mod, disp, unused, acc, last, wait, -⟩ := hr
    rw [Except.ok.injEq]
    exact (and_iff_right ⟨mod, disp, ⟨⟨acc, unused⟩, last⟩, wait⟩).symm

theorem encodes_mkB_iff {k : BKind} {b : WordB} {w lit : Dword} : Encodes (k.mk b) w lit ↔
    wfB k b = true ∧ packB (BitVec.ofNat 11 k.opcode) b.guard.gn b.guard.gp b.disp (rawSrc b.ct) b.bmod = w ∧
      ∀ x, literalOf [b.ct] = some x → x = lit := by
  simp only [Encodes, Instr.wf, encode, formOf_mkB, List.cons.injEq, and_assoc, exists_and_left, exists_eq_left', Option.mem_toList]

/-- The decoder of format B undoes and is undone by its encoding (R82). -/
theorem decodeB_iff {k : BKind} {b : WordB} {w lit : Dword} (full : fld w 63 1 = 0#1) (takes : k.opcode = opcOf w) :
    decodeB k w lit = .ok (k.mk b) ↔ Encodes (k.mk b) w lit := by
  have opc : BitVec.ofNat 11 k.opcode = fld w 52 11 := by rw [takes, opcOf, BitVec.ofNat_toNat, BitVec.setWidth_eq]
  rw [decodeB_eq_ok_iff, encodes_mkB_iff, packB_eq_iff, BKind.mk_inj, literalOf_single]
  simp only [wfB, Bool.and_eq_true]
  constructor
  · rintro ⟨⟨mod, disp, ok⟩, rfl⟩
    obtain ⟨raw, wf, lits⟩ := (readSrc_eq_iff (ct_fits k)).1 ⟨ok, rfl⟩
    obtain ⟨gn, gp⟩ := guardBits_eq_iff.2 (rfl : guardOf w = _)
    exact ⟨⟨⟨mod, disp⟩, wf⟩, ⟨full.symm, opc, gn, gp, rfl, raw, rfl⟩, lits⟩
  · rintro ⟨⟨⟨mod, disp⟩, wf⟩, ⟨-, -, gn, gp, hdisp, raw, hmod⟩, lits⟩
    obtain ⟨ok, read⟩ := (readSrc_eq_iff (ct_fits k)).2 ⟨raw, wf, lits⟩
    rw [read, ← hdisp, ← hmod, ← guardBits_eq_iff.1 ⟨gn, gp⟩]
    exact ⟨⟨mod, disp, ok⟩, rfl⟩

/-! Format H (R88 to R91). -/

theorem halfOpOf_eq_some_iff {n : Nat} {op : HalfOp} : halfOpOf n = some op ↔ op.code = n := by
  constructor
  · intro h
    unfold halfOpOf at h
    split at h <;> cases h <;> rfl
  · rintro rfl
    cases op <;> rfl

/-- The operand of a half is a source that is no literal (R91). -/
theorem halfSpec_takesLit {op : HalfOp} {hmod : Nat} {p : PosSpec} (h : halfSpec op hmod = some p) :
    p.takesLit = false ∧ ∀ r, p.unusedOk r = true := by
  cases op <;> simp only [halfSpec] at h <;> split_ifs at h <;> cases h <;> exact ⟨rfl, fun _ => rfl⟩

theorem halfOk_iff {op : HalfOp} {hmod : Nat} {p : PosSpec} (h : halfSpec op hmod = some p) {r : RawOpd} :
    p.ok r = true ↔ p.accepts r.code.toNat = true ∧ p.lastOk r = true ∧ p.waitOk r = true := by
  simp only [PosSpec.ok, (halfSpec_takesLit h).2, Bool.and_true, Bool.and_eq_true, and_assoc]

theorem decodeHalf_eq_ok_iff {x : BitVec 31} {low : Bool} {h : Half} : decodeHalf x low = .ok h ↔
    ∃ op p, op.code = (x.extractLsb' 24 7).toNat ∧ halfSpec op (x.extractLsb' 0 5).toNat = some p ∧ p.ok (rawHalf x) = true ∧
      (⟨op, ⟨(x.extractLsb' 16 8).toNat, (x.extractLsb' 16 8).isLt⟩, p.readOpd (rawHalf x) 0, x.extractLsb' 0 5⟩ : Half) = h := by
  simp only [← halfOpOf_eq_some_iff, decodeHalf]
  split
  · next hop => simp only [hop, reduceCtorEq, false_and, exists_false]
  · next op hop =>
    simp only [hop, Option.some.injEq, exists_and_left, exists_eq_left']
    split
    · next hp => simp only [hp, reduceCtorEq, false_and, exists_false]
    · next p hp =>
      simp only [hp, Option.some.injEq, exists_eq_left', halfOk_iff hp]
      split
      · next r hr =>
        refine iff_of_false nofun fun ⟨⟨acc, last, wait⟩, _⟩ => ?_
        refine not_forall_of_firstFail hr ?_
        simp only [List.forall_mem_cons, List.not_mem_nil]
        exact ⟨acc, last, wait, by simp⟩
      · next hr =>
        rw [firstFail_eq_none_iff] at hr
        simp only [List.forall_mem_cons, List.not_mem_nil] at hr
        obtain ⟨acc, last, wait, -⟩ := hr
        rw [Except.ok.injEq]
        exact (and_iff_right ⟨acc, last, wait⟩).symm

theorem wfHalf_iff {h : Half} : wfHalf h = true ↔ ∃ p, halfSpec h.op h.hmod.toNat = some p ∧ p.wf false h.hs = true := by
  rw [wfHalf]
  split
  · next hp => simp only [hp, reduceCtorEq, false_and, exists_false, Bool.false_eq_true]
  · next p hp => simp only [hp, Option.some.injEq, exists_eq_left']

/-- The decoder of a half undoes and is undone by its encoding (R88, R91). -/
theorem decodeHalf_iff {x : BitVec 31} {low : Bool} {h : Half} : decodeHalf x low = .ok h ↔ wfHalf h = true ∧ packHalf h = x := by
  have op (o : HalfOp) : BitVec.ofNat 7 o.code = x.extractLsb' 24 7 ↔ o.code = (x.extractLsb' 24 7).toNat := by
    rw [← BitVec.toNat_inj]; cases o <;> rfl
  have hd : BitVec.ofNat 8 h.hd.val = x.extractLsb' 16 8 ↔
      (⟨(x.extractLsb' 16 8).toNat, (x.extractLsb' 16 8).isLt⟩ : Fin 256) = h.hd := by
    rw [← BitVec.toNat_inj, Fin.ext_iff, BitVec.toNat_ofNat, Nat.mod_eq_of_lt h.hd.isLt, eq_comm]
  rw [decodeHalf_eq_ok_iff, wfHalf_iff, packHalf_eq_iff, op, hd]
  constructor
  · rintro ⟨o, p, code, spec, ok, rfl⟩
    obtain ⟨raw, wf, -⟩ := (readSrc_eq_iff (halfSpec_fits spec)).1 ⟨ok, rfl⟩
    exact ⟨⟨p, spec, wf⟩, code, rfl, raw, rfl⟩
  · rintro ⟨⟨p, spec, wf⟩, code, reg, raw, mod⟩
    have noLit := lit?_eq_none (halfSpec_fits spec) (halfSpec_takesLit spec).1 wf
    obtain ⟨ok, read⟩ := (readSrc_eq_iff (l := 0) (halfSpec_fits spec)).2 ⟨raw, wf, by simp [noLit]⟩
    refine ⟨h.op, p, code, by rw [← mod]; exact spec, ok, ?_⟩
    rw [read, reg, ← mod]

theorem encodes_paired_iff {hi lo : Half} {w lit : Dword} : Encodes (.pairedWord hi lo) w lit ↔
    (((wfHalf hi = true ∧ wfHalf lo = true) ∧ hi.hd.val % 2 = 0) ∧ lo.hd.val % 2 = 1) ∧ packH hi lo = w := by
  simp [Encodes, Instr.wf, encode, formOf]

theorem decodeH_eq_ok_iff {w : Dword} {i : Instr} : decodeH w = .ok i ↔ 0#1 = fld w 62 1 ∧
    ∃ hi lo, decodeHalf (halfBits w 31) false = .ok hi ∧ decodeHalf (halfBits w 0) true = .ok lo ∧ hi.hd.val % 2 = 0 ∧
      lo.hd.val % 2 = 1 ∧ .pairedWord hi lo = i := by
  have bit62 : 0#1 = fld w 62 1 ↔ ¬ bit1 (fld w 62 1) = true := by generalize fld w 62 1 = b; revert b; decide
  rw [decodeH, bit62]
  split
  · next h => simp only [h, not_true_eq_false, false_and, reduceCtorEq]
  · next h =>
    cases decodeHalf (halfBits w 31) false with
    | error r => simp only [reduceCtorEq, false_and, exists_false, and_false]
    | ok hi =>
      cases decodeHalf (halfBits w 0) true with
      | error r => simp only [reduceCtorEq, false_and, exists_false, and_false]
      | ok lo =>
        have even := Nat.mod_two_eq_zero_or_one hi.hd.val
        have odd := Nat.mod_two_eq_zero_or_one lo.hd.val
        simp only [Except.ok.injEq, exists_and_left, exists_eq_left', h, not_false_eq_true, true_and, Bool.false_eq_true]
        split_ifs <;> simp_all

/-- A paired word (R88): the high half's destination is an even register, the low half's an odd one. -/
theorem decodeH_iff {w lit : Dword} {i : Instr} (paired : fld w 63 1 = 1#1) :
    decodeH w = .ok i ↔ ∃ hi lo, .pairedWord hi lo = i ∧ Encodes (.pairedWord hi lo) w lit := by
  simp only [decodeH_eq_ok_iff, decodeHalf_iff, encodes_paired_iff, packH_eq_iff, paired, true_and]
  constructor
  · rintro ⟨zero, hi, lo, ⟨hiWf, hiBits⟩, ⟨loWf, loBits⟩, even, odd, rfl⟩
    exact ⟨hi, lo, rfl, ⟨⟨⟨hiWf, loWf⟩, even⟩, odd⟩, zero, hiBits, loBits⟩
  · rintro ⟨hi, lo, rfl, ⟨⟨⟨hiWf, loWf⟩, even⟩, odd⟩, zero, hiBits, loBits⟩
    exact ⟨zero, hi, lo, ⟨hiWf, hiBits⟩, ⟨loWf, loBits⟩, even, odd, rfl⟩

end Sys2Proof
end

section
/-! PROOFS. The decoder and the encoder are inverse to each other (R75, R76, R85, R92 to R97): which form a word is decoded as, how many
words it takes, and the bytes of both. -/

namespace Sys2Proof

/-! The form that decodes a word. -/

theorem not_wholeWord {w : Dword} (full : fld w 63 1 = 0#1) (opc : 0 < opcOf w) : ¬(w = 0 ∨ w = BitVec.allOnes 64) := by
  rintro (rfl | rfl)
  · exact absurd opc (by decide)
  · exact absurd full (by decide)

theorem bit1_full {w : Dword} (full : fld w 63 1 = 0#1) : bit1 (fld w 63 1) = false := by rw [full]; rfl

theorem decodeWord_ofF {k : FKind} {w lit : Dword} (full : fld w 63 1 = 0#1) (takes : k.Takes (opcOf w))
    (selects : k.selects (fld w 0 6).toNat = true) : decodeWord false w lit = decodeF k w lit := by
  obtain ⟨noB, noIlleg, pos, -⟩ := takes.apart
  have found := takes.find selects
  cases forms : FKind.ofOpcode (opcOf w) with
  | nil => simp [forms] at found
  | cons x xs =>
    rw [forms] at found
    simp only [decodeWord, if_neg (not_wholeWord full pos), bit1_full full, noB, noIlleg, forms, found, Bool.false_and, if_false,
      Bool.false_eq_true]

theorem decodeWord_ofM {k : MKind} {w lit : Dword} (full : fld w 63 1 = 0#1) (takes : k.Takes (opcOf w))
    (selects : k.selects (fld w 0 2).toNat = true) : decodeWord false w lit = decodeM k w lit := by
  obtain ⟨noB, noF, noIlleg, pos, -⟩ := takes.apart
  have found := takes.find (fld w 0 2).isLt selects
  cases forms : MKind.ofOpcode (opcOf w) with
  | nil => simp [forms] at found
  | cons x xs =>
    rw [forms] at found
    simp only [decodeWord, if_neg (not_wholeWord full pos), bit1_full full, noB, noF, noIlleg, forms, found, if_false,
      Bool.false_eq_true]

theorem decodeWord_ofB {k : BKind} {w lit : Dword} (full : fld w 63 1 = 0#1) (takes : k.opcode = opcOf w) :
    decodeWord false w lit = decodeB k w lit := by
  obtain ⟨noIlleg, pos, -⟩ := k.opcode_bounds
  rw [takes] at noIlleg pos
  simp only [decodeWord, if_neg (not_wholeWord full pos), bit1_full full, BKind.ofOpcode_eq_some_iff.2 takes, noIlleg,
    Bool.false_and, if_false, Bool.false_eq_true]

theorem decodeWord_ofIlleg {w lit : Dword} (full : fld w 63 1 = 0#1) (opc : opcOf w = 0x2FF) :
    decodeWord false w lit = .ok (.illeg (fld w 0 52)) := by
  have whole := not_wholeWord full (by omega)
  simp only [decodeWord, if_neg whole, bit1_full full, opc, if_true, if_false, Bool.false_eq_true]

theorem decodeWord_ofH {w lit : Dword} (paired : fld w 63 1 = 1#1) (zero : 0#1 = fld w 62 1) : decodeWord false w lit = decodeH w := by
  have whole : ¬(w = 0 ∨ w = BitVec.allOnes 64) := by
    rintro (rfl | rfl)
    · exact absurd paired (by decide)
    · exact absurd zero (by decide)
  have bit : bit1 (fld w 63 1) = true := by rw [paired]; rfl
  simp only [decodeWord, if_neg whole, bit, if_true]

/-- What a decoded word was decoded as. -/
theorem decodeWord_ok {g : Bool} {w lit : Dword} {i : Instr} (h : decodeWord g w lit = .ok i) :
    (fld w 63 1 = 1#1 ∧ decodeH w = .ok i) ∨
    fld w 63 1 = 0#1 ∧
      ((opcOf w = 0x2FF ∧ i = .illeg (fld w 0 52)) ∨
       (∃ k : BKind, k.opcode = opcOf w ∧ decodeB k w lit = .ok i) ∨
       (∃ k : FKind, k.Takes (opcOf w) ∧ k.selects (fld w 0 6).toNat = true ∧ decodeF k w lit = .ok i) ∨
       ∃ k : MKind, k.Takes (opcOf w) ∧ k.selects (fld w 0 2).toNat = true ∧ decodeM k w lit = .ok i) := by
  have bit : bit1 (fld w 63 1) = true ↔ fld w 63 1 = 1#1 := by simp [bit1]
  have zero : fld w 63 1 ≠ 1#1 ↔ fld w 63 1 = 0#1 := by generalize fld w 63 1 = b; revert b; decide
  simp only [decodeWord, bit] at h
  split at h
  · cases h
  split at h
  · next paired => exact .inl ⟨paired, h⟩
  next full =>
  refine .inr ⟨zero.1 full, ?_⟩
  split at h
  · next opc => cases h; exact .inl ⟨opc, rfl⟩
  refine .inr ?_
  split at h
  · next k hk =>
    split at h
    · cases h
    · exact .inl ⟨k, BKind.ofOpcode_eq_some_iff.1 hk, h⟩
  · next x xs forms =>
    split at h
    · cases h
    split at h
    · next k found =>
      rw [← forms] at found
      exact .inr (.inl ⟨k, FKind.takes_iff.2 (List.mem_of_find?_eq_some found), by simpa using List.find?_some found, h⟩)
    · cases h
  · next x xs _ forms =>
    split at h
    · next k found =>
      rw [← forms] at found
      exact .inr (.inr ⟨k, MKind.takes_iff.2 (List.mem_of_find?_eq_some found), by simpa using List.find?_some found, h⟩)
    · cases h
  · cases h

/-! The words that encode an instruction decode as it. -/

theorem opcOf_of_bits {w : Dword} {opc : Nat} (h : BitVec.ofNat 11 opc = fld w 52 11) (small : opc < 2048) : opcOf w = opc := by
  rw [opcOf, ← h, BitVec.toNat_ofNat, Nat.mod_eq_of_lt small]

theorem takes_of_encodesF {k : FKind} {f : WordF} {w lit : Dword} (h : Encodes (k.mk f) w lit) :
    fld w 63 1 = 0#1 ∧ k.Takes (opcOf w) ∧ k.selects (fld w 0 6).toNat = true := by
  obtain ⟨wf, pack, -⟩ := encodes_mkF_iff.1 h
  obtain ⟨⟨selects, inBlock⟩, -⟩ := wfF_iff.1 wf
  obtain ⟨full, opc, -, -, -, -, -, -, mod⟩ := packF_eq_iff.1 pack
  have room := k.block_room.2
  rw [opcOf_of_bits opc (by omega), ← mod]
  exact ⟨full.symm, ⟨by omega, by omega⟩, selects⟩

theorem takes_of_encodesM {k : MKind} {m : WordM} {w lit : Dword} (h : Encodes (k.mk m) w lit) :
    fld w 63 1 = 0#1 ∧ k.Takes (opcOf w) ∧ k.selects (fld w 0 2).toNat = true := by
  obtain ⟨wf, pack, -⟩ := encodes_mkM_iff.1 h
  obtain ⟨⟨selects, inBlock⟩, -⟩ := wfM_iff.1 wf
  obtain ⟨full, opc, -, -, -, -, -, -, -, -, xm⟩ := packM_eq_iff.1 pack
  have room := k.block_room.2
  rw [opcOf_of_bits opc (by omega), ← xm]
  exact ⟨full.symm, ⟨by omega, by omega⟩, selects⟩

theorem takes_of_encodesB {k : BKind} {b : WordB} {w lit : Dword} (h : Encodes (k.mk b) w lit) :
    fld w 63 1 = 0#1 ∧ k.opcode = opcOf w := by
  obtain ⟨-, pack, -⟩ := encodes_mkB_iff.1 h
  obtain ⟨full, opc, -⟩ := packB_eq_iff.1 pack
  exact ⟨full.symm, (opcOf_of_bits opc k.opcode_bounds.2.2).symm⟩

theorem encodes_illeg {low : BitVec 52} {w lit : Dword} (h : Encodes (.illeg low) w lit) : (0#1 ++ 0x2FF#11 ++ low : Dword) = w := by
  obtain ⟨-, t, words, -⟩ := h
  simp only [encode, formOf] at words
  split at words <;> exact (List.cons.inj words).1

theorem formOf_ne_event {i : Instr} {w lit : Dword} (h : Encodes i w lit) : formOf i ≠ .event := by
  intro event
  obtain ⟨-, t, words, -⟩ := h
  simp [encode, event] at words

/-- The words of an instruction decode as it (R75 to R97). -/
theorem decodeWord_of_encodes {i : Instr} {w lit : Dword} (h : Encodes i w lit) : decodeWord false w lit = .ok i := by
  cases view : formOf i with
  | f k f =>
    obtain rfl := eq_mkF view
    obtain ⟨full, takes, selects⟩ := takes_of_encodesF h
    rw [decodeWord_ofF full takes selects, (decodeF_iff full takes selects).2 h]
  | m k m =>
    obtain rfl := eq_mkM view
    obtain ⟨full, takes, selects⟩ := takes_of_encodesM h
    rw [decodeWord_ofM full takes selects, (decodeM_iff full takes selects).2 h]
  | b k b =>
    obtain rfl := eq_mkB view
    obtain ⟨full, takes⟩ := takes_of_encodesB h
    rw [decodeWord_ofB full takes, (decodeB_iff full takes).2 h]
  | h hi lo =>
    obtain rfl := eq_pairedWord view
    obtain ⟨paired, zero, -⟩ := packH_eq_iff.1 (encodes_paired_iff.1 h).2
    rw [decodeWord_ofH paired.symm zero, (decodeH_iff paired.symm).2 ⟨hi, lo, rfl, h⟩]
  | illeg low =>
    obtain rfl := eq_illeg view
    obtain ⟨full, opc, bits⟩ := packIlleg_eq_iff.1 (encodes_illeg h)
    rw [decodeWord_ofIlleg full.symm (opcOf_of_bits opc (by decide)), bits]
  | event => exact absurd view (formOf_ne_event h)

/-- A word that decodes is the encoding of its instruction, an ILLEG apart (R75 to R97). -/
theorem encodes_of_decodeWord {g : Bool} {w lit : Dword} {i : Instr} (h : decodeWord g w lit = .ok i) :
    Encodes i w lit ∨ fld w 63 1 = 0#1 ∧ opcOf w = 0x2FF ∧ i = .illeg (fld w 0 52) := by
  obtain ⟨paired, h⟩ | ⟨full, ⟨opc, rfl⟩ | ⟨k, takes, h⟩ | ⟨k, takes, selects, h⟩ | ⟨k, takes, selects, h⟩⟩ := decodeWord_ok h
  · obtain ⟨hi, lo, rfl, enc⟩ := (decodeH_iff paired).1 h
    exact .inl enc
  · exact .inr ⟨full, opc, rfl⟩
  · obtain ⟨-, rfl⟩ := decodeB_eq_ok_iff.1 h
    exact .inl ((decodeB_iff full takes).1 h)
  · obtain ⟨p, -, -, rfl⟩ := decodeF_eq_ok_iff.1 h
    exact .inl ((decodeF_iff full takes selects).1 h)
  · obtain ⟨-, rfl⟩ := decodeM_eq_ok_iff.1 h
    exact .inl ((decodeM_iff full takes selects).1 h)

/-! How many words an instruction takes (R76, R85). -/

theorem length_literalOf (os : List Opd) : (literalOf os).toList.length = if os.any Opd.isLit then 1 else 0 := by
  have isSome : (literalOf os).isSome = os.any Opd.isLit := by
    rw [literalOf, List.head?_filterMap]
    induction os with
    | nil => rfl
    | cons o os ih => cases h : o.lit? <;> simp [Opd.isLit, h, ih]
  rw [← isSome]
  cases literalOf os <;> rfl

theorem wordLength_ofF {k : FKind} {w : Dword} (full : fld w 63 1 = 0#1) (takes : k.Takes (opcOf w)) :
    wordLength w = if fld w 30 9 = 511#9 ∨ fld w 21 9 = 511#9 ∨ fld w 12 9 = 511#9 then 2 else 1 := by
  obtain ⟨noB, -⟩ := takes.apart
  cases forms : FKind.ofOpcode (opcOf w) with
  | nil => rw [FKind.takes_iff, forms] at takes; cases takes
  | cons x xs => simp only [wordLength, bit1_full full, noB, forms, if_false, Bool.false_eq_true]

theorem wordLength_ofM {k : MKind} {w : Dword} (full : fld w 63 1 = 0#1) (takes : k.Takes (opcOf w)) :
    wordLength w = if fld w 39 9 = 511#9 ∧ k.dataIsSrc = true then 2 else 1 := by
  obtain ⟨noB, noF, -⟩ := takes.apart
  cases forms : MKind.ofOpcode (opcOf w) with
  | nil => rw [MKind.takes_iff, forms] at takes; cases takes
  | cons x xs =>
    obtain ⟨low, high⟩ := takes
    obtain ⟨low', high'⟩ : x.Takes (opcOf w) := by rw [MKind.takes_iff, forms]; exact List.mem_cons_self
    have shared := MKind.dataIsSrc_shared k k.mem_all x x.mem_all (by omega) (by omega)
    simp only [wordLength, bit1_full full, noB, noF, forms, if_false, Bool.false_eq_true, shared]

theorem wordLength_ofB {k : BKind} {w : Dword} (full : fld w 63 1 = 0#1) (takes : k.opcode = opcOf w) :
    wordLength w = if fld w 15 9 = 511#9 then 2 else 1 := by
  simp only [wordLength, bit1_full full, BKind.ofOpcode_eq_some_iff.2 takes, if_false, Bool.false_eq_true]

theorem wordLength_ofIlleg {w : Dword} (full : fld w 63 1 = 0#1) (opc : opcOf w = 0x2FF) : wordLength w = 1 ∨ wordLength w = 2 := by
  obtain ⟨noB, noF, noM⟩ := ofOpcode_illeg
  simp only [wordLength, bit1_full full, opc, noB, noF, noM, if_false, Bool.false_eq_true]
  split <;> simp

theorem mData_takesLit {k : MKind} (h : k.dataIsSrc = false) (sub xm : Nat) : (mData k sub xm).takesLit = false := by
  cases k with
  | st | sts | red | waitv => cases h
  | _ => rfl

theorem wordLength_of_encodesF {k : FKind} {f : WordF} {w lit : Dword} (h : Encodes (k.mk f) w lit) :
    wordLength w = (encode (k.mk f)).length := by
  obtain ⟨full, takes, -⟩ := takes_of_encodesF h
  obtain ⟨wf, pack, -⟩ := encodes_mkF_iff.1 h
  obtain ⟨-, p, spec, -, aWf, bWf, cWf, -⟩ := wfF_iff.1 wf
  obtain ⟨-, aFits, bFits, cFits⟩ := fSpec_fits spec
  obtain ⟨-, -, -, -, -, aRaw, bRaw, cRaw, -⟩ := packF_eq_iff.1 pack
  have lits : [f.a, f.b, f.c].any Opd.isLit = true ↔ fld w 30 9 = 511#9 ∨ fld w 21 9 = 511#9 ∨ fld w 12 9 = 511#9 := by
    simp [isLit_src_iff aFits aWf, isLit_src_iff bFits bWf, isLit_src_iff cFits cWf, aRaw, bRaw, cRaw, rawAt]
  simp only [wordLength_ofF full takes, encode, formOf_mkF, List.length_cons, length_literalOf, lits]
  split_ifs <;> rfl

theorem wordLength_of_encodesM {k : MKind} {m : WordM} {w lit : Dword} (h : Encodes (k.mk m) w lit) :
    wordLength w = (encode (k.mk m)).length := by
  obtain ⟨full, takes, -⟩ := takes_of_encodesM h
  obtain ⟨wf, pack, -⟩ := encodes_mkM_iff.1 h
  obtain ⟨-, -, -, -, dataWf, -⟩ := wfM_iff.1 wf
  obtain ⟨-, -, -, -, dataRaw, -⟩ := packM_eq_iff.1 pack
  have fits := mData_fits k m.sub.toNat m.xm.toNat
  have lits : [m.data].any Opd.isLit = true ↔ fld w 39 9 = 511#9 ∧ k.dataIsSrc = true := by
    cases source : k.dataIsSrc with
    | true => simp [isLit_src_iff fits dataWf, dataRaw, rawAt]
    | false => simp [Opd.isLit, lit?_eq_none fits (mData_takesLit source _ _) dataWf]
  simp only [wordLength_ofM full takes, encode, formOf_mkM, List.length_cons, length_literalOf, lits]
  split_ifs <;> rfl

theorem wordLength_of_encodesB {k : BKind} {b : WordB} {w lit : Dword} (h : Encodes (k.mk b) w lit) :
    wordLength w = (encode (k.mk b)).length := by
  obtain ⟨full, takes⟩ := takes_of_encodesB h
  obtain ⟨wf, pack, -⟩ := encodes_mkB_iff.1 h
  obtain ⟨-, -, -, -, -, raw, -⟩ := packB_eq_iff.1 pack
  simp only [wfB, Bool.and_eq_true] at wf
  have lits : [b.ct].any Opd.isLit = true ↔ fld w 15 9 = 511#9 := by
    simp [isLit_src_iff (ct_fits k) wf.2, raw, rawAt]
  simp only [wordLength_ofB full takes, encode, formOf_mkB, List.length_cons, length_literalOf, lits]
  split_ifs <;> rfl

/-- A decoder that reads the length of a word first reads as many words as the instruction has (R76). -/
theorem wordLength_of_encodes {i : Instr} {w lit : Dword} (h : Encodes i w lit) : wordLength w = (encode i).length := by
  cases view : formOf i with
  | f k f => obtain rfl := eq_mkF view; exact wordLength_of_encodesF h
  | m k m => obtain rfl := eq_mkM view; exact wordLength_of_encodesM h
  | b k b => obtain rfl := eq_mkB view; exact wordLength_of_encodesB h
  | h hi lo =>
    obtain rfl := eq_pairedWord view
    obtain ⟨paired, -⟩ := packH_eq_iff.1 (encodes_paired_iff.1 h).2
    simp [wordLength, ← paired, bit1, encode, formOf]
  | illeg low =>
    obtain rfl := eq_illeg view
    have word := encodes_illeg h
    obtain ⟨full, opc, -⟩ := packIlleg_eq_iff.1 word
    have length := wordLength_ofIlleg full.symm (opcOf_of_bits opc (by decide))
    simp only [encode, formOf, word]
    split <;> simp <;> omega
  | event => exact absurd view (formOf_ne_event h)

/-! Bytes (R6, R85). -/

/-- The literal that the decoder reads after a word of a length (R85). -/
def literalAt (l : List Byte) (n : Nat) : Dword := if n = 2 then dwordOfBytes ((l.drop 8).take 8) else 0

theorem decode_eq_ok_iff {g : Bool} {l rest : List Byte} {i : Instr} {n : Nat} (len : wordLength (dwordOfBytes (l.take 8)) = n) :
    decode g l = .ok (i, rest) ↔ (8 ≤ l.length ∧ 8 * n ≤ l.length) ∧
      decodeWord g (dwordOfBytes (l.take 8)) (literalAt l n) = .ok i ∧ l.drop (8 * n) = rest := by
  simp only [decode, literalAt, len]
  split
  · next short => exact iff_of_false nofun fun ⟨⟨whole, _⟩, _⟩ => by omega
  · next whole =>
    split
    · next short => exact iff_of_false nofun fun ⟨⟨_, room⟩, _⟩ => by omega
    · next room =>
      rw [and_iff_right ⟨not_lt.1 whole, not_lt.1 room⟩]
      generalize decodeWord g (dwordOfBytes (l.take 8)) _ = decoded
      cases decoded with
      | error r => simp only [reduceCtorEq, false_and]
      | ok j => simp only [Except.ok.injEq, Prod.mk.injEq]

theorem words_statement (i : Instr) : Laws.Words.Statement i := by
  cases view : formOf i with
  | f k f => exact Laws.Words.of_formF i k f view
  | m k m => exact Laws.Words.of_formM i k m view
  | b k b => exact Laws.Words.of_formB i k b view
  | h hi lo => exact Laws.Words.of_formH i hi lo view
  | illeg low => exact eq_illeg view ▸ Laws.Words.illeg low
  | event => exact Laws.Words.of_event i view

/-- The words of an instruction: one, or one and its literal. -/
theorem encode_cases {i : Instr} (h : formOf i ≠ .event) : ∃ w, encode i = [w] ∨ ∃ x, encode i = [w, x] := by
  obtain ⟨empty, short⟩ := words_statement i
  match words : encode i with
  | [] => exact absurd (empty.1 words) h
  | [w] => exact ⟨w, .inl rfl⟩
  | [w, x] => exact ⟨w, .inr ⟨x, rfl⟩⟩
  | _ :: _ :: _ :: _ => simp [words] at short

theorem take_bytesOfDword (w : Dword) (l : List Byte) : (bytesOfDword w ++ l).take 8 = bytesOfDword w :=
  List.take_left' (length_bytesOfDword w)

theorem drop_bytesOfDword (w : Dword) (l : List Byte) : (bytesOfDword w ++ l).drop 8 = l :=
  List.drop_left' (length_bytesOfDword w)

theorem bytesOfDword_take_append_drop {l : List Byte} (h : 8 ≤ l.length) :
    bytesOfDword (dwordOfBytes (l.take 8)) ++ l.drop 8 = l := by
  rw [bytesOfDword_dwordOfBytes (by rw [List.length_take, min_eq_left h]), List.take_append_drop]

/-- Settles O51: the fields of a packed word are those that were packed, so each position reads back the operand that its field encodes,
and no other form takes the word's opcode and MOD. -/
theorem decodeEncode : Obligations.DecodeEncode := by
  intro i rest form wf
  obtain ⟨w, one | ⟨x, two⟩⟩ := encode_cases form
  · have enc : Encodes i w 0 := ⟨wf, [], one, by simp⟩
    have len : wordLength w = 1 := by rw [wordLength_of_encodes enc, one]; rfl
    have bytes : bytesOfWords (encode i) ++ rest = bytesOfDword w ++ rest := by simp [one, bytesOfWords]
    rw [bytes, decode_eq_ok_iff (n := 1) (by rw [take_bytesOfDword, dwordOfBytes_bytesOfDword, len]), take_bytesOfDword,
      dwordOfBytes_bytesOfDword, drop_bytesOfDword]
    exact ⟨by simp [length_bytesOfDword], decodeWord_of_encodes enc, rfl⟩
  · have enc : Encodes i w x := ⟨wf, [x], two, by simp⟩
    have len : wordLength w = 2 := by rw [wordLength_of_encodes enc, two]; rfl
    have bytes : bytesOfWords (encode i) ++ rest = bytesOfDword w ++ (bytesOfDword x ++ rest) := by simp [two, bytesOfWords]
    have literal : literalAt (bytesOfDword w ++ (bytesOfDword x ++ rest)) 2 = x := by
      simp only [literalAt, if_true, drop_bytesOfDword, take_bytesOfDword, dwordOfBytes_bytesOfDword]
    rw [bytes, decode_eq_ok_iff (n := 2) (by rw [take_bytesOfDword, dwordOfBytes_bytesOfDword, len]), take_bytesOfDword,
      dwordOfBytes_bytesOfDword, literal]
    refine ⟨by simp [length_bytesOfDword]; omega, decodeWord_of_encodes enc, ?_⟩
    rw [show 8 * 2 = 8 + 8 from rfl, ← List.drop_drop, drop_bytesOfDword, drop_bytesOfDword]

/-- Settles O52: each check of the decoder is one of the well-formedness of what it reads, and the fields it reads fill the word. -/
theorem decodedEncodes : Obligations.DecodedEncodes := by
  intro g l i rest h
  obtain ⟨⟨whole, room⟩, decoded, rfl⟩ := (decode_eq_ok_iff rfl).1 h
  obtain enc | ⟨-, -, rfl⟩ := encodes_of_decodeWord decoded
  · have form := formOf_ne_event enc
    refine ⟨enc.1, form, fun _ => ?_⟩
    have len := wordLength_of_encodes enc
    obtain ⟨-, t, words, lits⟩ := enc
    obtain ⟨w, one | ⟨x, two⟩⟩ := encode_cases form
    · obtain ⟨rfl, rfl⟩ := List.cons.inj (one.symm.trans words)
      rw [len, one, bytesOfWords, List.flatMap_singleton]
      exact (bytesOfDword_take_append_drop whole).symm
    · obtain ⟨rfl, rfl⟩ := List.cons.inj (two.symm.trans words)
      rw [two] at len
      have literal : x = dwordOfBytes ((l.drop 8).take 8) := by rw [lits x (by simp), len]; rfl
      rw [len] at room
      have second : 8 ≤ (l.drop 8).length := by simp at room ⊢; omega
      have first := bytesOfDword_take_append_drop whole
      rw [← bytesOfDword_take_append_drop second, ← literal, List.drop_drop] at first
      rw [len, two, bytesOfWords, List.flatMap_cons, List.flatMap_singleton, List.append_assoc]
      exact first.symm
  · exact ⟨rfl, by simp [formOf], fun other => absurd rfl (other _)⟩

end Sys2Proof
end

section
/-! PROOFS. Words written out decode as the spec says (R77 to R97), and a fetch that gives no word: the line is one that a host holds
(R441). -/

namespace Sys2Proof.Machine

open Sys2Proof

/-- Settles O53: the decoder run on each of the words. -/
theorem wordsAsWritten : Obligations.WordsAsWritten := by
  unfold Obligations.WordsAsWritten Claim.WordsAsWritten
  decide +kernel

/-- Track 0 of core 0 at a NOP, whose leaf is COH and whose line a host holds exclusive. -/
def heldLine : State :=
  let s := State.reset.withFetchWord 64 0x2897000000000000
  { s with mem := memPuts s.mem 0x3000 (bytesOfNat 8 (2 ^ 59 + 0x1F)), snoop := [⟨loadPc / 64, true⟩] }

/-- The translation of its fetch. -/
def heldFetch : State × Xlate :=
  translate heldLine loadWarp.part loadWarp.ctx (placeCore 0) (supMode 0 loadWarp) .fetch (BitVec.ofNat 64 loadPc).toNat

theorem heldFetch_ok : heldFetch.2 = .ok loadPc (2 ^ 59 + 0x1F) := by decide +kernel

/-- No instruction cache holds the word, so the fetch would read memory. -/
theorem icache_heldFetch : FMap.get? (coreSt (physReadN heldFetch.1 none (ctxKey heldFetch.1 loadWarp.ctx (pteHome (2 ^ 59 + 0x1F))) 9
      loadPc 8).1 (placeCore 0)).icache
    (icacheKey (if pteHome (2 ^ 59 + 0x1F) then none else ctxSlot heldFetch.1 loadWarp.ctx) loadPc) = none := by decide +kernel

theorem fetchAt_heldLine : (fetchAt heldLine 0 loadWarp (BitVec.ofNat 64 loadPc)).2 = .park (.snoop (loadPc / 64)) := by
  decide +kernel

/-- Refutes O54: its last clause has no premise that no host holds the line. Where the leaf is COH and not HOME and a host holds the
fetched line exclusive, the fetch sends a snoop and parks (R441), and gives no word. -/
theorem not_stepRunsDecoded : ¬ Obligations.StepRunsDecoded := by
  rintro ⟨-, -, -, -, -, -, -, fetches⟩
  have word := fetches heldLine 0 loadWarp (BitVec.ofNat 64 loadPc) loadPc (2 ^ 59 + 0x1F) heldFetch.1 (by decide +kernel)
    (Prod.snd_eq_iff.1 heldFetch_ok) (.inr icache_heldFetch)
  rw [fetchAt_heldLine] at word
  cases word

end Sys2Proof.Machine
end

section
/-! PROOFS. Integer arithmetic words (R105 to R110). -/

namespace Sys2Proof.Machine

open Sys2Proof

/-! Absolute values, quotients and remainders as the statements write them. -/

theorem natAbs_eq_ite (a : Int) : (a.natAbs : Int) = if a < 0 then -a else a := by split <;> omega

theorem natAbs_sub_eq_ite (a b : Int) : ((a - b).natAbs : Int) = if a ≤ b then b - a else a - b := by split <;> omega

theorem quotient_eq (t : IType) (a b : Int) : quotient t a b =
    if b = 0 then 2 ^ t.bits - 1 else if t.signed = true ∧ a = -(2 ^ (t.bits - 1)) ∧ b = -1 then a else a.tdiv b := by
  cases t <;> simp [quotient, IType.lo, IType.signed]

theorem remainder_eq (t : IType) (a b : Int) : remainder t a b =
    if b = 0 then a else if t.signed = true ∧ a = -(2 ^ (t.bits - 1)) ∧ b = -1 then 0 else a - a.tdiv b * b := by
  cases t <;> simp [remainder, IType.lo, IType.signed]

/-! The words. -/

/-- Settles O1: each word is an integer word, which writesTyped_of_int describes; the statement writes the values of IABS, ISAD, the
extrema and ICLAMP by cases. -/
theorem integerArithmetic : Obligations.IntegerArithmetic := by
  refine ⟨?iadd, ?isub, ?imul, ?imad, ?imulh, ?iabs, ?ineg, ?imin, ?imax, ?isad, ?iclamp⟩
  case iadd => exact writesTyped_of_int exec_iadd (fun _ => rfl) (fun _ _ _ _ => rfl)
  case isub => exact writesTyped_of_int exec_isub (fun _ => rfl) (fun _ _ _ _ => rfl)
  case imul => exact writesTyped_of_int exec_imul (fun _ => rfl) (fun _ _ _ _ => rfl)
  case imad => exact writesTyped_of_int exec_imad (fun _ => rfl) (fun _ _ _ _ => rfl)
  case imulh => exact writesTyped_of_int exec_imulh (fun _ => rfl) (fun _ _ _ _ => by simp)
  case iabs => exact writesTyped_of_int exec_iabs (fun _ => rfl) (fun f a _ _ => congrArg (satIf f) (natAbs_eq_ite a))
  case ineg => exact writesTyped_of_int exec_ineg (fun _ => rfl) (fun _ _ _ _ => rfl)
  case imin => exact writesTyped_of_int exec_imin (fun _ => rfl) (fun _ _ _ _ => min_def _ _)
  case imax => exact writesTyped_of_int exec_imax (fun _ => rfl) (fun _ _ _ _ => max_def _ _)
  case isad => exact writesTyped_of_int exec_isad (fun _ => rfl) (fun _ a b c => congrArg (· + c) (natAbs_sub_eq_ite a b))
  case iclamp => exact writesTyped_of_int exec_iclamp (fun _ => rfl) (fun _ _ _ _ => min_def' _ _)

/-- Settles O2, by what quotient and remainder are at a type. -/
theorem divisionResults : Obligations.DivisionResults :=
  ⟨writesTyped_of_int exec_idiv (fun _ => rfl) (fun f a b _ => quotient_eq (tyInt f) a b),
    writesTyped_of_int exec_irem (fun _ => rfl) (fun f a b _ => remainder_eq (tyInt f) a b)⟩

/-- R106. -/
theorem carryChainResults : Claim.CarryChainResults :=
  ⟨changes_of_consuming exec_iaddc (fun _ => rfl) (fun _ _ _ _ _ => rfl),
    changes_of_consuming exec_isubb (fun _ => rfl) (fun _ _ _ _ _ => rfl)⟩

/-- R107, R109, R110. -/
theorem wideAndDotResults : Claim.WideAndDotResults := by
  refine ⟨?imadw, ?lea, ?idp4, ?idp2⟩
  case imadw => exact writes_of_calc exec_imadw (fun _ => rfl) (fun _ _ _ _ _ _ => rfl)
  case lea => exact writes_of_calc exec_lea (fun _ => rfl) (fun _ _ _ _ _ _ => by simp)
  case idp4 => exact writes_of_calc exec_idp4 (fun _ => rfl) (fun _ _ _ _ _ _ => rfl)
  case idp2 => exact writes_of_calc exec_idp2 (fun _ => rfl) (fun _ _ _ _ _ _ => rfl)

/-- Settles O4: the chains write a destination and a predicate, the wide words and dot products a destination alone. -/
theorem carryAndWide : Obligations.CarryAndWide := ⟨carryChainResults, wideAndDotResults⟩

end Sys2Proof.Machine
end

section
/-! PROOFS. The identities of the integer operations: division with remainder, chained limbs, lookups bit by bit, and shifts of bit
vectors (R106, R108, R112, R113). -/

namespace Sys2Proof

/-! Division (R108). -/

theorem IType.lo_le_zero (t : IType) : t.lo ≤ 0 := by cases t <;> decide

theorem IType.hi_nonneg (t : IType) : 0 ≤ t.hi := by cases t <;> decide

/-- A signed type reaches one further below zero than above. -/
theorem IType.lo_of_signed {t : IType} (h : t.signed = true) : t.lo = -(t.hi + 1) := by
  revert h; cases t <;> decide

theorem IType.lo_of_unsigned {t : IType} (h : t.signed = false) : t.lo = 0 := by simp [lo, h]

/-- A divisor other than 0, 1 and -1 at least halves the magnitude. -/
theorem two_mul_natAbs_tdiv_le {a b : Int} (hb : 2 ≤ b.natAbs) : 2 * (a.tdiv b).natAbs ≤ a.natAbs := by
  rw [Int.natAbs_tdiv]
  exact (Nat.mul_le_mul_left 2 (Nat.div_le_div_left hb two_pos)).trans (Nat.mul_div_le _ _)

/-- The quotient of two values of a type is a value of the type, but for a zero divisor and the overflow. -/
theorem IType.tdiv_mem {t : IType} {a b : Int} (ha : t.lo ≤ a ∧ a ≤ t.hi) (hb : t.lo ≤ b) (nz : b ≠ 0)
    (no : ¬ (t.signed = true ∧ a = t.lo ∧ b = -1)) : t.lo ≤ a.tdiv b ∧ a.tdiv b ≤ t.hi := by
  have lo := t.lo_le_zero
  have hi := t.hi_nonneg
  obtain one | rfl | two : b = 1 ∨ b = -1 ∨ 2 ≤ b.natAbs := by omega
  · rwa [one, Int.tdiv_one]
  · rw [Int.tdiv_neg, Int.tdiv_one]
    cases hs : t.signed
    · have := lo_of_unsigned hs; omega
    · have := lo_of_signed hs; simp only [hs, true_and, and_true] at no; omega
  · have half := two_mul_natAbs_tdiv_le (a := a) two
    cases hs : t.signed
    · have zero := lo_of_unsigned hs
      have := Int.tdiv_nonneg (a := a) (b := b) (by omega) (by omega)
      omega
    · have := lo_of_signed hs; omega

/-- The remainder lies between zero and the dividend. -/
theorem tmod_between (a b : Int) : (0 ≤ a → 0 ≤ a.tmod b ∧ a.tmod b ≤ a) ∧ (a ≤ 0 → a.tmod b ≤ 0 ∧ a ≤ a.tmod b) := by
  have size : (a.tmod b).natAbs ≤ a.natAbs := by rw [Int.natAbs_tmod]; exact Nat.mod_le _ _
  refine ⟨fun h => ?_, fun h => ?_⟩
  · have := Int.tmod_nonneg b h; omega
  · have := Int.tmod_nonneg b (a := -a) (by omega)
    rw [Int.neg_tmod] at this; omega

/-! Chained limbs (R106). -/

/-- The low n bits and bit n of a number are its low n + 1 bits. -/
theorem mod_two_pow_add_testBit (n x : Nat) : x % 2 ^ n + 2 ^ n * (if x.testBit n then 1 else 0) = x % 2 ^ (n + 1) := by
  rw [Nat.mod_pow_succ, ← Nat.toNat_testBit]
  cases x.testBit n <;> rfl

/-! Signed values and shifts (R50, R113). -/

theorem toSigned_eq_toInt {n : Nat} (hn : 0 < n) (x : Nat) : toSigned n x = (BitVec.ofNat n x).toInt := by
  obtain ⟨m, rfl⟩ := Nat.exists_eq_add_of_lt hn
  simp only [toSigned, BitVec.toInt_eq_toNat_cond, BitVec.toNat_ofNat, Nat.zero_add, Nat.add_sub_cancel, Nat.pow_succ]
  congr 1
  exact propext ⟨fun h => by omega, fun h => by omega⟩

/-- A signed value of n bits, divided by 2^n or more, leaves nothing but its sign. -/
theorem toSigned_div_two_pow_of_le {n k : Nat} (hk : n ≤ k) (x : Nat) :
    toSigned n x / (2 ^ k : Nat) = if toSigned n x < 0 then -1 else 0 := by
  have low : x % 2 ^ n < 2 ^ n := Nat.mod_lt _ (Nat.two_pow_pos n)
  have wide : 2 ^ n ≤ 2 ^ k := Nat.pow_le_pow_right two_pos hk
  have above : toSigned n x < (2 ^ k : Nat) := by unfold toSigned; split <;> omega
  have below : -toSigned n x ≤ (2 ^ k : Nat) := by unfold toSigned; split <;> omega
  split
  case isTrue h => exact Int.ediv_eq_neg_one_of_neg_of_le h below
  case isFalse h => exact Int.ediv_eq_zero_of_lt (by omega) above

namespace Machine

/-- R108. -/
theorem divisionIdentity : Claim.DivisionIdentity := by
  intro t x y nz no
  have q : quotient t (t.val x) (t.val y) = (t.val x).tdiv (t.val y) := by rw [quotient, if_neg nz, if_neg no]
  have r : remainder t (t.val x) (t.val y) = (t.val x).tmod (t.val y) := by
    rw [remainder, if_neg nz, if_neg no, Int.tmod_def, mul_comm]
  obtain ⟨pos, neg⟩ := tmod_between (t.val x) (t.val y)
  have hx := t.val_mem x
  have lo := t.lo_le_zero
  have hi := t.hi_nonneg
  rw [q, r]
  refine ⟨Int.tdiv_mul_add_tmod _ _, ?_, fun h => (pos h).1, fun h => (neg h).1,
    t.val_enc _ (IType.tdiv_mem hx (t.val_mem y).1 nz no), t.val_enc _ ?_⟩
  · rw [Int.natAbs_tmod]; exact Nat.mod_lt _ (Int.natAbs_pos.2 nz)
  · omega

theorem carrySum_false {n a b k : Nat} (ha : a < 2 ^ n) (hb : b < 2 ^ n) (hk : k ≤ 1) : carrySum false n a b k = a + b + k :=
  Nat.mod_eq_of_lt (by rw [Nat.pow_succ]; omega)

/-- The difference of n + 1 bits: with a borrow it has come round. -/
theorem carrySum_true {n a b k : Nat} (ha : a < 2 ^ n) (hb : b < 2 ^ n) (hk : k ≤ 1) :
    carrySum true n a b k = if a < b + k then a + 2 ^ (n + 1) - b - k else a - b - k := by
  simp only [carrySum, if_true, Nat.mod_eq_of_lt hb]
  split
  · exact Nat.mod_eq_of_lt (by omega)
  · rw [show a + 2 ^ (n + 1) - b - k = a - b - k + 2 ^ (n + 1) by omega, Nat.add_mod_right]
    exact Nat.mod_eq_of_lt (by rw [Nat.pow_succ]; omega)

theorem carrySum_lt (sub : Bool) (n a b k : Nat) : carrySum sub n a b k < 2 ^ (n + 1) := by
  cases sub <;> exact Nat.mod_lt _ (Nat.two_pow_pos _)

/-- R106. -/
theorem carryIdentity : Claim.CarryIdentity := by
  intro n a b k ha hb hk
  have parts (sub : Bool) := (mod_two_pow_add_testBit n (carrySum sub n a b k)).trans (Nat.mod_eq_of_lt (carrySum_lt sub n a b k))
  refine ⟨(parts false).trans (carrySum_false ha hb hk), ?_⟩
  have difference := (parts true).trans (carrySum_true ha hb hk)
  have low : carrySum true n a b k % 2 ^ n < 2 ^ n := Nat.mod_lt _ (Nat.two_pow_pos n)
  have pow := Nat.pow_succ 2 n
  by_cases lt : a < b + k
  · rw [if_pos lt] at difference
    have borrow : (carrySum true n a b k).testBit n = true := by
      by_contra none
      rw [if_neg none] at difference; omega
    rw [if_pos borrow] at difference ⊢
    exact ⟨iff_of_true borrow lt, by omega⟩
  · rw [if_neg lt] at difference
    have none : ¬ (carrySum true n a b k).testBit n = true := by
      intro borrow
      rw [if_pos borrow] at difference; omega
    rw [if_neg none] at difference ⊢
    exact ⟨iff_of_false none lt, by omega⟩

/-! Lookups (R112). -/

/-- The minterm of a lookup: the bits at which the sources spell the index k. -/
def minterm (n a b c k : Nat) : Nat :=
  (if k % 2 = 1 then a else notN n a) &&& (if k / 2 % 2 = 1 then b else notN n b) &&& (if k / 4 = 1 then c else notN n c)

theorem lutN_eq_minterms (n tt a b c : Nat) :
    lutN n tt a b c = (List.range 8).foldl (fun r k => if tt.testBit k then r ||| minterm n a b c k else r) 0 := rfl

theorem testBit_notN {n j : Nat} (hj : j < n) (x : Nat) : (notN n x).testBit j = !x.testBit j := by
  rw [notN, Nat.sub_sub, Nat.add_comm 1, Nat.testBit_two_pow_sub_succ (Nat.mod_lt _ (Nat.two_pow_pos n))]
  simp [hj, Nat.testBit_mod_two_pow]

/-- A source or its complement has the bit that the index asks for. -/
theorem testBit_ite_notN {n j : Nat} (hj : j < n) (x : Nat) (p : Prop) [Decidable p] :
    (if p then x else notN n x).testBit j = (decide p == x.testBit j) := by
  by_cases h : p <;> simp [h, testBit_notN hj]

theorem testBit_minterm {n j : Nat} (hj : j < n) (a b c : Nat) {k : Nat} (hk : k < 8) :
    (minterm n a b c k).testBit j =
      decide (k = (if a.testBit j then 1 else 0) + (if b.testBit j then 2 else 0) + (if c.testBit j then 4 else 0)) := by
  simp only [minterm, Nat.testBit_and, testBit_ite_notN hj]
  generalize a.testBit j = x, b.testBit j = y, c.testBit j = z
  revert k x y z
  decide

/-- A fold that collects what a list's chosen elements give has the bits that one of them has. -/
theorem testBit_foldl_or (p : Nat → Bool) (m : Nat → Nat) (j : Nat) (l : List Nat) (r : Nat) :
    (l.foldl (fun r k => if p k then r ||| m k else r) r).testBit j = (r.testBit j || l.any fun k => p k && (m k).testBit j) := by
  induction l generalizing r with
  | nil => simp
  | cons k l ih => cases h : p k <;> simp [ih, h, Bool.or_assoc]

/-- R112. -/
theorem lutIsBitwise : Claim.LutIsBitwise := by
  intro n tt a b c j hj _ _ _
  set index := (if a.testBit j then 1 else 0) + (if b.testBit j then 2 else 0) + (if c.testBit j then 4 else 0) with hi
  have bound : index < 8 := by rw [hi]; split_ifs <;> decide
  rw [lutN_eq_minterms, testBit_foldl_or, Nat.zero_testBit, Bool.false_or, Bool.eq_iff_iff, List.any_eq_true]
  constructor
  · rintro ⟨k, hk, h⟩
    obtain ⟨bit, here⟩ := Bool.and_eq_true_iff.1 h
    rw [testBit_minterm hj _ _ _ (List.mem_range.1 hk), decide_eq_true_iff] at here
    rwa [hi, ← here]
  · intro bit
    exact ⟨index, List.mem_range.2 bound, by rw [bit, testBit_minterm hj _ _ _ bound]; simp [hi]⟩

/-! Shifts (R113). -/

/-- Past the width a right shift leaves nothing but the sign. -/
theorem sarN_eq_div {n : Nat} (a k : Nat) : sarN n a k = ofInt n (toSigned n a / (2 ^ k : Nat)) := by
  rcases Nat.le_total k n with h | h
  · rw [sarN, min_eq_left h]
  · rw [sarN, min_eq_right h, toSigned_div_two_pow_of_le le_rfl, toSigned_div_two_pow_of_le h]

theorem shlN_toNat {n : Nat} (a : BitVec n) (k : Nat) : shlN n a.toNat k = (a <<< k).toNat := by
  rw [BitVec.toNat_shiftLeft, Nat.shiftLeft_eq, shlN]
  split
  · rfl
  case isFalse h => exact (Nat.mod_eq_zero_of_dvd (Dvd.dvd.mul_left (Nat.pow_dvd_pow 2 (not_lt.1 h)) _)).symm

theorem shrN_toNat {n : Nat} (a : BitVec n) (k : Nat) : shrN n a.toNat k = (a >>> k).toNat := by
  rw [BitVec.toNat_ushiftRight, Nat.shiftRight_eq_div_pow, shrN]
  split
  · rfl
  case isFalse h => exact (Nat.div_eq_of_lt (a.isLt.trans_le (Nat.pow_le_pow_right two_pos (not_lt.1 h)))).symm

theorem sarN_toNat {n : Nat} (hn : 0 < n) (a : BitVec n) (k : Nat) : sarN n a.toNat k = (a.sshiftRight k).toNat := by
  rw [sarN_eq_div, toSigned_eq_toInt hn, BitVec.ofNat_toNat, BitVec.setWidth_eq, BitVec.sshiftRight, BitVec.toNat_ofInt,
    Int.shiftRight_eq_div_pow, ofInt]

theorem rotN_toNat {n : Nat} (a : BitVec n) (k : Nat) : rotN n a.toNat k = (a.rotateLeft k).toNat := by
  rw [BitVec.toNat_rotateLeft, rotN]
  split
  case isTrue h => simp [h, Nat.mod_eq_of_lt a.isLt, Nat.shiftRight_eq_div_pow, Nat.div_eq_of_lt a.isLt]
  case isFalse h =>
    rw [Nat.or_mod_two_pow, Nat.shiftLeft_eq, Nat.shiftRight_eq_div_pow,
      Nat.mod_eq_of_lt (a := _ / _) ((Nat.div_le_self _ _).trans_lt a.isLt)]

/-- R113. -/
theorem shiftsAreBitVectorShifts : Claim.ShiftsAreBitVectorShifts := fun _ k a hn =>
  ⟨shlN_toNat a k, shrN_toNat a k, sarN_toNat hn a k, rotN_toNat a k⟩

/-- Settles O3: each of the model's operations on numbers has the law that defines it. -/
theorem integerIdentities : Obligations.IntegerIdentities :=
  ⟨divisionIdentity, carryIdentity, lutIsBitwise, shiftsAreBitVectorShifts⟩

end Machine

end Sys2Proof
end

section
/-! PROOFS. Logic, shifts, fields, counts, permutations, compares and moves (R111 to R122). -/

namespace Sys2Proof

theorem IType.bits_pos (t : IType) : 0 < t.bits := by cases t <;> decide

namespace Machine

/-! Shifts (R113). -/

/-- A signed right shift below the width, and at or past it. -/
theorem sarN_eq_ite {n : Nat} (hn : 0 < n) (a k : Nat) : sarN n a k =
    if k < n then ofInt n (toSigned n a / 2 ^ k) else if toSigned n a < 0 then 2 ^ n - 1 else 0 := by
  rw [sarN_eq_div]
  split
  case isTrue => push_cast; rfl
  case isFalse h =>
    rw [toSigned_div_two_pow_of_le (not_lt.1 h)]
    have one : 1 < 2 ^ n := Nat.one_lt_two_pow hn.ne'
    split
    · rw [ofInt, Int.emod_eq_add_self_emod, Int.emod_eq_of_lt] <;> omega
    · simp [ofInt]

/-- Settles O5: SHL and SHR are written as the model has them; SAR past the width is its sign, and ROT takes its amount modulo n. -/
theorem shiftResults : Obligations.ShiftResults := by
  refine ⟨?shl, ?shr, ?sar, ?rot⟩
  case shl => exact writesBits_of_calc exec_shl (fun _ => rfl) (fun _ _ _ _ _ _ => rfl)
  case shr => exact writesBits_of_calc exec_shr (fun _ => rfl) (fun _ _ _ _ _ _ => rfl)
  case sar => exact writesBits_of_calc exec_sar (fun _ => rfl) (fun f _ _ _ _ _ => sarN_eq_ite (tyInt f).bits_pos _ _)
  case rot =>
    refine writesBits_of_calc exec_rot (fun _ => rfl) (fun f _ _ _ _ _ => ?_)
    simp only [rotN, apply_ite (· % (tyInt f).bits), Nat.mod_mod]
    rfl

/-! Fields (R114, R115). -/

theorem fshN_eq (left wrap n a b c : Nat) : fshN (left == 1) (wrap == 1) n a b c =
    let k := if wrap = 1 then c % n else min c n
    if left = 1 then (a * 2 ^ n + b) * 2 ^ k / 2 ^ n % 2 ^ n else (a * 2 ^ n + b) / 2 ^ k % 2 ^ n := by
  simp only [fshN, beq_iff_eq]

theorem bfeN_eq (signed : Bool) (n a ctl : Nat) : bfeN signed n a ctl =
    let pos := ctl % 256
    let len := ctl / 256 % 256
    if len = 0 ∨ n ≤ pos then 0
    else
      let m := min len (n - pos)
      if signed then ofInt n (toSigned m (a / 2 ^ pos % 2 ^ m)) else a / 2 ^ pos % 2 ^ m := by
  simp only [bfeN, bits_eq_div_mod, pow_zero, Nat.div_one, ge_iff_le]; rfl

theorem bfiN_eq (n a b ctl : Nat) : bfiN n a b ctl =
    let pos := ctl % 256
    let len := ctl / 256 % 256
    if len = 0 ∨ n ≤ pos then b
    else
      let m := min len (n - pos)
      b - b / 2 ^ pos % 2 ^ m * 2 ^ pos + a % 2 ^ m * 2 ^ pos := by
  simp only [bfiN, setBits, bits_eq_div_mod, pow_zero, Nat.div_one, ge_iff_le]; rfl

/-- Settles O6, by what the field operations are with their fields read by division. -/
theorem fieldResults : Obligations.FieldResults := by
  refine ⟨?fsh, ?bfe, ?bfi⟩
  case fsh => exact writesBits_of_calc exec_fsh (fun _ => rfl) (fun _ _ _ _ _ _ => fshN_eq _ _ _ _ _ _)
  case bfe => exact writesBits_of_calc exec_bfe (fun _ => rfl) (fun _ _ _ _ _ _ => bfeN_eq _ _ _ _)
  case bfi => exact writesBits_of_calc exec_bfi (fun _ => rfl) (fun _ _ _ _ _ _ => bfiN_eq _ _ _ _)

/-! Logic (R111, R112). -/

/-- R111, R112. A BLUT has its width in a MOD bit, not in a type. -/
theorem logicResults : Claim.LogicResults := by
  refine ⟨?and, ?or, ?xor, ?andn, ?orn, ?blut⟩
  case and => exact writesBits_of_calc exec_and (fun _ => rfl) (fun _ _ _ _ _ _ => rfl)
  case or => exact writesBits_of_calc exec_or (fun _ => rfl) (fun _ _ _ _ _ _ => rfl)
  case xor => exact writesBits_of_calc exec_xor (fun _ => rfl) (fun _ _ _ _ _ _ => rfl)
  case andn => exact writesBits_of_calc exec_andn (fun _ => rfl) (fun _ _ _ _ _ _ => rfl)
  case orn => exact writesBits_of_calc exec_orn (fun _ => rfl) (fun _ _ _ _ _ _ => rfl)
  case blut =>
    intro f s i h
    have wide : ((if f.mod.toNat % 2 = 1 then 64 else 32) == 64) = (f.mod.toNat % 2 == 1) := by split <;> simp [*]
    rw [exec_blut, execBlut, runCalc_clean h rfl, wide]
    rfl

/-! Counts and permutations (R116, R117). -/

theorem brevN_succ (n a : Nat) : brevN (n + 1) a = 2 * brevN n a + if a.testBit n then 1 else 0 := by
  simp [brevN, List.range_succ]

/-- Bit j of the reversal is bit n - 1 - j (R116): each further bit moves those before it up by one. -/
theorem testBit_brevN (n a j : Nat) (hj : j < n) : (brevN n a).testBit j = a.testBit (n - 1 - j) := by
  induction n generalizing j with
  | zero => omega
  | succ n ih =>
    rw [brevN_succ]
    cases j with
    | zero => cases h : a.testBit n <;> simp [Nat.testBit_zero, h]
    | succ j =>
      rw [Nat.testBit_succ, show (2 * brevN n a + if a.testBit n then 1 else 0) / 2 = brevN n a by split <;> omega,
        ih j (by omega), show n + 1 - 1 - (j + 1) = n - 1 - j by omega]

/-- R116, R117. -/
theorem countAndSwizzleResults : Claim.CountAndSwizzleResults := by
  refine ⟨?popc, ?clz, ?ctz, ?brev, testBit_brevN, ?bswz⟩
  case popc => exact writesBits_of_calc exec_popc (fun _ => rfl) (fun _ _ _ _ _ _ => rfl)
  case clz => exact writesBits_of_calc exec_clz (fun _ => rfl) (fun _ _ _ _ _ _ => rfl)
  case ctz => exact writesBits_of_calc exec_ctz (fun _ => rfl) (fun _ _ _ _ _ _ => rfl)
  case brev => exact writesBits_of_calc exec_brev (fun _ => rfl) (fun _ _ _ _ _ _ => rfl)
  case bswz =>
    refine writes_of_calc exec_bswz (fun _ => rfl) (fun f s pl w i l => ?_)
    simp only [bswzN, bswzByte, bits_eq_div_mod, pow_mul]
    rfl

/-! Compares, predicates and moves (R101, R112, R119 to R122). -/

/-- R101, R112, R119 to R122. A move carries what its source holds; the other words consume their sources. -/
theorem selectAndMoveResults : Claim.SelectAndMoveResults := by
  refine ⟨?icmp, ?plut, ?v2p, ?p2v, ?cvti, ?mov, ?movl, ?sel⟩
  case icmp => exact changes_of_consuming exec_icmp (fun _ => rfl) (fun _ _ _ _ _ => rfl)
  case plut => exact changes_of_consuming exec_plut (fun _ => rfl) (fun _ _ _ _ _ => rfl)
  case v2p => exact changes_of_consuming exec_v2p (fun _ => rfl) (fun _ _ _ _ _ => rfl)
  case p2v => exact writes_of_calc exec_p2v (fun _ => rfl) (fun _ _ _ _ _ _ => rfl)
  case cvti => exact writes_of_calc exec_cvti (fun _ => rfl) (fun _ _ _ _ _ _ => rfl)
  case mov =>
    exact carries_of_retire (u := fun f s i w => writeCarried w i.l f.dst (is64 f) (carried s i (.int (tyInt f).bits) f.a))
      exec_mov (fun _ => rfl) (fun _ _ _ _ _ => rfl)
  case movl =>
    exact carries_of_retire (u := fun f s i w => writeCarried w i.l f.dst true
      fun k l => carried s i (.int 32) (if k = 0 then f.a else f.b) 0 l) exec_movl (fun _ => rfl) (fun _ _ _ _ _ => rfl)
  case sel =>
    exact carries_of_retire (u := fun f s i w => writeCarried w i.l f.dst (is64 f)
      fun k l => carried s i (.int (tyInt f).bits) (if predVal i f.c l then f.a else f.b) k l) exec_sel (fun _ => rfl)
      (fun _ _ _ _ _ => rfl)

/-- Settles O7: each word computes, consumes or carries, and BREV is known by its bits. -/
theorem logicAndCounts : Obligations.LogicAndCounts := ⟨logicResults, countAndSwizzleResults, selectAndMoveResults⟩

end Machine

end Sys2Proof
end

section
/-! PROOFS. FCLASS and FSGN read the encoding alone (R134, R135). -/

namespace Sys2Proof

/-! Fields. -/

theorem bits_one_eq_testBit (x k : Nat) : bits x k 1 = (x.testBit k).toNat := by
  rw [bits_eq_div_mod, Nat.toNat_testBit, pow_one]

theorem sign_field_eq_testBit (t : FType) (a : Nat) : (bits a (t.fmt.eb + t.fmt.fb) 1 == 1) = a.testBit (t.bits - 1) := by
  rw [t.bits_eq, Nat.add_sub_cancel, bits_one_eq_testBit]
  cases a.testBit (t.fmt.eb + t.fmt.fb) <;> rfl

/-! Classes (R134). -/

/-- The number of the bit that FCLASS sets for a value. -/
def classIndex (f : Fmt) (v : FVal) : Nat :=
  match v with
  | .nan _ signal _ _ => if signal then 8 else 9
  | .inf s => if s then 0 else 7
  | .fin s m _ => if m = 0 then (if s then 3 else 4) else if f.isSubnormal v then (if s then 2 else 5) else if s then 1 else 6

theorem fpClass_eq_classIndex (t : FType) (a : Nat) : fpClass t a = 2 ^ classIndex t.fmt (t.fmt.unpack a) := rfl

/-- The least exponent's numbers are below the smallest normal one. -/
theorem isSubnormal_of_fraction (f : Fmt) (s : Bool) {m : Nat} (nonzero : m ≠ 0) (small : m < 2 ^ f.fb) :
    f.isSubnormal (.fin s m (f.emin - f.fb)) = true := by
  have top := (Nat.log2_lt nonzero).2 small
  simp only [Fmt.isSubnormal, bne_iff_ne, Bool.and_eq_true, decide_eq_true_eq]
  exact ⟨nonzero, by omega⟩

/-- With any other exponent, a number's hidden bit makes it normal. -/
theorem isSubnormal_of_exponent (f : Fmt) (s : Bool) {e : Nat} (m : Nat) (he : e ≠ 0) :
    f.isSubnormal (.fin s (2 ^ f.fb + m) ((e : Int) - f.bias - f.fb)) = false := by
  have pos := Nat.two_pow_pos f.fb
  have top : f.fb ≤ Nat.log2 (2 ^ f.fb + m) := (Nat.le_log2 (by omega)).2 (by omega)
  have high : ¬ (Nat.log2 (2 ^ f.fb + m) : Int) + ((e : Int) - f.bias - f.fb) < f.emin := by unfold Fmt.emin; omega
  simp [Fmt.isSubnormal, high]

/-- Of the formats without infinities E4M3 alone has a NaN. -/
theorem FType.nan_without_inf_iff (t : FType) {e m : Nat} (no : ¬ (t.fmt.hasInf = true ∧ e = 2 ^ t.fmt.eb - 1)) :
    (e = 2 ^ t.fmt.eb - 1 ∧ t.fmt.hasNan = true ∧ m = 2 ^ t.fmt.fb - 1) ↔ (t = .e4m3 ∧ e = 15 ∧ m = 7) := by
  cases t <;> simp_all [FType.fmt]

/-- The class of an encoding by its fields. -/
theorem fpClass_eq (t : FType) (a : Nat) :
    fpClass t a =
      let neg := a.testBit (t.bits - 1)
      let e := a / 2 ^ t.fmt.fb % 2 ^ t.fmt.eb
      let m := a % 2 ^ t.fmt.fb
      2 ^ (if t.fmt.hasInf = true ∧ e = 2 ^ t.fmt.eb - 1 then
          (if m = 0 then (if neg then 0 else 7) else if m.testBit (t.fmt.fb - 1) then 9 else 8)
        else if t = .e4m3 ∧ e = 15 ∧ m = 7 then 9
        else if e = 0 then (if m = 0 then (if neg then 3 else 4) else if neg then 2 else 5)
        else if neg then 1 else 6) := by
  have small : a % 2 ^ t.fmt.fb < 2 ^ t.fmt.fb := Nat.mod_lt _ (Nat.two_pow_pos _)
  rw [fpClass_eq_classIndex, Fmt.unpack_eq_value, sign_field_eq_testBit, bits_eq_div_mod, bits_eq_div_mod, pow_zero, Nat.div_one]
  generalize a.testBit (t.bits - 1) = neg, a / 2 ^ t.fmt.fb % 2 ^ t.fmt.eb = e, a % 2 ^ t.fmt.fb = m at small ⊢
  congr 1
  by_cases top : t.fmt.hasInf = true ∧ e = 2 ^ t.fmt.eb - 1
  · rw [Fmt.value, if_pos top.symm, if_pos top]
    by_cases zero : m = 0
    · simp [zero, classIndex]
    · cases quiet : m.testBit (t.fmt.fb - 1) <;> simp [zero, bits_one_eq_testBit, quiet, classIndex]
  · rw [Fmt.value, if_neg (mt And.symm top), if_neg top]
    simp only [t.nan_without_inf_iff top]
    by_cases nan : t = .e4m3 ∧ e = 15 ∧ m = 7
    · rw [if_pos nan, if_pos nan]; rfl
    · rw [if_neg nan, if_neg nan]
      by_cases least : e = 0
      · by_cases zero : m = 0
        · simp [least, zero, classIndex]
        · simp [least, zero, classIndex, isSubnormal_of_fraction t.fmt neg zero small]
      · simp [least, classIndex, isSubnormal_of_exponent t.fmt neg m least]

/-! Signs (R135). -/

/-- The top bit of a number written over. -/
theorem setBits_top {k x : Nat} (hx : x < 2 ^ (k + 1)) (v : Nat) : setBits x k 1 v = 2 ^ k * (v % 2) + x % 2 ^ k := by
  have above : x / 2 ^ k / 2 = 0 := by rw [Nat.div_div_eq_div_mul, ← pow_succ, Nat.div_eq_of_lt hx]
  rw [Machine.setBits_eq, pow_one, above, Nat.mul_zero, Nat.zero_add, Nat.add_comm]

/-- The sign that FSGN gives by its field: the second operand's, its inverse, or the exclusive or of the two. -/
def signOf (op : Nat) (sa sb : Bool) : Bool := if op = 0 then sb else if op = 1 then !sb else sa ^^ sb

theorem fpSgn_eq (t : FType) (op : Nat) {a : Nat} (b : Nat) (ha : a < 2 ^ t.bits) :
    fpSgn t op a b =
      2 ^ (t.bits - 1) * (signOf op (a.testBit (t.bits - 1)) (b.testBit (t.bits - 1))).toNat + a % 2 ^ (t.bits - 1) := by
  have width : t.bits = t.bits - 1 + 1 := by rw [t.bits_eq]; rfl
  have whole : bits a 0 t.bits = a := by rw [bits_eq_div_mod, pow_zero, Nat.div_one, Nat.mod_eq_of_lt ha]
  rw [fpSgn, whole, setBits_top (width ▸ ha), bits_one_eq_testBit, bits_one_eq_testBit]
  congr 2
  generalize a.testBit _ = sa, b.testBit _ = sb
  unfold signOf
  split
  · cases sb <;> rfl
  · split
    · cases sb <;> rfl
    · cases sa <;> cases sb <;> rfl

namespace Machine

/-- R134. -/
theorem classByEncoding : Claim.ClassByEncoding :=
  writesFp_of (fun _ _ => rfl) (fun _ => rfl) (fun f _ _ _ i l => by rw [fpClass_eq]; rfl)

/-- R135. -/
theorem signReplaced : Claim.SignReplaced := by
  intro t a b ha _ op _
  have below : a % 2 ^ (t.bits - 1) < 2 ^ (t.bits - 1) := Nat.mod_lt _ (Nat.two_pow_pos _)
  have width : 2 ^ t.bits = 2 * 2 ^ (t.bits - 1) := by rw [← pow_succ', t.bits_eq]; rfl
  rw [fpSgn_eq t op b ha]
  refine ⟨?_, ?_, ?_⟩
  · cases signOf op (a.testBit (t.bits - 1)) (b.testBit (t.bits - 1))
    · rw [Bool.toNat_false]; omega
    · rw [Bool.toNat_true]; omega
  · rw [Nat.mul_add_mod, Nat.mod_mod]
  · rw [Nat.testBit_two_pow_mul_add _ below, if_neg (lt_irrefl _), Nat.sub_self]
    exact Nat.testBit_bool_toNat ..

/-- Settles O10: the class is read off the three fields that the value was read from, and a sign is the top bit written over. -/
theorem classAndSign : Obligations.ClassAndSign := ⟨classByEncoding, signReplaced⟩

end Machine

end Sys2Proof
end

section
/-! PROOFS. Registers that move to a spill slot leave the requests in flight (R177). -/

namespace Sys2Proof.Machine

open Sys2Proof

theorem pend_foldl {α : Type} (f : State → α → State) (h : ∀ s a, (f s a).pend = s.pend) (l : List α) (s : State) :
    (l.foldl f s).pend = s.pend := by
  induction l generalizing s with
  | nil => rfl
  | cons a t ih => rw [List.foldl_cons, ih, h]

/-! Atoms, scrubbing and stores. -/

@[simp] theorem atomAccess_pend (s : State) (pa : Nat) (b : Bool) : (atomAccess s pa b).pend = s.pend := by
  have read (a : Atom) (k : Nat) : (atomRead s a (some k)).pend = s.pend := by
    unfold atomRead; split
    · rfl
    · split <;> rfl
  have written (a : Atom) : (atomWritten s a).pend = s.pend := by unfold atomWritten; split <;> rfl
  unfold atomAccess
  split
  · rfl
  · split
    · dsimp only
      split
      · rfl
      · cases b
        · exact read _ _
        · exact written _
    · rfl

@[simp] theorem endEvent_pend (s : State) (n : Nat) : (endEvent s n).pend = s.pend := by
  unfold endEvent
  split
  · rfl
  · dsimp only; split <;> rfl

@[simp] theorem zeroRange_pend (s : State) (lo hi : Nat) : (zeroRange s lo hi).pend = s.pend := by
  have clean : (atomsClean s lo hi).pend = s.pend := by unfold atomsClean; dsimp only; split <;> rfl
  exact (pend_foldl endEvent endEvent_pend _ _).trans clean

@[simp] theorem scrubAt_pend (s : State) (pa : Nat) : (scrubAt s pa).pend = s.pend := by
  have one (c g : Nat) : (scrubOne s c g).pend = s.pend := by
    unfold scrubOne
    split
    · rfl
    · dsimp only; split <;> exact zeroRange_pend s _ _
  unfold scrubAt
  split
  · split
    · exact one _ _
    · rfl
  · rfl

@[simp] theorem poisonAfter_pend (o : Option Nat) (l : List Store) (s : State) (n : Nat) : (poisonAfter o l s n).pend = s.pend := by
  have clean (s : State) : (cleanSector s n).pend = s.pend := by
    unfold cleanSector; split
    · rfl
    · exact endEvent_pend _ _
  have marked (s : State) (m : Mark) : (poisonSector s n m).pend = s.pend := rfl
  unfold poisonAfter
  split
  · rfl
  · dsimp only
    split
    · simp [marked]
    · split <;> simp [clean]

@[simp] theorem putBytes_pend (s : State) (key : Option Nat) (pa : Nat) (l : List Byte) : (putBytes s key pa l).pend = s.pend := by
  have kept : (farKeep s pa l.length).pend = s.pend := by unfold farKeep; split <;> rfl
  unfold putBytes
  cases key with
  | none => exact kept
  | some k => dsimp only; split <;> exact kept

@[simp] theorem physStores_pend (s : State) (o k : Option Nat) (l : List Store) : (physStores s o k l).pend = s.pend := by
  have store (s : State) (w : Store) : (physStore o k s w).pend = s.pend := by
    unfold physStore
    split
    · rfl
    · split <;> simp
  unfold physStores
  dsimp only
  rw [pend_foldl _ store, pend_foldl _ (poisonAfter_pend o l),
    pend_foldl (fun s (w : Store) => scrubAt s w.pa) fun s w => scrubAt_pend s w.pa]

/-! L2. -/

@[simp] theorem chargeAtoms_pend (s : State) (pa p n : Nat) : (chargeAtoms s pa p n).pend = s.pend := by
  unfold chargeAtoms
  split
  · dsimp only; rw [apply_ite State.pend, dctlSet_pend, ite_self]
  · rfl

@[simp] theorem hostGrant_pend (s : State) (q : L2Req) : (hostGrant s q).1.pend = s.pend := by unfold hostGrant; split <;> rfl

@[simp] theorem evictLine_pend (s : State) (l : L2Line) : (evictLine s l).pend = s.pend := by
  have taken (s : State) (lo hi : Nat) : (farTake s lo hi).pend = s.pend := by unfold farTake; dsimp only; split <;> rfl
  have written : (writeBackLine s l).pend = s.pend := by
    have charged : (match ownerOf s (l.line * 128) with
        | some p => chargeAtoms s (l.line * 128) p (dirtyList l).length
        | none => s).pend = s.pend := by split <;> simp
    have moved := pend_foldl (fun s i => farDone s (l.line * 128 + 32 * i) (l.line * 128 + 32 * i + 32)) (fun _ _ => rfl) (dirtyList l)
    unfold writeBackLine
    dsimp only
    split
    · rfl
    · split <;> exact (moved _).trans charged
  unfold evictLine
  dsimp only
  split <;> split <;> exact (taken _ _ _).trans written

@[simp] theorem l2Access_pend (s : State) (q : L2Req) (pa : Nat) : (l2Access s q pa).pend = s.pend := by
  have numbered (bank : Nat) : (numberRead s bank (pa / 128) q.read).pend = s.pend := by unfold numberRead; split <;> rfl
  have found (s : State) (l : L2Line) : (l2Found s q pa l).pend = s.pend := by
    unfold l2Found
    dsimp only
    rw [hostGrant_pend, chargeAtoms_pend]
    split <;> rfl
  have filled (s : State) (owner bank set : Nat) : (l2Fill s q pa owner bank set).pend = s.pend := by
    have counted : (if q.counted then countLookup s q.part false else s).pend = s.pend := by split <;> rfl
    unfold l2Fill
    dsimp only
    split
    · exact (chargeAtoms_pend _ _ _ _).trans counted
    · rw [hostGrant_pend]
      split
      · exact (evictLine_pend _ _).trans ((chargeAtoms_pend _ _ _ _).trans counted)
      · exact (chargeAtoms_pend _ _ _ _).trans counted
  unfold l2Access
  split
  · dsimp only
    split
    · exact (found _ _).trans (numbered _)
    · exact (filled _ _ _ _).trans (numbered _)
  · rfl

/-! Spills. -/

@[simp] theorem freeEntries_pend (s : State) (core track b n : Nat) : (freeEntries s core track b n).pend = s.pend :=
  pend_foldl (fun s (e : Nat × Warp) => modWarp s e.1 fun w => { w with alloc := e.2.alloc }) (fun _ _ => rfl) _ _

@[simp] theorem moveOut_pend (s : State) (pl : Nat) (w : Warp) (r : Nat) (x : VReg) : (moveOut s pl w r x).pend = s.pend :=
  (physStores_pend _ _ _ _).trans (l2Access_pend s _ _)

@[simp] theorem settle_pend (s : State) (pl r : Nat) : (settle s pl r).pend = s.pend := by
  unfold settle
  split
  · rfl
  · split
    · split
      · rw [freeEntries_pend, moveOut_pend]
      · rfl
    · rfl

end Sys2Proof.Machine
end

section
/-! PROOFS. Long words and the completion of requests (R27, R126, R138 to R140, R147, R148, R260, R261, R264). -/

namespace Sys2Proof.Machine

open Sys2Proof

/-! Long words. -/

/-- RNGPX, whose sources are groups of registers and which raises no flag. -/
theorem rngpx_delivers (f : WordF) (s : State) (i : Iss) (h : Clean (.rngpx f) s i) :
    exec (.rngpx f) s = .next (wordAfter i (if i.l = 0#32 then wordState s i (.rngpx f)
      else addPend (wordState s i (.rngpx f)) i.place .long i.l
        (fillsOf f.dst 4 (deliveredLanes i f.dst) (fun k l => Val.clean (BitVec.ofNat 32
          ((philox (groupReg i f.a 4 0 l) (groupReg i f.a 4 1 l) (groupReg i f.a 4 2 l) (groupReg i f.a 4 3 l)
            (groupReg i f.b 2 0 l) (groupReg i f.b 2 1 l)).getD k 0)))))) := by
  rw [exec_rngpx, execRngpx, runWord_acts h.toActs (g := f.guard) rfl (by rfl) (by rfl)]
  simp only [h.clean]
  split <;> (rw [settleRes_retire h.toActs]; rfl)

/-- R126, R138 to R140, R147, R148. -/
theorem longWordsDeliver : Claim.LongWordsDeliver := by
  refine ⟨?frcp, ?frsq, ?fsqrt, ?fexp2, ?flog2, ?fsinpi, ?fcospi, ?ftanh, ?fdiv, rngpx_delivers⟩
  case frcp => exact delivers_of_fun exec_frcp (fun _ => rfl)
  case frsq => exact delivers_of_fun exec_frsq (fun _ => rfl)
  case fsqrt => exact delivers_of_fun exec_fsqrt (fun _ => rfl)
  case fexp2 => exact delivers_of_fun exec_fexp2 (fun _ => rfl)
  case flog2 => exact delivers_of_fun exec_flog2 (fun _ => rfl)
  case fsinpi => exact delivers_of_fun exec_fsinpi (fun _ => rfl)
  case fcospi => exact delivers_of_fun exec_fcospi (fun _ => rfl)
  case ftanh => exact delivers_of_fun exec_ftanh (fun _ => rfl)
  case fdiv => exact delivers_of exec_fdiv (fun _ => rfl) (fun _ _ _ _ _ _ => rfl)

/-! Results that land. -/

/-- One result of a request lands in its register. -/
def landFill (id : Nat) (w : Warp) (x : Fill) : Warp :=
  if x.code < 256 then vFill w x.code id x.mask x.vals else sFill w (x.code - 256) id (x.vals[x.mask.low?.getD 0])

/-- The results of a request land, and its flags are merged. -/
def completedWarp (id : Nat) (p : Pend) (w : Warp) : Warp := completeRes (p.fills.foldl (landFill id) w) id

/-- What a v register that awaits a request holds when its result has landed. -/
def vLanded (id : Nat) (x : Fill) (r : VReg) : VReg :=
  if r.busy = some id then
    { r with lanes := Vector.ofFn (fun l => if x.mask.has l then x.vals[l] else r.lanes[l]), busy := none }
  else r

/-- What an s register that awaits a request holds when its result has landed. -/
def sLanded (id : Nat) (x : Fill) (u : UReg) : UReg := if u.busy = some id then ⟨x.vals[x.mask.low?.getD 0], none⟩ else u

theorem completePend_eq (s : State) (id : Nat) (p : Pend) :
    completePend s id p = p.fills.foldl (fun s x => if x.code < 256 then settle s p.place x.code else s)
      (modWarp { s with pend := FMap.del s.pend id } p.place (completedWarp id p)) := rfl

/-- A result leaves every other register. -/
theorem get?_landFill_other (id : Nat) (w : Warp) (x : Fill) {c : Nat} (h : x.code ≠ c) :
    (c < 256 → FMap.get? (landFill id w x).v c = FMap.get? w.v c) ∧
      (256 ≤ c → FMap.get? (landFill id w x).s (c - 256) = FMap.get? w.s (c - 256)) := by
  unfold landFill
  split
  case isTrue small => exact ⟨fun _ => get?_modify_other _ _ _ _ h.symm, fun _ => rfl⟩
  case isFalse large => exact ⟨fun _ => rfl, fun hc => get?_modify_other _ _ _ _ (by omega)⟩

theorem get?_landFill_v (id : Nat) (w : Warp) (x : Fill) (h : x.code < 256) :
    FMap.get? (landFill id w x).v x.code = (FMap.get? w.v x.code).map (vLanded id x) := by
  rw [landFill, if_pos h]
  exact get?_modify_same _ _ _

theorem get?_landFill_s (id : Nat) (w : Warp) (x : Fill) (h : 256 ≤ x.code) :
    FMap.get? (landFill id w x).s (x.code - 256) = (FMap.get? w.s (x.code - 256)).map (sLanded id x) := by
  rw [landFill, if_neg (by omega)]
  exact get?_modify_same _ _ _

/-- What only the result with a code changes is after all results as that result makes it. -/
theorem foldl_landFill {β : Type} (id : Nat) (φ : Warp → β) (g : β → β) {fills : List Fill} {x : Fill} (mem : x ∈ fills)
    (nodup : (fills.map Fill.code).Nodup) (same : ∀ w, φ (landFill id w x) = g (φ w))
    (other : ∀ w y, y.code ≠ x.code → φ (landFill id w y) = φ w) (w : Warp) : φ (fills.foldl (landFill id) w) = g (φ w) := by
  have kept (l : List Fill) (h : ∀ y ∈ l, y.code ≠ x.code) (w : Warp) : φ (l.foldl (landFill id) w) = φ w := by
    induction l generalizing w with
    | nil => rfl
    | cons y t ih =>
      obtain ⟨hy, ht⟩ := List.forall_mem_cons.1 h
      rw [List.foldl_cons, ih ht, other w y hy]
  obtain ⟨pre, post, rfl⟩ := List.append_of_mem mem
  rw [List.map_append, List.map_cons, List.nodup_middle, List.nodup_cons, List.mem_append, not_or] at nodup
  obtain ⟨⟨hb, ha⟩, -⟩ := nodup
  rw [List.foldl_append, List.foldl_cons, kept post fun y hy e => ha (e ▸ List.mem_map_of_mem hy), same,
    kept pre fun y hy e => hb (e ▸ List.mem_map_of_mem hy)]

/-- Results change registers alone. -/
theorem foldl_landFill_registers (id : Nat) (fills : List Fill) (w : Warp) :
    ∃ v n, fills.foldl (landFill id) w = { w with v := v, s := n } := by
  induction fills generalizing w with
  | nil => exact ⟨w.v, w.s, rfl⟩
  | cons x t ih =>
    obtain ⟨v, n, landed⟩ : ∃ v n, landFill id w x = { w with v := v, s := n } := by
      unfold landFill
      split
      · exact ⟨_, w.s, rfl⟩
      · exact ⟨w.v, _, rfl⟩
    obtain ⟨v', n', rest⟩ := ih (landFill id w x)
    exact ⟨v', n', by rw [List.foldl_cons, rest, landed]⟩

theorem completeRes_flagsRise (w : Warp) (id : Nat) : FlagsRise w (completeRes w id) :=
  (flagsRise_of_queue w _).trans (drainList_flagsRise _ _)

theorem completedWarp_frame (id : Nat) (p : Pend) (w : Warp) :
    (completedWarp id p w).pc = w.pc ∧ (completedWarp id p w).p = w.p ∧ (completedWarp id p w).spilled = w.spilled := by
  obtain ⟨v, n, landed⟩ := foldl_landFill_registers id p.fills w
  obtain ⟨c, x, q, merged⟩ := completeRes_flagsRise (p.fills.foldl (landFill id) w) id
  rw [completedWarp, merged, landed]
  exact ⟨rfl, rfl, rfl⟩

/-- The merge of its flags leaves what the results of a request have put into registers. -/
theorem completedWarp_registers (id : Nat) (p : Pend) (w : Warp) :
    (completedWarp id p w).v = (p.fills.foldl (landFill id) w).v ∧ (completedWarp id p w).s = (p.fills.foldl (landFill id) w).s := by
  obtain ⟨c, x, q, merged⟩ := completeRes_flagsRise (p.fills.foldl (landFill id) w) id
  rw [completedWarp, merged]
  exact ⟨rfl, rfl⟩

section
variable {id : Nat} {p : Pend} {w : Warp} (nodup : (p.fills.map Fill.code).Nodup) {x : Fill} (mem : x ∈ p.fills)
include nodup mem

/-- A v register that awaits the request is full, with the values of the request in its lanes (R27, R260). -/
theorem completedWarp_v (code : x.code < 256) {r : VReg} (hr : FMap.get? w.v x.code = some r) (busy : r.busy = some id) :
    vBusy (completedWarp id p w) x.code = false ∧
      ∀ l, vRead (completedWarp id p w) x.code l = if x.mask.has l then x.vals[l] else r.lanes[l] := by
  have landed : FMap.get? (completedWarp id p w).v x.code = some (vLanded id x r) := by
    rw [(completedWarp_registers id p w).1, foldl_landFill id (fun w => FMap.get? w.v x.code) (Option.map (vLanded id x)) mem nodup
      (get?_landFill_v id · x code) (fun w y hy => (get?_landFill_other id w y hy).1 code), hr, Option.map_some]
  rw [vLanded, if_pos busy] at landed
  exact ⟨by simp [vBusy, landed], fun l => by simp [vRead, landed]⟩

/-- An s register that awaits the request is full, with the value of the lowest lane (R27). -/
theorem completedWarp_s (code : 256 < x.code) {u : UReg} (hu : FMap.get? w.s (x.code - 256) = some u) (busy : u.busy = some id) :
    sBusy (completedWarp id p w) (x.code - 256) = false ∧
      ∀ l, x.mask.low? = some l → sRead (completedWarp id p w) (x.code - 256) = x.vals[l] := by
  have landed : FMap.get? (completedWarp id p w).s (x.code - 256) = some (sLanded id x u) := by
    rw [(completedWarp_registers id p w).2, foldl_landFill id (fun w => FMap.get? w.s (x.code - 256)) (Option.map (sLanded id x)) mem
      nodup (get?_landFill_s id · x code.le) (fun w y hy => (get?_landFill_other id w y hy).2 code.le), hu, Option.map_some]
  rw [sLanded, if_pos busy] at landed
  refine ⟨by simp [sBusy, FMap.getD, landed], fun l low => ?_⟩
  have uniform : x.code - 256 ≠ 0 := by omega
  simp [sRead, uniform, FMap.getD, landed, low]

end

/-! Requests that complete. -/

/-- A register of a warp that is not spilled stays where it is. -/
theorem settle_of_resident {s : State} {pl : Nat} {w : Warp} (hw : warp? s pl = some w) (resident : w.spilled = false) (r : Nat) :
    settle s pl r = s := by
  unfold settle
  simp only [hw, resident, Bool.false_and, Bool.false_eq_true, if_false]
  split <;> rfl

theorem completePend_pend (s : State) (id : Nat) (p : Pend) : (completePend s id p).pend = FMap.del s.pend id := by
  rw [completePend_eq, pend_foldl _ fun s x => ?_]
  · rfl
  · split
    · exact settle_pend _ _ _
    · rfl

theorem completePend_warp {s : State} {id : Nat} {p : Pend} {w : Warp} (hw : warp? s p.place = some w) (resident : w.spilled = false) :
    warp? (completePend s id p) p.place = some (completedWarp id p w) := by
  rw [completePend_eq]
  set t := modWarp { s with pend := FMap.del s.pend id } p.place (completedWarp id p)
  have landed : warp? t p.place = some (completedWarp id p w) := by
    rw [warp?_modWarp_same, show warp? { s with pend := FMap.del s.pend id } p.place = some w from hw, Option.map_some]
  have stays (r : Nat) : settle t p.place r = t := settle_of_resident landed ((completedWarp_frame id p w).2.2.trans resident) r
  rw [List.foldl_fixed' fun x => by rw [stays, ite_self], landed]

/-- Each of the four completions completes the request of its kind. -/
theorem exec_completion {s : State} {id : Nat} {p : Pend} {x : Instr} (hp : FMap.get? s.pend id = some p)
    (h : (x = .loadComplete id ∧ p.kind = .load) ∨ (x = .atomicComplete id ∧ p.kind = .atomic) ∨
      (x = .writeAcknowledged id ∧ p.kind = .store) ∨ (x = .longComplete id ∧ p.kind = .long)) :
    exec x s = .next (completePend s id p) := by
  obtain ⟨rfl, kind⟩ | ⟨rfl, kind⟩ | ⟨rfl, kind⟩ | ⟨rfl, kind⟩ := h
  · simp only [exec_loadComplete, execLoadComplete, hp, kind, if_true]
  · simp only [exec_atomicComplete, execAtomicComplete, hp, kind, if_true]
  · simp only [exec_writeAcknowledged, execWriteAcknowledged, hp, kind, if_true]
  · simp only [exec_longComplete, execLongComplete, hp, kind, if_true]

/-- R27, R126, R260, R261, R264. -/
theorem requestsComplete : Claim.RequestsComplete := by
  intro s id p x hp hx
  refine ⟨_, exec_completion hp hx, by rw [completePend_pend, get?_del_same], fun w hw resident => ?_⟩
  obtain ⟨pcs, preds, -⟩ := completedWarp_frame id p w
  exact ⟨_, completePend_warp hw resident, pcs, preds, fun nodup fill mem =>
    ⟨fun code r hr busy => completedWarp_v nodup mem code hr busy, fun code u hu busy => completedWarp_s nodup mem code hu busy⟩⟩

/-- Settles O9: a long word files a request, and a request that completes lands its results, each in the register of its code. -/
theorem longRequests : Obligations.LongRequests := ⟨longWordsDeliver, requestsComplete⟩

end Sys2Proof.Machine
end

section
/-! PROOFS. Control words: branches, calls and returns, EXIT, NOP, and the words that trap (R153, R160, R161, R164, R166). -/

namespace Sys2Proof.Machine

open Sys2Proof

/-! Running a word whose effect moves its lanes, or traps. -/

theorem settleRes_trap (s : State) (i : Iss) (x : Instr) (rel : Warp) (t : Trap) : settleRes s i x rel (.trap t) = wordTraps s i t := rfl

theorem lendBad_of_inside {i : Iss} (h : atLend i = false) (s : State) : lendBad s i = none := by
  rw [lendBad, firstBad_cons, h]; rfl

/-! R161. -/

/-- Settles O13: NOP runs as a word whose effect leaves the state as it is. -/
theorem nopOnlyMoves : Obligations.NopOnlyMoves := by
  intro f s i h
  rw [exec_nop, execNop, runWord_acts h (g := f.guard) rfl rfl rfl, settleRes_retire h]
  rfl

/-! R164, R166. -/

/-- A user trap's word, before its number is known. -/
theorem userTrap_run {x : Instr} {f : WordF} {s : State} {i : Iss} (h : Clean x s i) (hg : f.guard = guardOfInstr x)
    (inside : atLend i = false) (code : Nat) :
    runWord x f.guard noWait lendBad (userTrap x f code) s = .next (if i.l = 0#32 then wordAfter i (wordState s i x)
      else wordTraps s i ⟨code, uniVal s i (.int 32) f.a % 65536, 0, false, i.l, []⟩) := by
  rw [runWord_acts h.toActs hg rfl (lendBad_of_inside inside s), userTrap]
  split
  · rw [settleRes_retire h.toActs]; rfl
  · simp only [h.clean]; rfl

theorem userTrapsRaise : Claim.UserTrapsRaise :=
  ⟨fun _ _ _ h inside => userTrap_run h rfl inside 7, fun _ _ _ h inside => userTrap_run h rfl inside 0xB⟩

theorem illegRaises : Claim.IllegRaises := by
  intro low s i h
  rw [exec_illeg, execIlleg, runWord_acts h (g := Guard.always) rfl rfl rfl]
  rfl

/-- Settles O14: a user trap's lanes are those whose guard holds, ILLEG's the active ones. -/
theorem trapWords : Obligations.TrapWords := ⟨userTrapsRaise, illegRaises⟩

/-! R153. -/

/-- The targets of L's lanes that are not multiples of 8. -/
def misaligned (i : Iss) (t : Lane → Dword) : Mask := Mask.ofFn (fun l => i.l.has l && (t l).toNat % 8 != 0)

/-- The warp after a transfer: the return pair where there is one, and every active lane at its target or at the next word. -/
def transferred (i : Iss) (ret : Option Nat) (t : Lane → Dword) (w : Warp) : Warp :=
  let w := match ret with
    | some r => vWrite (vWrite w r i.l (fun _ => Val.clean (i.next.setWidth 32))) (r + 1) i.l
        (fun _ => Val.clean ((i.next >>> 32).setWidth 32))
    | none => w
  jump w i.a (fun l => if i.l.has l then t l else i.next)

theorem transfer_run {x : Instr} {g : Guard} {s : State} {i : Iss} (h : Clean x s i) (hg : g = guardOfInstr x)
    (inside : atLend i = false) {reg ret : Option Nat} (hr : reg = ret) (t : State → Iss → Lane → Dword) :
    runWord x g noWait lendBad (transfer x reg t) s =
      .next (if misaligned i (t (wordState s i x) i) = 0#32 then wordMoved s i x (transferred i ret (t (wordState s i x) i))
        else wordTraps s i ⟨5, 0, 1, false, misaligned i (t (wordState s i x) i), []⟩) := by
  subst hr
  rw [runWord_acts h.toActs hg rfl (lendBad_of_inside inside s), transfer]
  simp only [h.clean]
  by_cases aligned : misaligned i (t (wordState s i x) i) = 0#32
  · rw [if_pos aligned, if_neg (by simpa [misaligned, misTarget] using aligned), settleRes_moved h.toActs]
    rfl
  · rw [if_neg aligned, if_pos (by simpa [misaligned, misTarget] using aligned)]
    rfl

theorem branchesTransfer : Claim.BranchesTransfer := by
  have link (b : WordB) : some (retReg8 b) = some (b.bmod.toNat / 32 % 256) := congrArg some (bits_eq_div_mod _ _ _)
  refine ⟨fun b s i h inside => ?_, fun b s i h inside => ?_, fun b s i h inside => ?_, fun b s i h inside => ?_,
    fun b s i h inside => ?_⟩
  · exact transfer_run h rfl inside rfl fun _ i _ => dispTarget i b
  · exact transfer_run h rfl inside rfl (ctTarget b)
  · exact transfer_run h rfl inside (link b) fun _ i _ => dispTarget i b
  · exact transfer_run h rfl inside (link b) (ctTarget b)
  · exact transfer_run h rfl inside rfl (ctTarget b)

/-! R160. -/

/-- Lanes that leave every level are in none of those that stay. -/
theorem mem_leaveLevels_all {w : Warp} {m : Mask} {v : LoopLevel} (h : v ∈ (leaveLevels w w.loops.length m).loops) :
    v.lanes &&& m = 0#32 ∧ v.lanes ≠ 0#32 := by
  simp only [leaveLevels, Nat.sub_self, List.take_zero, List.drop_zero, List.nil_append, List.mem_filter, List.mem_map] at h
  obtain ⟨⟨u, -, rfl⟩, some⟩ := h
  refine ⟨?_, by simpa using some⟩
  show u.lanes &&& ~~~m &&& m = 0#32
  simp [BitVec.and_assoc]

/-- EXIT changes the convergent mask, the levels and the entry masks alone. -/
theorem exitLanes_eq (w : Warp) (m : Mask) : ∃ t k u e, exitLanes w m =
    { leaveLevels { w with conv := w.conv &&& ~~~m } w.loops.length m with tmask := t, intrap := k, uentry := u, uiin := e } := by
  unfold exitLanes
  dsimp only
  split <;> split <;> exact ⟨_, _, _, _, rfl⟩

theorem exitRemovesLanes : Claim.ExitRemovesLanes := by
  refine ⟨fun f s i h bad => ?_, fun w m => ?_⟩
  · rw [exec_exit, execExit, runWord_acts h (g := f.guard) rfl rfl bad, settleRes_moved h]
  · obtain ⟨t, k, u, e, he⟩ := exitLanes_eq w m
    rw [he]
    exact ⟨rfl, rfl, rfl, fun v hv => mem_leaveLevels_all (w := { w with conv := w.conv &&& ~~~m }) hv⟩

/-- Settles O11: a transfer's targets are known when its word runs, and lanes that exit leave every level. -/
theorem branches : Obligations.Branches := ⟨branchesTransfer, exitRemovesLanes⟩

end Sys2Proof.Machine
end

section
/-! PROOFS. The steps of warps and lift lines, and the warp that a line starts (R160, R172, R173, R178, R185 to R187). -/

namespace Sys2Proof.Machine

open Sys2Proof

theorem markRotation_forces {s : State} {pl : Nat} {w : Warp} {g : Dword × Mask} (hw : warp? s pl = some w) (run : 256 ≤ w.run)
    (free : w.forced = none) (hg : rotationGroup s pl w = some g) :
    markRotation s pl = modWarp s pl (fun w => { w with forced := leadOf g }) := by
  have due : ¬ (w.run < 256 ∨ w.forced.isSome = true) := by simp [free, run]
  simp only [markRotation, hw, hg, if_neg due]

theorem dispatchLine_admits {s u : State} {core n track : Nat} {l : LiftLine} {x : Wg} {k : Dword × Dword × List Val}
    (hx : wg? s l.wg = some x) (hk : lineKept s x = (u, some k)) :
    dispatchLine s core n track l = modCore (fitPool core track 16 (admitWarp u core track (lineWarp u x l k))) core (fun c =>
      { c with lines := FMap.del c.lines n }) := by
  simp only [dispatchLine, hx, hk]

/-- A line that is first to dispatch, of a workgroup that is not being saved, is dispatched to its track. -/
theorem exec_lineDispatch_first {s : State} {core n track : Nat} {l : LiftLine} {q : List (Nat × LiftLine)} {x : Wg}
    (first : dispatchOrder s core = (n, l) :: q) (hx : wg? s l.wg = some x) (idle : x.saving = none)
    (ht : lineTrack s core (rFloor x.record) = some track) :
    exec (.lineDispatch core) s = .next (dispatchLine s core n track l) := by
  simp only [exec_lineDispatch, execLineDispatch, first, List.find?_cons, hx, idle, Option.any_some, Option.isNone_none,
    Option.bind_some, ht]

theorem finishWarp_of_no_failure (s : State) (pl : Nat) {w : Warp} (copies : w.fails = []) (matrix : w.mvfail = []) :
    finishWarp s pl w = endWarp s pl := by
  simp [finishWarp, endFailures, oldestFail, copies, matrix]

theorem exec_warpEnd_finishes {s : State} {pl : Nat} {w : Warp} (hw : warp? s pl = some w) (lodge : isLodge pl = false)
    (hc : canEnd w = true) : exec (.warpEnd pl) s = .next (finishWarp s pl w) := by
  simp [execWarpEnd, hw, lodge, hc]

/-- R160, R172, R173, R178, R185. -/
theorem warpsStep : Claim.WarpSteps := by
  refine ⟨fun s pl w g hw run free hg => ?_, fun s core track e he => ?_, fun s pl w hw ready => ?_, fun s core line l hl aged => ?_,
    fun s core n l q x t u k first hx idle ht hk => ?_, fun s pl w hw lodge gone vregs sregs => ⟨?_, fun copies matrix => ?_⟩⟩
  · rw [exec_rotation, execRotation, markRotation_forces hw run free hg]
  · rw [exec_waitcPriority, execWaitcPriority, he]
  · simp only [exec_spillRestore, execSpillRestore, hw, ready, if_true]
  · simp only [exec_lineAgeTrigger, execLineAgeTrigger, hl, aged, if_true]
  · rw [exec_lineDispatch_first first hx idle ht, dispatchLine_admits hx hk]
  · exact exec_warpEnd_finishes hw lodge (by simp [canEnd, gone, vregs, sregs])
  · exact ⟨warp?_endWarp s pl, finishWarp_of_no_failure s pl copies matrix⟩

/-! R186, R187. -/

/-- A line's warp has as many registers as the entry that carries the most, so no fewer than any entry. -/
theorem vals_length_le_lineRegs {l : LiftLine} {e : LineEntry} (he : e ∈ l.entries) : e.vals.length ≤ lineRegs l := by
  have most (es : List LineEntry) (n : Nat) : n ≤ es.foldl (fun n e => max n e.vals.length) n ∧
      ∀ e ∈ es, e.vals.length ≤ es.foldl (fun n e => max n e.vals.length) n := by
    induction es generalizing n with
    | nil => simp
    | cons y t ih =>
      obtain ⟨rises, bounds⟩ := ih (max n y.vals.length)
      exact ⟨(le_max_left _ _).trans rises, List.forall_mem_cons.2 ⟨(le_max_right _ _).trans rises, bounds⟩⟩
  exact (most l.entries 0).2 e he

theorem get?_map_keys {α : Type} (f : Nat → α) {ks : List Nat} {r : Nat} (h : r ∈ ks) :
    FMap.get? (ks.map fun k => (k, f k)) r = some (f r) := by
  induction ks with
  | nil => cases h
  | cons k t ih =>
    by_cases here : r = k
    · simp [FMap.get?, here]
    · simpa [FMap.get?, here] using ih ((List.mem_cons.1 h).resolve_left here)

/-- A warp that a line starts holds in a lane the registers that the lane's entry carries. -/
theorem vRead_lineWarp {l : LiftLine} {i : Lane} {e : LineEntry} {r : Nat} {x : Val} (he : l.entries[i.val]? = some e)
    (hx : e.vals[r]? = some x) (s : State) (y : Wg) (k : Dword × Dword × List Val) (seq : Nat) :
    vRead (lineWarp s y l k seq) r i = x := by
  have short : r < lineRegs l :=
    (List.getElem?_eq_some_iff.1 hx).1.trans_le (vals_length_le_lineRegs (List.mem_of_getElem? he))
  have reg : FMap.get? (lineWarp s y l k seq).v r = some (lineReg l r) := get?_map_keys _ (List.mem_range.2 short)
  simp [vRead, reg, lineReg, he, hx]

theorem lineWarpHoldsEntries : Claim.LineWarpHoldsEntries := by
  intro s x l k seq _ w
  refine ⟨fun i => ⟨has_ofFn _ _, ?_⟩, fun i e he => ⟨?_, fun p hp => ?_, fun r y hy => vRead_lineWarp he hy s x k seq⟩⟩
  · simp [w, lineWarp, loadKept, newWarp]
  · simp [w, lineWarp, loadKept, newWarp, he]
  · simp [pRead, hp, w, lineWarp, loadKept, newWarp, he]

/-- Settles O32: each step from its guard, and a line's warp from the entries that its lanes take. -/
theorem warpsAdvance : Obligations.WarpsAdvance := ⟨warpsStep, lineWarpHoldsEntries⟩

end Sys2Proof.Machine
end

section
/-! PROOFS. What accesses of the device change: memory and its poison, caches of L2, events, channels' errors, and the records of
partitions; all else stays as it was (R214 to R220, R259, R275, R364, R374, R426, R434). -/

namespace Sys2Proof.Machine

open Sys2Proof

/-- What of the state no access of the device changes: s without its memory, caches, events, errors and partitions' records. -/
def beyond (s : State) : State :=
  { s with
    parts := [], mem := [], poison := [], far := [], scrub := [], l2 := [], pevents := [], oseq := [], outbox := [], cairn := []
    cairnwp := 0, dctl := [], cerr := [], uerr := [], free := 0 }

theorem cur_of_beyond {s t : State} (h : beyond t = beyond s) : t.cur = s.cur := show (beyond t).cur = (beyond s).cur by rw [h]

theorem warp?_of_beyond {s t : State} (h : beyond t = beyond s) (pl : Nat) : warp? t pl = warp? s pl :=
  show warp? (beyond t) pl = warp? (beyond s) pl by rw [h]

theorem beyond_foldl {α : Type} (f : State → α → State) (h : ∀ s a, beyond (f s a) = beyond s) (l : List α) (s : State) :
    beyond (l.foldl f s) = beyond s := by
  induction l generalizing s with
  | nil => rfl
  | cons a t ih => rw [List.foldl_cons, ih, h]

/-! Atoms, poison and scrubbing. -/

@[simp] theorem beyond_atomWritten (s : State) (a : Atom) : beyond (atomWritten s a) = beyond s := by
  unfold atomWritten; split <;> rfl

@[simp] theorem beyond_atomRead (s : State) (a : Atom) (k : Option Nat) : beyond (atomRead s a k) = beyond s := by
  unfold atomRead
  split
  · cases k <;> rfl
  · split <;> rfl

@[simp] theorem beyond_atomAccess (s : State) (pa : Nat) (whole : Bool) : beyond (atomAccess s pa whole) = beyond s := by
  unfold atomAccess
  split
  · rfl
  · split
    · dsimp only
      split
      · rfl
      · cases whole <;> simp
    · rfl

@[simp] theorem beyond_endEvent (s : State) (n : Nat) : beyond (endEvent s n) = beyond s := by
  unfold endEvent
  split
  · rfl
  · dsimp only; split <;> rfl

@[simp] theorem beyond_zeroRange (s : State) (lo hi : Nat) : beyond (zeroRange s lo hi) = beyond s := by
  have clean : beyond (atomsClean s lo hi) = beyond s := by unfold atomsClean; dsimp only; split <;> rfl
  exact (beyond_foldl endEvent beyond_endEvent _ _).trans clean

@[simp] theorem beyond_scrubAt (s : State) (pa : Nat) : beyond (scrubAt s pa) = beyond s := by
  have one (c g : Nat) : beyond (scrubOne s c g) = beyond s := by
    unfold scrubOne
    split
    · rfl
    · dsimp only; split <;> exact beyond_zeroRange s _ _
  unfold scrubAt
  split
  · split
    · exact one _ _
    · rfl
  · rfl

@[simp] theorem beyond_cleanSector (s : State) (n : Nat) : beyond (cleanSector s n) = beyond s := by
  unfold cleanSector
  split
  · rfl
  · exact beyond_endEvent _ _

@[simp] theorem beyond_poisonAfter (o : Option Nat) (l : List Store) (s : State) (n : Nat) : beyond (poisonAfter o l s n) = beyond s := by
  have marked (s : State) (m : Mark) : beyond (poisonSector s n m) = beyond s := rfl
  unfold poisonAfter
  split
  · rfl
  · dsimp only
    split
    · simp [marked]
    · split <;> simp

/-! Reads and writes of memory. -/

@[simp] theorem beyond_putBytes (s : State) (key : Option Nat) (pa : Nat) (l : List Byte) : beyond (putBytes s key pa l) = beyond s := by
  have kept : beyond (farKeep s pa l.length) = beyond s := by unfold farKeep; split <;> rfl
  have put : ∃ m, putBytes s key pa l = { farKeep s pa l.length with mem := m } := by
    unfold putBytes
    cases key with
    | none => exact ⟨_, rfl⟩
    | some k => dsimp only; split <;> exact ⟨_, rfl⟩
  obtain ⟨m, put⟩ := put
  rw [put, ← kept]
  rfl

@[simp] theorem beyond_physStore (o k : Option Nat) (s : State) (w : Store) : beyond (physStore o k s w) = beyond s := by
  unfold physStore
  split
  · rfl
  · split <;> simp

@[simp] theorem beyond_physStores (s : State) (o k : Option Nat) (l : List Store) : beyond (physStores s o k l) = beyond s := by
  unfold physStores
  dsimp only
  rw [beyond_foldl _ (beyond_physStore o k), beyond_foldl _ (beyond_poisonAfter o l),
    beyond_foldl (fun s (w : Store) => scrubAt s w.pa) fun s w => beyond_scrubAt s w.pa]

@[simp] theorem beyond_deliverMark (s : State) (pa : Nat) : beyond (deliverMark s pa).1 = beyond s := by
  unfold deliverMark
  dsimp only
  split
  · rfl
  · split <;> rfl

@[simp] theorem beyond_physRead (s : State) (o k : Option Nat) (pa n : Nat) : beyond (physRead s o k pa n).1 = beyond s := by
  unfold physRead
  split
  · rfl
  · split <;> simp

/-! L2. -/

@[simp] theorem beyond_chargeAtoms (s : State) (pa p n : Nat) : beyond (chargeAtoms s pa p n) = beyond s := by
  have charged (a v : Nat) (c : Prop) [Decidable c] : beyond (if c then s else dctlSet s a v) = beyond s := by split <;> rfl
  unfold chargeAtoms
  split
  · exact charged _ _ _
  · rfl

@[simp] theorem beyond_hostGrant (s : State) (q : L2Req) : beyond (hostGrant s q).1 = beyond s := by unfold hostGrant; split <;> rfl

@[simp] theorem beyond_writeBackLine (s : State) (l : L2Line) : beyond (writeBackLine s l) = beyond s := by
  have charged : beyond (match ownerOf s (l.line * 128) with
      | some p => chargeAtoms s (l.line * 128) p (dirtyList l).length
      | none => s) = beyond s := by split <;> simp
  have moved := beyond_foldl (fun s i => farDone s (l.line * 128 + 32 * i) (l.line * 128 + 32 * i + 32)) (fun _ _ => rfl) (dirtyList l)
  unfold writeBackLine
  dsimp only
  split
  · rfl
  · split <;> exact (moved _).trans charged

@[simp] theorem beyond_evictLine (s : State) (l : L2Line) : beyond (evictLine s l) = beyond s := by
  have taken (s : State) (lo hi : Nat) : beyond (farTake s lo hi) = beyond s := by unfold farTake; dsimp only; split <;> rfl
  unfold evictLine
  dsimp only
  split <;> split <;> exact (taken _ _ _).trans (beyond_writeBackLine s l)

@[simp] theorem beyond_l2Access (s : State) (q : L2Req) (pa : Nat) : beyond (l2Access s q pa) = beyond s := by
  have numbered (bank : Nat) : beyond (numberRead s bank (pa / 128) q.read) = beyond s := by unfold numberRead; split <;> rfl
  have counted (s : State) (hit : Bool) : beyond (if q.counted then countLookup s q.part hit else s) = beyond s := by split <;> rfl
  have found (s : State) (l : L2Line) : beyond (l2Found s q pa l) = beyond s :=
    (beyond_hostGrant _ q).trans ((beyond_chargeAtoms _ _ _ _).trans (counted s _))
  have filled (s : State) (owner bank set : Nat) : beyond (l2Fill s q pa owner bank set) = beyond s := by
    unfold l2Fill
    dsimp only
    split
    · exact (beyond_chargeAtoms _ _ _ _).trans (counted s false)
    · refine (beyond_hostGrant _ q).trans ?_
      split
      · exact (beyond_evictLine _ _).trans ((beyond_chargeAtoms _ _ _ _).trans (counted s false))
      · exact (beyond_chargeAtoms _ _ _ _).trans (counted s false)
  unfold l2Access
  split
  · dsimp only
    split
    · exact (found _ _).trans (numbered _)
    · exact (filled _ _ _ _).trans (numbered _)
  · rfl

/-! Records. -/

@[simp] theorem beyond_modExcsum (s : State) (p c : Nat) (f : Nat → Nat) : beyond (modExcsum s p c f) = beyond s :=
  (beyond_physStores _ _ _ _).trans ((beyond_physRead _ _ _ _ _).trans (beyond_l2Access s _ _))

@[simp] theorem beyond_contRecord (s : State) (h : Where) (cause epc level action : Nat) (d b : Bool) :
    beyond (contRecord s h cause epc level action d b) = beyond s := rfl

@[simp] theorem beyond_poisonNotices (s : State) (h : Where) (ms : List Mark) : beyond (poisonNotices s h ms) = beyond s :=
  beyond_foldl _ (fun s m => by cases m <;> rfl) _ s

end Sys2Proof.Machine
end

section
/-! PROOFS. Thread traps: the entry of a handler and the return from it (R20, R162, R163, R361). -/

namespace Sys2Proof.Machine

open Sys2Proof

/-! R162. -/

theorem handlerApplies_true {pl : Nat} {w : Warp} (outside : w.intrap = false) (vec : w.trapvec ≠ 0#64) (user : w.svclane = none)
    (lodge : isLodge pl = false) : handlerApplies pl w = true := by
  simp [handlerApplies, outside, vec, user, lodge]

/-- The state in which a warp's handler is entered: its trapped issue waits for nothing, and a POISON trap is noted (R366, R434). -/
def noted (s : State) (pl : Nat) (w : Warp) (a : Mask) (pc : Dword) (t : Trap) : State :=
  if t.code = 8 then poisonNotices (modExcsum (unwaited s pl a pc) w.part w.ctx (satAdd 0 16 1)) (whereOf pl w) t.marks
  else unwaited s pl a pc

theorem beyond_noted (s : State) (pl : Nat) (w : Warp) (a : Mask) (pc : Dword) (t : Trap) :
    beyond (noted s pl w a pc t) = beyond (unwaited s pl a pc) := by
  unfold noted
  split <;> simp

/-- A trap that a handler takes enters it, after the notes and beside the record that a POISON trap leaves. -/
theorem takeTrap_enters {s : State} {pl : Nat} {w : Warp} {a : Mask} {pc : Dword} {len : Nat} {t : Trap} (hw : warp? s pl = some w)
    (lodge : isLodge pl = false) (takes : handlerApplies pl w = true) :
    beyond (takeTrap s pl a pc len t) = beyond (modWarp (noted s pl w a pc t) pl (fun w => enterHandler w a pc t)) := by
  unfold takeTrap
  rw [hw]
  dsimp only
  rw [if_neg (Bool.eq_false_iff.1 lodge), if_pos takes]
  split
  · rw [noted, if_pos ‹_›]; rfl
  · rw [noted, if_neg ‹_›]; rfl

theorem getElem_jump (w : Warp) (m : Mask) (f : Lane → Dword) (l : Lane) : (jump w m f).pc[l.val] =
    if m.has l then f l else w.pc[l.val] := by
  simp [jump]

/-- A handler runs the lanes of its entry mask alone: the masks taken after it only remove lanes. -/
theorem eligible_intrap {w : Warp} (h : w.intrap = true) (l : Lane) (hl : (eligible w).has l = true) : w.tmask.has l = true := by
  unfold eligible at hl
  simp only [h, if_true] at hl
  split at hl <;> split at hl <;> simp_all [has_and]

theorem trapEntersHandler : Claim.TrapEntersHandler := by
  intro s pl a pc len t w hw outside vec user lodge
  have entered := takeTrap_enters (a := a) (pc := pc) (len := len) (t := t) hw lodge (handlerApplies_true outside vec user lodge)
  have before := beyond_noted s pl w a pc t
  refine ⟨enterHandler (unwait a pc w) a pc t, ?_, ?_⟩
  · rw [warp?_of_beyond entered, warp?_modWarp_same, warp?_of_beyond before, warp?_unwaited a pc hw, Option.map_some]
  have resting : (takeTrap s pl a pc len t).cur = none := by
    rw [cur_of_beyond entered, modWarp_cur, cur_of_beyond before, unwaited, modWarp_cur]
  have entry (l : Lane) (hl : (eligible (enterHandler (unwait a pc w) a pc t)).has l = true) : a.has l = true := by
    simpa [enterHandler] using eligible_intrap (by simp [enterHandler]) l hl
  simpa [enterHandler, getElem_jump, unwait, resting] using entry

/-! R163. -/

theorem tret_waits {f : WordF} {s : State} {i : Iss} (hi : issOf s f.guard = some i) (hw : tretWait s i = true) :
    exec (.tret f) s = .next s := by
  simp only [exec_tret, execTret, runWord, hi, hw, Bool.or_true, if_true]

theorem trapReturnResumes : Claim.TrapReturnResumes := by
  refine ⟨fun f s i hi handler user missing => ?_, fun f s i h waits bad => ?_⟩
  · exact tret_waits hi (by simp [tretWait, handler, user, missing])
  · rw [exec_tret, execTret, runWord_acts h (g := f.guard) rfl waits bad]
    split
    · exact congrArg _ (settleRes_retire h _)
    · by_cases aligned : i.w.trappc.toNat % 8 = 0
      · rw [if_neg (not_not.2 aligned), if_neg (by simp [misTarget, aligned]), settleRes_moved h]
        rfl
      · rw [if_pos aligned, if_pos (by simp [misTarget, aligned])]
        rfl

theorem handlerRoundTrip : Claim.HandlerRoundTrip := by
  intro w a pc t at_pc
  refine ⟨Vector.ext fun k hk => ?_, by simp [leaveHandler, enterHandler]⟩
  by_cases hl : a.has ⟨k, hk⟩ = true
  · simpa [leaveHandler, enterHandler, jump, hl] using (at_pc _ hl).symm
  · simp [leaveHandler, enterHandler, jump, hl]

/-- Settles O15: a trap that a handler takes changes its warp by the entry alone, and the return undoes the entry's PCs. -/
theorem trapsAndReturns : Obligations.TrapsAndReturns := ⟨trapEntersHandler, trapReturnResumes, handlerRoundTrip⟩

end Sys2Proof.Machine
end

section
/-! PROOFS. MOVX and a block of user interrupts that two partitions' memory holds (R167, R258, R397). -/

namespace Sys2Proof.Machine

open Sys2Proof

/-- Where the block of context 0 lies: in memory behind the ports, its first 64 bytes on port 0 and the rest on port 1. -/
def splitBlock : Nat := 2 ^ 49 + 2 ^ 45 - 64

/-- A partition that owns ports and banks of L2. -/
def owning (valid : Bool) (ports : BitVec 6) (banks : BitVec 128) : Part :=
  { Part.empty with desc := { Desc.empty with valid := valid, ports := ports, banks := banks } }

/-- A context whose block has vector 0 pending. No valid partition owns port 0, so a write of UIPEND fills no line of L2; partition 1
owns port 1 and a bank, in which an empty line stands that is UIPEND's. -/
def splitState : State :=
  { State.reset with
    warps := [(0, loadWarp)]
    parts := [(0, owning false 3 0), (1, owning true 2 1)]
    ports := [(0, { Port.down with mode := 1, up := true }), (1, { Port.down with mode := 1, up := true })]
    scrub := []
    l2 := [newLine 0 0 0 ((splitBlock + 8) / 128) none]
    mem := memPuts (memPuts [] 56 (bytesOfNat 8 splitBlock)) (splitBlock + 8) [1#8] }

theorem scrubAt_splitState (a : Nat) : scrubAt splitState a = splitState := by
  have none_pending (c g : Nat) : scrubPending splitState c g = false := rfl
  simp only [scrubAt, none_pending, Bool.false_eq_true, if_false]
  split <;> rfl

theorem reach_splitState : ∀ o : Fin 0x300, paReach splitState (some 0) (uibAddr splitState 0 0 + o) = true ∧
    paLost splitState (uibAddr splitState 0 0 + o) = false := by
  decide +kernel

theorem blockPlain_splitState : BlockPlain splitState 0 0 where
  named := by decide +kernel
  aligned := by decide +kernel
  reach o h := reach_splitState ⟨o, h⟩
  apart := by decide +kernel
  scrubbed := scrubAt_splitState
  sound := rfl
  home := rfl
  mem := by unfold MemOk; decide +kernel

theorem uipend_splitState : uibWord splitState 0 0 8 &&& not64 1 = 0 := by decide +kernel

theorem ctlRegWrite_uipend_keeps_warp : warp? (ctlRegWrite splitState 0 loadWarp 0x11 1) 0 = some loadWarp := by decide +kernel

/-- The home of UIPEND keeps the old byte, and the lookup of the vector's payload evicts UIPEND's line: the old byte comes back. -/
theorem ctlRead_uipend_after_write : ctlRead (ctlRegWrite splitState 0 loadWarp 0x11 1) loadWarp 0x11 = 1 := by decide +kernel

/-- Refutes O16: UIPEND of `splitState` still reads 1 after a write of 1. Clearing the vector also clears its payload, which lies on
another port; the lookup of the payload evicts UIPEND's line, which takes the write of UIPEND back. -/
theorem not_controlRegisters : ¬ Obligations.ControlRegisters := by
  rintro ⟨-, reads⟩
  obtain ⟨-, -, -, block, -⟩ := reads splitState 0 loadWarp 1 rfl
  obtain ⟨-, w', hw, pending⟩ := block blockPlain_splitState
  obtain rfl : loadWarp = w' := Option.some.inj (ctlRegWrite_uipend_keeps_warp.symm.trans hw)
  exact absurd (ctlRead_uipend_after_write.symm.trans (pending.trans uipend_splitState)) (by decide)

end Sys2Proof.Machine
end

section
/-! PROOFS. Where a workgroup is placed (R170, R345, R348, R350, R417, R441). -/

namespace Sys2Proof.Machine

open Sys2Proof

/-- R350: of the cores that fit, a placement takes the first with the fewest workgroups. -/
theorem chooseCore_eq_argmin (s : State) (i : Nat) (l : Launch) :
    chooseCore s i l = ((partCores s l.part).filter (fits s i l)).argmin fun c => (coreWgs s c).length := by
  rw [chooseCore, List.argmin]
  congr 1
  funext b c
  cases b <;> rfl

theorem mem_partCores {s : State} {p c : Nat} : c ∈ partCores s p ↔ (part s p).desc.cores.getLsbD c = true := by
  have bounded (h : (part s p).desc.cores.getLsbD c = true) : c < 72 := BitVec.lt_of_getLsbD h
  simpa [partCores, bitList] using bounded

/-- R350. -/
theorem placementCore : Claim.PlacementCore := by
  intro s i l c chosen
  rw [chooseCore_eq_argmin] at chosen
  obtain ⟨owned, fit⟩ := List.mem_filter.1 (List.argmin_mem chosen)
  exact ⟨fit, mem_partCores.1 owned, fun d hd fit =>
    List.le_of_mem_argmin (f := fun c => (coreWgs s c).length) (List.mem_filter.2 ⟨hd, fit⟩) chosen⟩

theorem exec_workgroupPlace_idle {s : State} {p : Nat} (h : bestFit s p = none) : exec (.workgroupPlace p) s = .next s := by
  simp only [exec_workgroupPlace, execWorkgroupPlace, h]

theorem exec_workgroupRestore_idle {s : State} {p : Nat} (h : bestFit s p = none) : exec (.workgroupRestore p) s = .next s := by
  simp only [exec_workgroupRestore, execWorkgroupRestore, h]

theorem exec_workgroupPlace_bestFit {s : State} {p i c : Nat} {l : Launch} (h : bestFit s p = some (i, l, c)) :
    exec (.workgroupPlace p) s = .next (if l.save ≠ 0 then s else startWg s p i l c) := by
  simp only [exec_workgroupPlace, execWorkgroupPlace, h]

theorem exec_workgroupRestore_bestFit {s : State} {p i c : Nat} {l : Launch} (h : bestFit s p = some (i, l, c)) :
    exec (.workgroupRestore p) s = .next (if l.save = 0 then s else startWg s p i l c) := by
  simp only [exec_workgroupRestore, execWorkgroupRestore, h]

/-- R170, R345, R348, R417, R441: which of the two steps starts the candidate is told by its save area. -/
theorem workgroupsPlaced : Claim.WorkgroupsPlaced := by
  refine ⟨fun s p i l c best => ⟨fun fresh => ⟨?_, ?_⟩, fun saved => ⟨?_, ?_⟩⟩,
    fun s p nofit => ⟨exec_workgroupPlace_idle nofit, exec_workgroupRestore_idle nofit⟩⟩
  · rw [exec_workgroupPlace_bestFit best, if_neg (not_not_intro fresh)]; rfl
  · rw [exec_workgroupRestore_bestFit best, if_pos fresh]
  · rw [exec_workgroupRestore_bestFit best, if_neg saved]; rfl
  · rw [exec_workgroupPlace_bestFit best, if_pos saved]

/-- Settles O36: the two steps from the candidate that fits, and its core from a least number of workgroups. -/
theorem placement : Obligations.Placement := ⟨workgroupsPlaced, placementCore⟩

end Sys2Proof.Machine
end

section
/-! PROOFS. The warp that a track picks, and the group that the warp issues (R171 to R173). -/

namespace Sys2Proof

theorem mem_sortBy {α : Type} {le : α → α → Bool} {l : List α} {a : α} : a ∈ sortBy le l ↔ a ∈ l := by
  rw [sortBy_eq_insertionSort, List.mem_insertionSort]

/-- The first hit in a list in order stands before every other hit. -/
theorem find?_first {α : Type} {r : α → α → Prop} {p : α → Bool} {l : List α} {a b : α} (sorted : l.Pairwise r)
    (found : l.find? p = some a) (hb : b ∈ l) (hit : p b = true) : b = a ∨ r a b := by
  obtain ⟨-, front, back, rfl, before⟩ := List.find?_eq_some_iff_append.1 found
  rcases List.mem_append.1 hb with early | late
  · exact absurd (before b early) (by simp [hit])
  · exact (List.mem_cons.1 late).imp_right (List.rel_of_pairwise_cons (List.pairwise_append.1 sorted).2.1)

theorem has_of_low? {m : Mask} {l : Lane} (h : m.low? = some l) : m.has l = true := List.find?_some h

theorem low?_isSome_of_has {m : Mask} {l : Lane} (h : m.has l = true) : m.low?.isSome = true :=
  List.find?_isSome.2 ⟨l, List.mem_finRange l, h⟩

theorem modify_congr {α : Type} {m : FMap α} {n : Nat} {a : α} {f g : α → α} (here : FMap.get? m n = some a) (h : f a = g a) :
    FMap.modify m n f = FMap.modify m n g := by
  induction m with
  | nil => rfl
  | cons e t ih =>
    by_cases hk : n = e.1
    · obtain rfl : e.2 = a := by simpa [FMap.get?, hk] using here
      simp [FMap.modify, hk, h]
    · simpa [FMap.modify, hk] using ih (by simpa [FMap.get?, hk] using here)

namespace Machine

/-- A change of a warp asks only what becomes of the warp that stands there. -/
theorem modWarp_congr {s : State} {pl : Nat} {w : Warp} {f g : Warp → Warp} (hw : warp? s pl = some w) (h : f w = g w) :
    modWarp s pl f = modWarp s pl g := by
  simp only [modWarp, modify_congr hw h]

/-! Warps in order of age (R170, R173). -/

theorem byAge_rising (l : List (Nat × Warp)) : (byAge l).Pairwise (fun a b => a.2.seq ≤ b.2.seq) := by
  let le (a b : Nat × Warp) : Prop := decide (a.2.seq ≤ b.2.seq) = true
  have : Std.Total le := ⟨fun a b => by simp only [le, decide_eq_true_eq]; omega⟩
  have : IsTrans (Nat × Warp) le := ⟨fun a b c => by simp only [le, decide_eq_true_eq]; omega⟩
  rw [byAge, sortBy_eq_insertionSort]
  exact (List.pairwise_insertionSort le l).imp of_decide_eq_true

section
variable {l : List (Nat × Warp)} {p : Nat × Warp → Bool} {e d : Nat × Warp}

/-- A search by age finds the oldest warp of those it looks for. -/
theorem find?_byAge_some (h : (byAge l).find? p = some e) : e ∈ l ∧ p e = true ∧ ∀ d ∈ l, p d = true → e.2.seq ≤ d.2.seq := by
  refine ⟨mem_sortBy.1 (List.mem_of_find?_eq_some h), List.find?_some h, fun d hd hit => ?_⟩
  rcases find?_first (byAge_rising l) h (mem_sortBy.2 hd) hit with rfl | older
  · exact le_rfl
  · exact older

theorem find?_byAge_none (h : (byAge l).find? p = none) (hd : d ∈ l) : p d = false :=
  Bool.eq_false_iff.2 (List.find?_eq_none.1 h d (mem_sortBy.2 hd))

end

section
variable {s : State} {core track pl : Nat} {w : Warp} {e d : Nat × Warp}

/-- R173, priority 1. -/
theorem handlerPick_some (h : handlerPick s core track = some e) :
    e ∈ trackWarps s core track ∧ prioFree (trackSt s core track) e.2 = true ∧ deliverable s e.1 e.2 = true ∧
      ∀ d, d ∈ trackWarps s core track → prioFree (trackSt s core track) d.2 = true → deliverable s d.1 d.2 = true →
        e.2.seq ≤ d.2.seq := by
  obtain ⟨mem, hit, oldest⟩ := find?_byAge_some h
  obtain ⟨free, due⟩ := (Bool.and_eq_true _ _).mp hit
  exact ⟨mem, free, due, fun d hd free due => oldest d hd ((Bool.and_eq_true _ _).mpr ⟨free, due⟩)⟩

theorem handlerPick_none (h : handlerPick s core track = none) (hd : d ∈ trackWarps s core track) :
    prioFree (trackSt s core track) d.2 = false ∨ deliverable s d.1 d.2 = false :=
  Bool.and_eq_false_iff.1 (find?_byAge_none h hd)

/-- R173, priority 2. -/
theorem waitcPick_some (h : waitcPick s core track = some e) :
    64 ≤ e.2.waitc ∧ warpReady s e = true ∧
      ∀ d, d ∈ trackWarps s core track → 64 ≤ d.2.waitc → warpReady s d = true → e.2.seq ≤ d.2.seq := by
  obtain ⟨-, hit, oldest⟩ := find?_byAge_some h
  obtain ⟨waited, ready⟩ := (Bool.and_eq_true _ _).mp hit
  exact ⟨of_decide_eq_true waited, ready,
    fun d hd waited ready => oldest d hd ((Bool.and_eq_true _ _).mpr ⟨decide_eq_true waited, ready⟩)⟩

theorem waitcPick_none (h : waitcPick s core track = none) (hd : d ∈ trackWarps s core track) (ready : warpReady s d = true) :
    d.2.waitc < 64 := by
  simpa [ready] using find?_byAge_none h hd

/-- R173, priority 3. -/
theorem oldestPick_some (h : oldestPick s core track = some e) :
    warpReady s e = true ∧ ∀ d, d ∈ trackWarps s core track → warpReady s d = true → e.2.seq ≤ d.2.seq :=
  (find?_byAge_some h).2

theorem oldestPick_none (h : oldestPick s core track = none) (hd : d ∈ trackWarps s core track) : warpReady s d = false :=
  find?_byAge_none h hd

/-! A track's cycle (R173). -/

theorem select_handler (h : handlerPick s core track = some (pl, w)) :
    select s core track = .divert (notePick s core track pl true) pl := by
  simp only [select, h]

theorem select_waitc (handler : handlerPick s core track = none) (h : waitcPick s core track = some (pl, w)) :
    select s core track = issueWarp (notePick s core track pl true) pl := by
  simp only [select, pickWarp, handler, h]

theorem select_oldest (handler : handlerPick s core track = none) (waitc : waitcPick s core track = none)
    (h : oldestPick s core track = some (pl, w)) : select s core track = issueWarp (notePick s core track pl false) pl := by
  simp only [select, pickWarp, handler, waitc, h, Option.map_some]

theorem select_idle (handler : handlerPick s core track = none) (waitc : waitcPick s core track = none)
    (h : oldestPick s core track = none) : select s core track = .idle := by
  simp only [select, pickWarp, handler, waitc, h, Option.map_none]

end

/-! The groups of a warp (R171, R172). -/

section
variable {s : State} {pl : Nat} {w : Warp} {g h : Dword × Mask}

theorem groupsOf_rising (w : Warp) : (groupsOf w).Pairwise (fun a b => a.1.toNat < b.1.toNat) :=
  List.pairwise_map.2 (pcsOf_rising w (eligible w))

theorem readyGroups_rising (s : State) (pl : Nat) (w : Warp) :
    (readyGroups s pl w).Pairwise (fun a b => a.1.toNat < b.1.toNat) := by
  unfold readyGroups
  split
  · exact (groupsOf_rising w).filter _
  · exact .nil

theorem mem_readyGroups : g ∈ readyGroups s pl w ↔ mayIssue s pl w = true ∧ g ∈ groupsOf w ∧ groupReady s pl w g = true := by
  unfold readyGroups
  split <;> rename_i may <;> simp [may]

/-- A group holds a lane, and its lanes stand at its PC (R10). -/
theorem leadOf_of_mem_groupsOf (hg : g ∈ groupsOf w) : ∃ l : Lane, leadOf g = some l ∧ w.pc[l] = g.1 := by
  obtain ⟨pc, lanes⟩ := (mem_groupsOf w g).1 hg
  obtain ⟨k, here⟩ := (mem_pcsOf w _ _).1 pc
  have held : g.2.has k = true := by rw [lanes]; exact (has_lanesAt _ _ _ _).2 here
  obtain ⟨l, lead⟩ := Option.isSome_iff_exists.1 (low?_isSome_of_has held)
  have inGroup := has_of_low? lead
  rw [lanes] at inGroup
  exact ⟨l, lead, ((has_lanesAt _ _ _ _).1 inGroup).2⟩

/-- Groups of one warp that have one lowest lane are one group. -/
theorem eq_of_leadOf_eq (hg : g ∈ groupsOf w) (hh : h ∈ groupsOf w) (same : leadOf g = leadOf h) : g = h := by
  obtain ⟨l, lead, pc⟩ := leadOf_of_mem_groupsOf hg
  obtain ⟨k, lead', pc'⟩ := leadOf_of_mem_groupsOf hh
  obtain rfl : l = k := Option.some.inj (lead.symm.trans (same.trans lead'))
  have pcs : g.1 = h.1 := pc.symm.trans pc'
  refine Prod.ext pcs ?_
  rw [((mem_groupsOf w g).1 hg).2, ((mem_groupsOf w h).1 hh).2, pcs]

/-- The first of the ready groups is that of the lowest PC. -/
theorem head?_readyGroups (hg : g ∈ readyGroups s pl w) (lowest : ∀ h ∈ readyGroups s pl w, g.1.toNat ≤ h.1.toNat) :
    (readyGroups s pl w).head? = some g := by
  have rising := readyGroups_rising s pl w
  cases hr : readyGroups s pl w with
  | nil => simp [hr] at hg
  | cons h t =>
    rw [hr] at hg rising lowest
    rcases List.mem_cons.1 hg with rfl | later
    · rfl
    · exact absurd (lowest h List.mem_cons_self) (Nat.not_le.2 (List.rel_of_pairwise_cons rising later))

/-- R172: with no rotation named, or one whose group is not ready, the group of the lowest PC is chosen. -/
theorem chooseGroup_lowest (hg : g ∈ readyGroups s pl w)
    (unnamed : w.forced = none ∨ ∀ h ∈ readyGroups s pl w, w.forced ≠ leadOf h)
    (lowest : ∀ h ∈ readyGroups s pl w, g.1.toNat ≤ h.1.toNat) : chooseGroup w (readyGroups s pl w) = some g := by
  cases hf : w.forced with
  | none => simp only [chooseGroup, hf, head?_readyGroups hg lowest]
  | some l =>
    have absent : (readyGroups s pl w).find? (fun h => leadOf h == some l) = none :=
      List.find?_eq_none.2 fun h hh same => (unnamed.resolve_left (by simp [hf])) h hh (hf.trans (beq_iff_eq.1 same).symm)
    simp only [chooseGroup, hf, absent, Option.orElse_none, head?_readyGroups hg lowest]

/-- R172: the ready group that a rotation has named is chosen. -/
theorem chooseGroup_forced (hg : g ∈ readyGroups s pl w) (named : w.forced = leadOf g) :
    chooseGroup w (readyGroups s pl w) = some g := by
  obtain ⟨-, group, -⟩ := mem_readyGroups.1 hg
  obtain ⟨l, lead, -⟩ := leadOf_of_mem_groupsOf group
  have found : (readyGroups s pl w).find? (fun h => leadOf h == some l) = some g := by
    cases hf : (readyGroups s pl w).find? (fun h => leadOf h == some l) with
    | none => exact absurd (beq_iff_eq.2 lead) (List.find?_eq_none.1 hf g hg)
    | some h =>
      have lead' : leadOf h = some l := by simpa using List.find?_some hf
      obtain ⟨-, groupH, -⟩ := mem_readyGroups.1 (List.mem_of_find?_eq_some hf)
      rw [eq_of_leadOf_eq groupH group (lead'.trans lead.symm)]
  simp only [chooseGroup, named, lead, found, Option.orElse_some]

/-- R172: what the issue of a warp does once its group is chosen. -/
theorem issueWarp_chosen (hw : warp? (markRotation s pl) pl = some w)
    (chosen : chooseGroup w (readyGroups (markRotation s pl) pl w) = some g) :
    issueWarp s pl = issueGroup (modWarp (markRotation s pl) pl fun w =>
      noteGroup w (markRotation s pl).now g ((readyGroups (markRotation s pl) pl w).any fun h => h != g)) pl w g := by
  simp only [issueWarp, hw, chosen]
  exact congrArg (issueGroup · pl w g) (modWarp_congr hw rfl)

/-! Rotation (R172). -/

theorem markRotation_idle (hw : warp? s pl = some w) (h : w.run < 256 ∨ w.forced ≠ none) : markRotation s pl = s := by
  rw [← Option.isSome_iff_ne_none] at h
  simp only [markRotation, hw, if_pos h]

/-- A rotation takes, of the ready groups that did not make the run, the first whose last issue is oldest. -/
theorem rotationGroup_eq_argmin (s : State) (pl : Nat) (w : Warp) :
    rotationGroup s pl w = ((readyGroups s pl w).filter fun g => leadOf g != w.lastLead).argmin (oldestIssue w) := by
  rw [rotationGroup, List.argmin]
  congr 1
  funext b g
  cases b <;> rfl

theorem rotationGroup_some (hg : rotationGroup s pl w = some g) :
    g ∈ readyGroups s pl w ∧ leadOf g ≠ w.lastLead ∧
      ∀ h ∈ readyGroups s pl w, leadOf h ≠ w.lastLead → oldestIssue w g ≤ oldestIssue w h := by
  rw [rotationGroup_eq_argmin] at hg
  obtain ⟨ready, other⟩ := List.mem_filter.1 (List.argmin_mem hg)
  exact ⟨ready, bne_iff_ne.1 other,
    fun h hh lead => List.le_of_mem_argmin (f := oldestIssue w) (List.mem_filter.2 ⟨hh, by simpa using lead⟩) hg⟩

end

/-- Settles O55: the picks from the order of age, the group from the order of PCs or from the rotation's name. -/
theorem tracksPick : Obligations.TracksPick := by
  refine ⟨fun s core track pl w handler => ⟨select_handler handler, handlerPick_some handler⟩,
    fun s core track e handler he => handlerPick_none handler he,
    fun s core track pl w handler waitc => ⟨select_waitc handler waitc, waitcPick_some waitc⟩,
    fun s core track pl w handler waitc pick => ?_,
    fun s core track handler waitc pick => ⟨select_idle handler waitc pick, fun e he => oldestPick_none pick he⟩,
    fun s pl w => ⟨readyGroups_rising s pl w, fun g => mem_readyGroups⟩,
    fun s pl w g hw hg => ⟨fun unnamed lowest => ?_, fun named => ?_⟩,
    fun s pl w hw => ⟨markRotation_idle hw, fun g run free hg => ⟨markRotation_forces hw run free hg, rotationGroup_some hg⟩⟩⟩
  · obtain ⟨ready, oldest⟩ := oldestPick_some pick
    exact ⟨select_oldest handler waitc pick, ready, fun e he readyE => waitcPick_none waitc he readyE, oldest⟩
  · exact issueWarp_chosen hw (chooseGroup_lowest hg unnamed lowest)
  · exact issueWarp_chosen hw (chooseGroup_forced hg named)

end Machine

end Sys2Proof
end

section
/-! PROOFS. Shuffles, votes, matches, reductions and scans (R192 to R203). -/

namespace Sys2Proof.Machine

open Sys2Proof

/-! Words that carry the value in A and consume their other sources (R194, R366). -/

/-- The effect of such a word: POISON where a consumed source is poisoned, else a new warp. -/
def carrying (x : Instr) (f : State → Iss → Warp → Warp) (s : State) (i : Iss) : Res :=
  match poisonWhere i (sideSources x) (sourcesOf x) with
  | some t => .trap t
  | none => .retire (modWarp s i.place (f s i))

theorem carrying_clean {x : Instr} {i : Iss} (side : poisonTrap i (sideSources x) = none) (f : State → Iss → Warp → Warp) (s : State) :
    carrying x f s i = .retire (modWarp s i.place (f s i)) := by
  simp only [carrying, poisonWhere, side, Option.bind_none]

theorem runWord_carrying {x : Instr} {s : State} {i : Iss} (h : Acts x s i) (side : poisonTrap i (sideSources x) = none) {g : Guard}
    (hg : g = guardOfInstr x) (f : State → Iss → Warp → Warp) :
    runWord x g noWait noBad (carrying x f) s = .next (wordDone s i x (f (wordState s i x) i)) := by
  rw [runWord_acts h hg (by rfl) (by rfl), carrying_clean side, settleRes_retire h]
  rfl

/-- What a SHFL does to its warp (R202). -/
def shuffled (f : WordF) (s : State) (i : Iss) (w : Warp) : Warp :=
  writeMiss f i (writeCarried w i.l f.dst (laneWide f) (fun k l => (shflLane s i f k l).1)) (fun l => (shflLane s i f 0 l).2)

theorem exec_shfl_carrying (f : WordF) (s : State) :
    exec (.shfl f) s = runWord (.shfl f) f.guard noWait noBad (carrying (.shfl f) (shuffled f)) s := rfl

/-- The lane that a BCAST reads: the lowest of L, or the one that B names (R203). -/
def bcastLane (f : WordF) (s : State) (i : Iss) : Lane :=
  if f.mod.getLsbD 4 then i.l.low?.getD 0 else ⟨uniVal s i (.int 32) f.b % 32, Nat.mod_lt _ (by decide)⟩

/-- What a BCAST does to its warp (R203). -/
def broadcast (f : WordF) (s : State) (i : Iss) (w : Warp) : Warp :=
  let j := bcastLane f s i
  writeMiss f i (writeCarried w i.l f.dst (laneWide f)
    (fun k _ => if i.l.has j then carried s i (.int (if laneWide f then 64 else 32)) f.a k j else Val.clean 0)) (fun _ => !i.l.has j)

theorem exec_bcast_carrying (f : WordF) (s : State) :
    exec (.bcast f) s = runWord (.bcast f) f.guard noWait noBad (carrying (.bcast f) (broadcast f)) s := rfl

theorem low?_eq_some_getD {m : Mask} (h : m ≠ 0#32) (d : Lane) : m.low? = some (m.low?.getD d) := by
  cases low : m.low? with
  | some l => rfl
  | none =>
    refine absurd (Mask.ext_has fun l => ?_) h
    simpa [has_zero] using List.find?_eq_none.1 low l (List.mem_finRange l)

/-! The words. -/

/-- R192, R193, R200 to R203. A move carries the value in A, VOTE and MATCH consume every source; all read their
sources from the warp as it was at issue, so that no release reaches them. -/
theorem laneWordResults : Claim.LaneWordResults := by
  refine ⟨fun f s i h side => ?shfl, fun f s i h side => ⟨bcastLane f s i, fun low hl => ?lowest, fun named => ?named, ?bcast⟩, ?vote,
    ?matchx⟩
  case shfl => exact (exec_shfl_carrying f s).trans (runWord_carrying h side rfl _)
  case lowest => rw [bcastLane, if_pos low]; exact low?_eq_some_getD hl 0
  case named => rw [bcastLane, if_neg (by rw [named]; decide)]
  case bcast => exact (exec_bcast_carrying f s).trans (runWord_carrying h side rfl _)
  case vote => exact changes_of_consuming exec_vote (fun _ => rfl) (fun _ _ _ _ _ => rfl)
  case matchx => exact changes_of_consuming exec_matchx (fun _ => rfl) (fun _ _ _ _ _ => rfl)

/-- R197 to R199. -/
theorem reduceAndScanResults : Claim.ReduceAndScanResults :=
  ⟨changes_of_consuming exec_redx (fun _ => rfl) (fun _ _ _ _ _ => rfl),
    changes_of_consuming exec_scanx (fun _ => rfl) (fun _ _ _ _ _ => rfl)⟩

/-- Settles O17: SHFL and BCAST carry the value that they move, the other words consume every source. -/
theorem laneExchange : Obligations.LaneExchange := ⟨laneWordResults, reduceAndScanResults⟩

end Sys2Proof.Machine
end

section
/-! PROOFS. Waiting for lanes and filing them: WSYNC, BAR and REFORM (R31, R182 to R184, R204 to R207). -/

namespace Sys2Proof.Machine

open Sys2Proof

theorem settleRes_stay (s : State) (i : Iss) (x : Instr) (rel : Warp) (t : State) :
    settleRes s i x rel (.stay t) = endIssue (counted t i) := rfl

/-! WSYNC (R204, R207). -/

/-- A word whose own wait holds changes nothing. -/
theorem runWord_waits {x : Instr} {g : Guard} {s : State} {i : Iss} (hi : issOf s g = some i) {wait : State → Iss → Bool}
    (hw : wait s i = true) (bad : State → Iss → Option Nat) (eff : State → Iss → Res) : runWord x g wait bad eff s = .next s := by
  simp only [runWord, hi, hw, Bool.or_true, if_true]

theorem exec_wsync_waits {f : WordF} {s : State} {i : Iss} (hi : issOf s f.guard = some i) (user : inService i = false)
    (lacks : Mask.sub (memberMask s i f.a &&& i.w.conv) i.a = false) : exec (.wsync f) s = .next s := by
  rw [exec_wsync, execWsync]
  exact runWord_waits hi (by simp [wsyncWait, user, lacks]) _ _

theorem exec_wsync_passes {f : WordF} {s : State} {i : Iss} (h : Clean (.wsync f) s i) (legal : wsyncBad f s i = none)
    (holds : Mask.sub (memberMask s i f.a &&& i.w.conv) i.a = true) :
    exec (.wsync f) s = .next (wordAfter i (wordState s i (.wsync f))) := by
  have ready : wsyncWait f s i = false := by simp [wsyncWait, holds]
  rw [exec_wsync, execWsync, runWord_acts h.toActs (g := f.guard) rfl ready legal, consuming_clean h, settleRes_retire h.toActs, wordState,
    modWarp_setWarp]
  rfl

/-! BAR (R31, R206). -/

theorem exec_bar_arrives {f : WordF} {s : State} {i : Iss} (h : Acts (.bar f) s i) (quiet : fpOutstanding i.w = false)
    (legal : barBad f s i = none) :
    exec (.bar f) s = .next (if i.w.xrec.v then wordTraps s i ⟨9, 0, 0, false, i.w.xrec.elanes, []⟩
      else endIssue (counted (barCheck (modWarp (wordState s i (.bar f)) i.place (fun w =>
        { w with
          arrived := w.arrived ||| i.a
          barEdges := if !i.w.intrap && atLend i then i.pc :: w.barEdges else w.barEdges })) i.w.wg) i)) := by
  have ready : fpWait s i = false := quiet
  rw [exec_bar, execBar, runWord_acts h (g := f.guard) rfl ready legal, fpeTrap]
  cases i.w.xrec.v <;> rfl

theorem barriersSynchronise : Claim.BarriersSynchronise :=
  ⟨fun _ _ _ => exec_wsync_waits, fun _ _ _ => exec_wsync_passes, fun _ _ _ => exec_bar_arrives⟩

/-! A barrier that completes (R156, R206). -/

theorem get?_map_keyed {α : Type} {f : Nat × α → Nat × α} (hf : ∀ e, (f e).1 = e.1) (m : FMap α) (n : Nat) :
    FMap.get? (m.map f) n = (FMap.get? m n).map (fun a => (f (n, a)).2) := by
  induction m with
  | nil => rfl
  | cons e t ih =>
    obtain ⟨k, a⟩ := e
    by_cases h : n = k <;> simp [FMap.get?, hf, h, ih]

/-- A complete barrier lets every warp of its workgroup pass. -/
theorem warp?_barCheck_complete {s : State} {g pl : Nat} {w : Warp} (done : barComplete s g = true) (hw : warp? s pl = some w)
    (lodge : isLodge pl = false) (hg : w.wg = g) : warp? (barCheck s g) pl = some (barPass w) := by
  rw [warp?] at hw ⊢
  rw [barCheck, if_pos done, get?_map_keyed (fun e => by split <;> rfl), hw]
  simp [lodge, hg]

/-- A back-edge changes PCs and loop levels alone. -/
theorem backEdgeAt_eq (pc : Dword) (w : Warp) : ∃ p ls, backEdgeAt pc w = { w with pc := p, loops := ls } := by
  unfold backEdgeAt
  split
  · exact ⟨_, _, rfl⟩
  · split
    · exact ⟨_, _, rfl⟩
    · split <;> exact ⟨_, _, rfl⟩

theorem backEdgeAt_of_no_loops (pc : Dword) {w : Warp} (h : w.loops = []) : backEdgeAt pc w = w := by simp [backEdgeAt, h]

/-- What of a warp depends on neither its PCs nor its loop levels stays through back-edges. -/
theorem backEdges_keep {α : Type} {part : Warp → α} (other : ∀ w p ls, part { w with pc := p, loops := ls } = part w)
    (pcs : List Dword) (w : Warp) : part (pcs.foldl (fun w pc => backEdgeAt pc w) w) = part w := by
  induction pcs generalizing w with
  | nil => rfl
  | cons pc pcs ih =>
    obtain ⟨p, ls, edge⟩ := backEdgeAt_eq pc w
    rw [List.foldl_cons, ih, edge, other]

theorem backEdges_of_no_loops (pcs : List Dword) {w : Warp} (h : w.loops = []) : pcs.foldl (fun w pc => backEdgeAt pc w) w = w := by
  induction pcs with
  | nil => rfl
  | cons pc pcs ih => rw [List.foldl_cons, backEdgeAt_of_no_loops pc h, ih]

/-- The warp whose waiting lanes have moved past their BAR, before any back-edge (R206). -/
def pastBar (w : Warp) : Warp := { advance w w.arrived 8 with arrived := 0#32, barEdges := [] }

theorem barPass_eq (w : Warp) : barPass w = w.barEdges.foldl (fun w pc => backEdgeAt pc w) (pastBar w) := rfl

@[simp] theorem pastBar_arrived (w : Warp) : (pastBar w).arrived = 0#32 := by simp [pastBar]
@[simp] theorem pastBar_v (w : Warp) : (pastBar w).v = w.v := by simp [pastBar]
@[simp] theorem pastBar_p (w : Warp) : (pastBar w).p = w.p := by simp [pastBar]
@[simp] theorem pastBar_loops (w : Warp) : (pastBar w).loops = w.loops := by simp [pastBar]

theorem pastBar_pc (w : Warp) (l : Lane) : (pastBar w).pc[l] = if w.arrived.has l then w.pc[l] + 8 else w.pc[l] := by
  simp [pastBar, advance]

theorem barPass_arrived (w : Warp) : (barPass w).arrived = 0#32 := by
  rw [barPass_eq, backEdges_keep (part := Warp.arrived) fun _ _ _ => rfl, pastBar_arrived]

theorem barPass_v (w : Warp) : (barPass w).v = w.v := by
  rw [barPass_eq, backEdges_keep (part := Warp.v) fun _ _ _ => rfl, pastBar_v]

theorem barPass_p (w : Warp) : (barPass w).p = w.p := by
  rw [barPass_eq, backEdges_keep (part := Warp.p) fun _ _ _ => rfl, pastBar_p]

theorem barPass_pc_of_no_loops {w : Warp} (h : w.loops = []) (l : Lane) :
    (barPass w).pc[l] = if w.arrived.has l then w.pc[l] + 8 else w.pc[l] := by
  rw [barPass_eq, backEdges_of_no_loops _ ((pastBar_loops w).trans h), pastBar_pc]

theorem barrierReleasesAll : Claim.BarrierReleasesAll := fun _ _ done _ w hw lodge hg =>
  ⟨barPass w, warp?_barCheck_complete done hw lodge hg, barPass_arrived w, barPass_v w, barPass_p w, barPass_pc_of_no_loops⟩

/-! REFORM (R182 to R184, R205). -/

/-- In a stale warp the lowest unmapped register that a REFORM carries raises STALE. -/
theorem staleCarried_some {w : Warp} {n r : Nat} (stale : w.stale = true) (carries : r < n) (unmapped : vMapped w r = false)
    (lowest : ∀ q, q < r → vMapped w q = true) :
    (if w.stale then (List.range n).find? (fun r => !vMapped w r) else none) = some r := by
  rw [if_pos stale, List.find?_range_eq_some]
  exact ⟨by simp [unmapped], List.mem_range.2 carries, fun q hq => by simp [lowest q hq]⟩

theorem staleCarried_none {w : Warp} {n : Nat} (mapped : ∀ r, w.stale = true → r < n → vMapped w r = true) :
    (if w.stale then (List.range n).find? (fun r => !vMapped w r) else none) = none := by
  split
  case isTrue stale => exact List.find?_eq_none.2 fun r hr => by simp [mapped r stale (List.mem_range.1 hr)]
  case isFalse => rfl

theorem reformFilesLanes : Claim.ReformFilesLanes := by
  intro b s i n h ready legal found line ls m entries new carries
  rw [exec_reform, execReform, runWord_acts h (g := b.guard) rfl ready legal]
  simp only [found]
  refine ⟨fun r stale here unmapped lowest => ?stale, fun mapped => ⟨fun lanes => ?files, fun lanes => ?stays⟩⟩
  case stale =>
    have raised : (if i.w.stale then (List.range (reformRegs b)).find? (fun r => !vMapped i.w r) else none) = some r :=
      staleCarried_some stale here unmapped lowest
    simp only [raised, settleRes_trap]
    rfl
  case files =>
    have filed : Mask.ofFn (fun l => (filedLanes i line.entries.length).contains l) ≠ 0#32 := lanes
    simp only [staleCarried_none (n := reformRegs b) mapped]
    rw [if_neg filed, settleRes_stay]
    rfl
  case stays =>
    have none_filed : Mask.ofFn (fun l => (filedLanes i line.entries.length).contains l) = 0#32 := lanes
    simp only [staleCarried_none (n := reformRegs b) mapped]
    rw [if_pos none_filed, settleRes_stay]

/-- Settles O19: WSYNC by its own wait, BAR by the barrier's check, what passes by what back-edges keep, and REFORM by the lowest register
that it lacks. -/
theorem warpBarriers : Obligations.WarpBarriers := ⟨barriersSynchronise, barrierReleasesAll, reformFilesLanes⟩

end Sys2Proof.Machine
end

section
/-! PROOFS. DRAM upkeep: words of device control space, row counters, sparing, the remap table and token buckets (R275, R277 to R282,
R286, R457). -/

namespace Sys2Proof.Machine

open Sys2Proof

/-! Fields of words of device control space. -/

/-- A field that lies above the written one keeps its bits. -/
theorem bits_setBits_above (x lo n v k m : Nat) (h : lo + n ≤ k) : bits (setBits x lo n v) k m = bits x k m := by
  have high : setBits x lo n v / 2 ^ (lo + n) = x / 2 ^ (lo + n) := by
    rw [setBits_eq, Nat.pow_add, ← Nat.div_div_eq_div_mul, Nat.add_mul_div_left _ _ (Nat.two_pow_pos lo),
      Nat.div_eq_of_lt (Nat.mod_lt _ (Nat.two_pow_pos lo)), Nat.zero_add, Nat.mul_add_div (Nat.two_pow_pos n),
      Nat.div_eq_of_lt (Nat.mod_lt _ (Nat.two_pow_pos n)), Nat.add_zero, Nat.div_div_eq_div_mul]
  have field (y : Nat) : bits y k m = y / 2 ^ (lo + n) / 2 ^ (k - (lo + n)) % 2 ^ m := by
    rw [bits_eq_div_mod, Nat.div_div_eq_div_mul, ← Nat.pow_add, Nat.add_sub_cancel' h]
  rw [field, high, ← field]

theorem bits_lt (x lo n : Nat) : bits x lo n < 2 ^ n := Nat.mod_lt _ (Nat.two_pow_pos n)

/-- A word is read from the registers written, the fuses and the boot stage alone. -/
theorem dctlWord_congr {s t : State} {k : Nat} (h : FMap.get? t.dctl k = FMap.get? s.dctl k) (fuse : t.fuse = s.fuse)
    (off : t.bootOff = s.bootOff) (boot : t.boot = s.boot) : dctlWord t k = dctlWord s k := by
  have present : lpEnabled t = lpEnabled s := funext fun c => by rw [lpEnabled, lpEnabled, fuse, off]
  unfold dctlWord
  rw [h, present, fuse, boot]

theorem dctlWord_dctlSet_same (s : State) (a v : Nat) : dctlWord (dctlSet s a v) a = bits v 0 64 := by
  simp only [dctlWord, dctlSet, get?_ins_same]
  rfl

theorem dctlWord_dctlSet_other (s : State) {a k : Nat} (v : Nat) (h : k ≠ a) : dctlWord (dctlSet s a v) k = dctlWord s k :=
  dctlWord_congr (get?_ins_other _ _ _ _ h) rfl rfl rfl

/-- A changed word has the new value in each of its 64 bits. -/
theorem bits_dctlWord_modDctl (s : State) (a : Nat) (f : Nat → Nat) (lo n : Nat) (h : lo + n ≤ 64) :
    bits (dctlWord (modDctl s a f) a) lo n = bits (f (dctlWord s a)) lo n := by
  rw [modDctl, dctlWord_dctlSet_same, bits_bits _ _ _ _ h]

theorem dctlWord_modDctl_other (s : State) {a k : Nat} (f : Nat → Nat) (h : k ≠ a) : dctlWord (modDctl s a f) k = dctlWord s k :=
  dctlWord_dctlSet_other s _ h

theorem pchReg_ne {p a b : Nat} (h : a ≠ b) : pchReg p a ≠ pchReg p b := fun e => h (Nat.add_left_cancel e)

/-! What upkeep leaves alone. -/

/-- A state without the registers, counters, commands and spared banks of DRAM upkeep. -/
def lessRegisters (s : State) : State := { s with dctl := [], rows := [], refreshing := [], spared := [] }

/-- Upkeep from s to t: no byte of memory, no warp, no workgroup and no line changes, and where no atom is uncorrectable none comes to
be, and no mark changes. -/
structure Upkept (s t : State) : Prop where
  mem : t.mem = s.mem
  warps : t.warps = s.warps
  wgs : t.wgs = s.wgs
  l2 : t.l2 = s.l2
  sound : s.uerr = [] → t.uerr = [] ∧ t.poison = s.poison

theorem Upkept.refl (s : State) : Upkept s s := ⟨rfl, rfl, rfl, rfl, fun h => ⟨h, rfl⟩⟩

theorem Upkept.trans {s t u : State} (a : Upkept s t) (b : Upkept t u) : Upkept s u where
  mem := b.mem.trans a.mem
  warps := b.warps.trans a.warps
  wgs := b.wgs.trans a.wgs
  l2 := b.l2.trans a.l2
  sound h := ⟨(b.sound (a.sound h).1).1, (b.sound (a.sound h).1).2.trans (a.sound h).2⟩

theorem poison_of_lessRegisters {s t : State} (h : lessRegisters t = lessRegisters s) : t.poison = s.poison :=
  show (lessRegisters t).poison = (lessRegisters s).poison by rw [h]

/-- What only writes registers and counters is upkeep, and changes no mark in any state. -/
theorem upkept_of_lessRegisters {s t : State} (h : lessRegisters t = lessRegisters s) : Upkept s t where
  mem := show (lessRegisters t).mem = (lessRegisters s).mem by rw [h]
  warps := show (lessRegisters t).warps = (lessRegisters s).warps by rw [h]
  wgs := show (lessRegisters t).wgs = (lessRegisters s).wgs by rw [h]
  l2 := show (lessRegisters t).l2 = (lessRegisters s).l2 by rw [h]
  sound none := ⟨(show (lessRegisters t).uerr = (lessRegisters s).uerr by rw [h]).trans none, poison_of_lessRegisters h⟩

@[simp] theorem lessRegisters_modDctl (s : State) (a : Nat) (f : Nat → Nat) : lessRegisters (modDctl s a f) = lessRegisters s := rfl

theorem upkept_modDctl (s : State) (a : Nat) (f : Nat → Nat) : Upkept s (modDctl s a f) :=
  upkept_of_lessRegisters (lessRegisters_modDctl s a f)

theorem upkept_foldl {α : Type} {f : State → α → State} (h : ∀ s a, Upkept s (f s a)) (l : List α) (s : State) :
    Upkept s (l.foldl f s) :=
  List.foldlRecOn l f (motive := Upkept s) (.refl s) fun t kept a _ => kept.trans (h t a)

/-! Atoms. -/

theorem upkept_atomWritten (s : State) (a : Atom) : Upkept s (atomWritten s a) := by
  refine ⟨atomWritten_mem s a, congrArg (·.1) (standing_atomWritten s a), congrArg (·.2.1) (standing_atomWritten s a),
    ?lines, fun none => ?marks⟩
  case lines => unfold atomWritten; split <;> rfl
  case marks =>
    unfold atomWritten
    split
    · exact ⟨none, rfl⟩
    · exact ⟨by simp only [none, List.filter_nil], rfl⟩

/-- A read of an atom poisons a sector only where the atom is uncorrectable. -/
theorem upkept_atomRead (s : State) (a : Atom) (k : Option Nat) : Upkept s (atomRead s a k) := by
  refine ⟨atomRead_mem s a k, congrArg (·.1) (standing_atomRead s a k), congrArg (·.2.1) (standing_atomRead s a k),
    ?lines, fun none => ?marks⟩
  case lines =>
    unfold atomRead
    split
    · cases k <;> rfl
    · split <;> rfl
  case marks =>
    have correct : s.uerr.contains a = false := by rw [none]; rfl
    unfold atomRead
    rw [correct, if_neg (by decide)]
    split
    · exact ⟨none, rfl⟩
    · exact ⟨none, rfl⟩

theorem dctlWord_atomWritten (s : State) (a : Atom) (k : Nat) : dctlWord (atomWritten s a) k = dctlWord s k := by
  unfold atomWritten
  split
  · rfl
  · exact dctlWord_congr rfl rfl rfl rfl

/-- A read of an atom of a pseudo-channel counts in its ECCCNT alone. -/
theorem dctlWord_atomRead (s : State) {a : Atom} (sec : Option Nat) {k : Nat} (chan : a.chan < 512) (h : k ≠ pchReg a.chan 0x18) :
    dctlWord (atomRead s a sec) k = dctlWord s k := by
  have count (u : Bool) : dctlWord (eccCount s a.chan u) k = dctlWord s k := by
    unfold eccCount
    rw [if_pos chan]
    exact dctlWord_dctlSet_other s _ h
  have counted (u : Bool) {t : State} (dctl : t.dctl = (eccCount s a.chan u).dctl) (fuse : t.fuse = s.fuse)
      (off : t.bootOff = s.bootOff) (boot : t.boot = s.boot) : dctlWord t k = dctlWord s k :=
    (dctlWord_congr (s := eccCount s a.chan u) (by rw [dctl]) fuse off boot).trans (count u)
  unfold atomRead
  split
  · cases sec <;> exact counted true rfl rfl rfl rfl
  · split
    · exact counted false rfl rfl rfl rfl
    · rfl

/-! Row counters (R277). -/

theorem lessRegisters_activateRow (s : State) (p b r : Nat) : lessRegisters (activateRow s p b r) = lessRegisters s := by
  unfold activateRow
  dsimp only
  split
  · rfl
  · split <;> rfl

theorem dctlWord_activateRow (s : State) (p b r : Nat) {k : Nat} (h : k ≠ pchReg p 0x20) :
    dctlWord (activateRow s p b r) k = dctlWord s k := by
  unfold activateRow
  dsimp only
  split
  · rfl
  · split
    · exact (dctlWord_modDctl_other _ _ h).trans (dctlWord_congr rfl rfl rfl rfl)
    · exact dctlWord_congr rfl rfl rfl rfl

theorem any_threshold_eq_false {l : List (Nat × Nat)} {r n : Nat} (h : ∀ e, e ∈ l → e.1 = r → e.2 < n) :
    l.any (fun e => e.1 == r && decide (e.2 ≥ n)) = false := by
  simpa [List.any_eq_false] using fun a b mem row => h (a, b) mem row

theorem any_threshold_eq_true {l : List (Nat × Nat)} {r n : Nat} (h : ∃ e, e ∈ l ∧ e.1 = r ∧ n ≤ e.2) :
    l.any (fun e => e.1 == r && decide (e.2 ≥ n)) = true := by
  obtain ⟨e, mem, row, reached⟩ := h
  exact List.any_eq_true.2 ⟨e, mem, by simp [row, reached]⟩

theorem exec_activate_admitted {s : State} {p b r : Nat} (there : rowExists s p b r = true) (free : (p, b, r) ∉ s.refreshing) :
    exec (.activate p b r) s = .next (activateRow s p b r) := by
  rw [exec_activate, execActivate, there, List.contains_eq_mem, decide_eq_false free]
  rfl

/-- A counter that holds the row rises; else a free one takes the row; else all fall. In each case the counters stay at most 16, of
distinct rows, and count something. -/
theorem countRow_wf (r : Nat) (l : List (Nat × Nat)) (rows : (l.map Prod.fst).Nodup) (room : l.length ≤ 16)
    (count : ∀ e, e ∈ l → 0 < e.2) :
    (countRow r l).length ≤ 16 ∧ ((countRow r l).map Prod.fst).Nodup ∧ ∀ e, e ∈ countRow r l → 0 < e.2 := by
  unfold countRow
  split
  case isTrue held =>
    have same : (l.map fun e => if e.1 = r then (e.1, e.2 + 1) else e).map Prod.fst = l.map Prod.fst := by
      rw [List.map_map]
      exact List.map_congr_left fun e _ => by dsimp only [Function.comp]; split <;> rfl
    refine ⟨by rwa [List.length_map], by rwa [same], fun e he => ?_⟩
    obtain ⟨d, hd, rfl⟩ := List.mem_map.1 he
    split
    · exact Nat.succ_pos _
    · exact count d hd
  case isFalse new =>
    split
    case isTrue free =>
      have fresh : r ∉ l.map Prod.fst := by simpa using new
      refine ⟨by rw [List.length_append]; exact free, ?_, fun e he => ?_⟩
      · rw [List.map_append]
        exact rows.append (List.nodup_singleton r) (List.disjoint_singleton.2 fresh)
      · rcases List.mem_append.1 he with old | last
        · exact count e old
        · rw [List.mem_singleton.1 last]; exact Nat.one_pos
    case isFalse full =>
      have same : (l.map fun e => (e.1, e.2 - 1)).map Prod.fst = l.map Prod.fst := by rw [List.map_map]; rfl
      refine ⟨(List.length_filter_le _ _).trans (by rwa [List.length_map]), ?_, fun e he => ?_⟩
      · exact ((List.filter_sublist).map Prod.fst).nodup (by rwa [same])
      · exact Nat.pos_of_ne_zero (by simpa using (List.mem_filter.1 he).2)

/-- R277. -/
theorem rowsTracked : Claim.RowsTracked := by
  refine ⟨fun p b r s there free on => ⟨fun reached => ?threshold, fun below => ?counted⟩, fun p b r s busy => ?waits,
    fun p b r s => ⟨_, rfl, fun e => ?completes⟩, fun p b s => rfl, countRow_wf⟩
  case threshold =>
    refine ⟨_, exec_activate_admitted there free, ?_⟩
    simp only [activateRow, on, any_threshold_eq_true reached]
    refine ⟨rfl, get?_ins_same _ _ _, (dctlWord_dctlSet_same _ _ _).trans ((Nat.mod_mod _ _).trans ?_)⟩
    exact congrArg (fun x => (x + (victimRows r).length) % 2 ^ 64) (dctlWord_congr rfl rfl rfl rfl)
  case counted =>
    rw [exec_activate_admitted there free]
    simp only [activateRow, on, any_threshold_eq_false below]
    rfl
  case waits =>
    rw [exec_activate, execActivate, List.contains_eq_mem, decide_eq_true busy, Bool.not_true, Bool.and_false]
    rfl
  case completes => simp only [List.mem_filter, bne_iff_ne]

/-! Sparing (R278, R279). -/

theorem lessRegisters_startSparing (s : State) (p : Nat) : lessRegisters (startSparing s p) = lessRegisters s := by
  unfold startSparing; split <;> rfl

theorem startSparing_disabled {s : State} {p : Nat} (off : pchEnabled s p = false) : startSparing s p = s := by
  rw [startSparing, off]; rfl

/-- Sparing that runs already is not started again. -/
theorem bits_startSparing_running {s : State} {p : Nat} (go : bits (dctlWord s (pchReg p 0x10)) 31 1 = 1) :
    bits (dctlWord (startSparing s p) (pchReg p 0x10)) 0 64 = bits (dctlWord s (pchReg p 0x10)) 0 64 := by
  unfold startSparing
  split
  · rfl
  · rw [bits_dctlWord_modDctl _ _ _ _ _ (by decide), if_neg (by simp [go])]

theorem bits_startSparing_admitted {s : State} {p : Nat} (on : pchEnabled s p = true) (go : bits (dctlWord s (pchReg p 0x10)) 31 1 = 0)
    (done : bits (dctlWord s (pchReg p 0x10)) 30 1 = 0)
    (other : bits (dctlWord s (pchReg p 0x10)) 8 6 ≠ bits (dctlWord s (pchReg p 0x10)) 0 6)
    (spare : bits (dctlWord s (pchReg p 0x10)) 0 6 ≠ 0x3F) {lo n : Nat} (h : lo + n ≤ 64) :
    bits (dctlWord (startSparing s p) (pchReg p 0x10)) lo n = bits (setBits (dctlWord s (pchReg p 0x10)) 31 1 1) lo n := by
  rw [startSparing, on, if_neg (by decide), bits_dctlWord_modDctl _ _ _ _ _ h, if_pos ⟨go, done, other, spare⟩]

theorem exec_sparingStart_present {p : Nat} (here : p < 512) (src : Nat) (s : State) :
    exec (.sparingStart p src) s = .next (startSparing (writeSpareSrc s p src) p) := by
  rw [exec_sparingStart, execSparingStart, if_pos here]

/-- R278: a start writes SRC unless sparing runs, then GO where SPCTL admits it. -/
theorem sparingStarts (p src : Nat) (s : State) (here : p < 512) : let w := dctlWord s (pchReg p 0x10)
    (bits w 31 1 = 1 → ∃ t, exec (.sparingStart p src) s = .next t ∧ bits (dctlWord t (pchReg p 0x10)) 0 64 = bits w 0 64) ∧
    (pchEnabled s p = true → bits w 31 1 = 0 → bits w 30 1 = 0 → bits w 0 6 ≠ 0x3F → src < 64 → src ≠ bits w 0 6 →
      ∃ t, exec (.sparingStart p src) s = .next t ∧ bits (dctlWord t (pchReg p 0x10)) 31 1 = 1 ∧
        bits (dctlWord t (pchReg p 0x10)) 8 6 = src ∧ bits (dctlWord t (pchReg p 0x10)) 0 6 = bits w 0 6) := by
  intro w
  have source (lo n : Nat) (h : lo + n ≤ 64) : bits (dctlWord (writeSpareSrc s p src) (pchReg p 0x10)) lo n =
      bits (if bits w 31 1 = 1 then w else setBits w 8 6 src) lo n := bits_dctlWord_modDctl _ _ _ _ _ h
  refine ⟨fun go => ⟨_, exec_sparingStart_present here src s, ?_⟩,
    fun on go done spare fits other => ⟨_, exec_sparingStart_present here src s, ?_⟩⟩
  · rw [bits_startSparing_running (by rw [source _ _ (by decide), if_pos go, go]), source _ _ (by decide), if_pos go]
  · rw [if_neg (by rw [go]; decide)] at source
    have go' := (source 31 1 (by decide)).trans (bits_setBits_above w 8 6 src 31 1 (by decide))
    have done' := (source 30 1 (by decide)).trans (bits_setBits_above w 8 6 src 30 1 (by decide))
    have src' := (source 8 6 (by decide)).trans ((bits_setBits_same w 8 6 src).trans (Nat.mod_eq_of_lt fits))
    have spare' := (source 0 6 (by decide)).trans (bits_setBits_below w 8 6 src 0 6 (by decide))
    have started {lo n : Nat} (h : lo + n ≤ 64) := bits_startSparing_admitted (s := writeSpareSrc s p src) on (go'.trans go)
      (done'.trans done) (by rwa [src', spare']) (by rwa [spare']) h
    refine ⟨?_, ?_, ?_⟩
    · rw [started (by decide), bits_setBits_same, Nat.mod_eq_of_lt (by decide)]
    · rw [started (by decide), bits_setBits_below _ _ _ _ _ _ (by decide), src']
    · rw [started (by decide), bits_setBits_below _ _ _ _ _ _ (by decide), spare']

theorem upkept_copyRow (s : State) (p src spare n : Nat) : Upkept s (copyRow s p src spare n) := by
  refine Upkept.trans (upkept_foldl (fun t a => ?_) _ s) (upkept_foldl (fun t _ => upkept_atomWritten t _) _ _)
  split
  · exact upkept_atomWritten t a
  · exact upkept_atomRead t a _

/-- A copy of a row changes no register but the ECCCNT of its pseudo-channel. -/
theorem dctlWord_copyRow (s : State) {p : Nat} (src spare n : Nat) {k : Nat} (here : p < 512) (h : k ≠ pchReg p 0x18) :
    dctlWord (copyRow s p src spare n) k = dctlWord s k := by
  refine List.foldlRecOn _ _ (motive := fun t => dctlWord t k = dctlWord s k) ?_
    fun t kept j _ => (dctlWord_atomWritten t _ k).trans kept
  refine List.foldlRecOn _ _ (motive := fun t => dctlWord t k = dctlWord s k) rfl fun t kept a ha => Eq.trans ?_ kept
  have chan : a.chan = p := by
    have := (List.mem_filter.1 ha).2
    simp only [Bool.and_eq_true, beq_iff_eq] at this
    exact this.1.1
  split
  · exact dctlWord_atomWritten t a k
  · exact dctlWord_atomRead t _ (by rwa [chan]) (by rwa [chan])

/-- Row n of the bank that w names is activated in both banks and copied. -/
def rowCopied (s : State) (p w n : Nat) : State :=
  copyRow (activateRow (activateRow s p (bits w 8 6) n) p (bits w 0 6) n) p (bits w 8 6) (bits w 0 6) n

/-- The last row's copy puts the spare in the bank's place. -/
def bankSpared (s : State) (p w n : Nat) : State :=
  if n + 1 = 16384 then { s with spared := FMap.ins s.spared p (bits w 8 6, bits w 0 6) } else s

/-- SPCTL and SPPTR after the copy of row n. -/
def pastRow (n w : Nat) : Nat :=
  if n + 1 = 16384 then setBits (setBits (setBits (setBits w 32 15 (n + 1)) 31 1 0) 30 1 1) 0 6 0x3F else setBits w 32 15 (n + 1)

theorem exec_sparingRowCopy_idle {s : State} {p : Nat}
    (h : p ≥ 512 ∨ (!pchEnabled s p) = true ∨ bits (dctlWord s (pchReg p 0x10)) 31 1 = 0) : exec (.sparingRowCopy p) s = .next s := by
  rw [exec_sparingRowCopy, execSparingRowCopy]
  exact if_pos h

theorem exec_sparingRowCopy_copies {s : State} {p : Nat}
    (h : ¬ (p ≥ 512 ∨ (!pchEnabled s p) = true ∨ bits (dctlWord s (pchReg p 0x10)) 31 1 = 0)) :
    exec (.sparingRowCopy p) s = .next (let w := dctlWord s (pchReg p 0x10)
      let n := bits w 32 15
      modDctl (bankSpared (rowCopied s p w n) p w n) (pchReg p 0x10) (pastRow n)) := by
  rw [exec_sparingRowCopy, execSparingRowCopy]
  exact if_neg h

theorem upkept_rowCopied (s : State) (p w n : Nat) : Upkept s (rowCopied s p w n) :=
  (upkept_of_lessRegisters ((lessRegisters_activateRow _ _ _ _).trans (lessRegisters_activateRow _ _ _ _))).trans (upkept_copyRow _ _ _ _ _)

theorem upkept_bankSpared (s : State) (p w n : Nat) : Upkept s (bankSpared s p w n) := by
  unfold bankSpared
  split
  · exact upkept_of_lessRegisters rfl
  · exact .refl s

theorem dctlWord_bankSpared (s : State) (p w n k : Nat) : dctlWord (bankSpared s p w n) k = dctlWord s k := by
  unfold bankSpared
  split
  · exact dctlWord_congr rfl rfl rfl rfl
  · rfl

/-- The copy of a row leaves SPCTL and SPPTR as they were. -/
theorem dctlWord_rowCopied (s : State) {p : Nat} (w n : Nat) (here : p < 512) :
    dctlWord (rowCopied s p w n) (pchReg p 0x10) = dctlWord s (pchReg p 0x10) := by
  rw [rowCopied, dctlWord_copyRow _ _ _ _ here (pchReg_ne (by decide)), dctlWord_activateRow _ _ _ _ (pchReg_ne (by decide)),
    dctlWord_activateRow _ _ _ _ (pchReg_ne (by decide))]

/-- One more row is copied: SPPTR and SPCTL move on. -/
theorem sparingRowCopy_moves {p : Nat} {s : State} (here : p < 512) (on : pchEnabled s p = true)
    (go : bits (dctlWord s (pchReg p 0x10)) 31 1 = 1) : ∃ t, exec (.sparingRowCopy p) s = .next t ∧
      (∀ lo n, lo + n ≤ 64 → bits (dctlWord t (pchReg p 0x10)) lo n =
        bits (pastRow (bits (dctlWord s (pchReg p 0x10)) 32 15) (dctlWord s (pchReg p 0x10))) lo n) ∧
      t.spared = (let w := dctlWord s (pchReg p 0x10)
        bankSpared (rowCopied s p w (bits w 32 15)) p w (bits w 32 15)).spared := by
  refine ⟨_, exec_sparingRowCopy_copies ?_, fun lo n h => ?_, rfl⟩
  · simp [here, on, go]
  · rw [bits_dctlWord_modDctl _ _ _ _ _ h, dctlWord_bankSpared, dctlWord_rowCopied _ _ _ here]

/-- R278: a row before the last. -/
theorem sparingRowCopied (p : Nat) (s : State) (here : p < 512) (on : pchEnabled s p = true) : let w := dctlWord s (pchReg p 0x10)
    bits w 31 1 = 1 → bits w 32 15 < 16383 → ∃ t, exec (.sparingRowCopy p) s = .next t ∧
      bits (dctlWord t (pchReg p 0x10)) 32 15 = bits w 32 15 + 1 ∧ bits (dctlWord t (pchReg p 0x10)) 31 1 = 1 := by
  intro w go more
  obtain ⟨t, moved, word, -⟩ := sparingRowCopy_moves here on go
  have row : pastRow (bits w 32 15) w = setBits w 32 15 (bits w 32 15 + 1) := if_neg (by omega)
  refine ⟨t, moved, ?_, ?_⟩
  · rw [word _ _ (by decide), row, bits_setBits_same, Nat.mod_eq_of_lt (by omega)]
  · rw [word _ _ (by decide), row, bits_setBits_below _ _ _ _ _ _ (by decide), go]

/-- R278: the last row. -/
theorem sparingEnds (p : Nat) (s : State) (here : p < 512) (on : pchEnabled s p = true) : let w := dctlWord s (pchReg p 0x10)
    bits w 31 1 = 1 → bits w 32 15 = 16383 → ∃ t, exec (.sparingRowCopy p) s = .next t ∧
      bits (dctlWord t (pchReg p 0x10)) 31 1 = 0 ∧ bits (dctlWord t (pchReg p 0x10)) 30 1 = 1 ∧
      FMap.get? t.spared p = some (bits w 8 6, bits w 0 6) := by
  intro w go last
  obtain ⟨t, moved, word, spared⟩ := sparingRowCopy_moves here on go
  have ended : bits w 32 15 + 1 = 16384 := by rw [last]
  refine ⟨t, moved, ?_, ?_, ?_⟩
  · rw [word _ _ (by decide), pastRow, if_pos ended, bits_setBits_above _ _ _ _ _ _ (by decide),
      bits_setBits_above _ _ _ _ _ _ (by decide), bits_setBits_same, Nat.zero_mod]
  · rw [word _ _ (by decide), pastRow, if_pos ended, bits_setBits_above _ _ _ _ _ _ (by decide), bits_setBits_same,
      Nat.mod_eq_of_lt (by decide)]
  · rw [spared, bankSpared, if_pos ended, get?_ins_same]

/-! The remap table (R281, R282) and token buckets (R286). -/

/-- The address of the word that holds an entry of a stack's remap table (R282). -/
def entryWord (k i : Nat) : Nat := (0x00A00000 + 0x4000 * k + 4 * i) / 8 * 8

/-- The lowest bit of the entry in that word. -/
def entryBit (k i : Nat) : Nat := (0x00A00000 + 0x4000 * k + 4 * i) % 8 * 8

/-- The entry of a stack's remap table. -/
def entryHeld (s : State) (k i : Nat) : Nat := bits (dctlWord s (entryWord k i)) (entryBit k i) 32

/-- The state with the entry put to v. -/
def putEntry (s : State) (k i v : Nat) : State := modDctl s (entryWord k i) (fun w => setBits w (entryBit k i) 32 v)

theorem upkept_putEntry (s : State) (k i v : Nat) : Upkept s (putEntry s k i v) := upkept_modDctl _ _ _

theorem entryHeld_putEntry (s : State) (k i v : Nat) : entryHeld (putEntry s k i v) k i = v % 2 ^ 32 := by
  have fits : entryBit k i + 32 ≤ 64 := by rw [entryBit]; omega
  rw [entryHeld, putEntry, bits_dctlWord_modDctl _ _ _ _ _ fits, bits_setBits_same]

/-- An entry that was valid ends: its slot goes back to its atom. -/
def entryEnded (s : State) (k i : Nat) : State :=
  let old := entryHeld s k i
  if bits old 31 1 = 1 then atomWritten (putEntry s k i (setBits old 31 1 0)) (entryAtom k old) else s

/-- An entry that is valid begins: its slot is loaded from its atom. -/
def entryBegun (s : State) (k v : Nat) : State :=
  let x := entryAtom k v
  if bits v 31 1 = 1 then atomRead s x ((atomPa s x).map (fun pa => pa / 32)) else s

theorem writeRemap_eq (s : State) (k i v : Nat) :
    writeRemap s k i v = if entryHeld s k i = v then s else putEntry (entryBegun (entryEnded s k i) k v) k i v := rfl

theorem upkept_entryEnded (s : State) (k i : Nat) : Upkept s (entryEnded s k i) := by
  unfold entryEnded
  dsimp only
  split
  · exact (upkept_putEntry _ _ _ _).trans (upkept_atomWritten _ _)
  · exact .refl s

theorem upkept_entryBegun (s : State) (k v : Nat) : Upkept s (entryBegun s k v) := by
  unfold entryBegun
  dsimp only
  split
  · exact upkept_atomRead _ _ _
  · exact .refl s

theorem upkept_writeRemap (s : State) (k i v : Nat) : Upkept s (writeRemap s k i v) := by
  rw [writeRemap_eq]
  split
  · exact .refl s
  · exact ((upkept_entryEnded s k i).trans (upkept_entryBegun _ k v)).trans (upkept_putEntry _ k i v)

theorem entryHeld_writeRemap (s : State) (k i : Nat) (v : Word) : entryHeld (writeRemap s k i v.toNat) k i = v.toNat := by
  rw [writeRemap_eq]
  split
  case isTrue held => exact held
  case isFalse => rw [entryHeld_putEntry, Nat.mod_eq_of_lt v.isLt]

/-- R281, R282: the entry holds what is written. -/
theorem remapEntryHolds (k i : Nat) (v : Word) (s : State) (stack : k < 8) (entry : i < 4096) :
    ∃ t, exec (.remapEntryWrite k i v) s = .next t ∧ let a := 0x00A00000 + 0x4000 * k + 4 * i
      bits (dctlWord t (a / 8 * 8)) (a % 8 * 8) 32 = v.toNat := by
  refine ⟨writeRemap s k i v.toNat, ?_, entryHeld_writeRemap s k i v⟩
  rw [exec_remapEntryWrite, execRemapEntryWrite, if_pos ⟨stack, entry⟩]

/-- The refill of a partition's bucket in a controller. -/
def refillBucket (c : Nat) (s : State) (p : Nat) : State :=
  modDctl s (bucketBase c + 8 * p) (fun w => setBits w 32 16 (min (bits w 32 16 + bits w 0 16) (bits w 16 16)))

/-- The refills of other partitions' buckets leave a bucket alone. -/
theorem dctlWord_foldl_refillBucket (c : Nat) (s : State) (l : List Nat) {p : Nat} (h : p ∉ l) :
    dctlWord (l.foldl (refillBucket c) s) (bucketBase c + 8 * p) = dctlWord s (bucketBase c + 8 * p) := by
  refine List.foldlRecOn l _ (motive := fun t => dctlWord t (bucketBase c + 8 * p) = dctlWord s (bucketBase c + 8 * p)) rfl
    fun t kept q hq => (dctlWord_modDctl_other t _ ?_).trans kept
  have : p ≠ q := fun e => h (e ▸ hq)
  omega

theorem exec_tokenRefill_enabled {s : State} {c : Nat} (on : chanEnabled s c = true) :
    exec (.tokenRefill c) s = .next ((List.range 16).foldl (refillBucket c) s) := by
  rw [exec_tokenRefill, execTokenRefill, if_pos on]
  rfl

theorem exec_tokenRefill_disabled {s : State} {c : Nat} (off : chanEnabled s c = false) : exec (.tokenRefill c) s = .next s := by
  rw [exec_tokenRefill, execTokenRefill, off]
  rfl

/-- R286: a bucket is refilled once, since the sixteen lie at distinct addresses. -/
theorem bucketRefilled (c p : Nat) (s : State) (on : chanEnabled s c = true) (hp : p < 16) : ∃ t, exec (.tokenRefill c) s = .next t ∧
    let w := dctlWord s (bucketBase c + 8 * p)
    bits (dctlWord t (bucketBase c + 8 * p)) 32 16 = min (bits w 32 16 + bits w 0 16) (bits w 16 16) := by
  refine ⟨_, exec_tokenRefill_enabled on, ?_⟩
  intro w
  obtain ⟨before, after, split16⟩ := List.append_of_mem (List.mem_range.2 hp)
  have once : (before ++ p :: after).Nodup := split16 ▸ List.nodup_range
  have absent : p ∉ before ++ after := (List.nodup_cons.1 (List.nodup_middle.1 once)).1
  rw [List.mem_append, not_or] at absent
  rw [split16, List.foldl_append, List.foldl_cons, dctlWord_foldl_refillBucket c _ _ absent.2, refillBucket,
    bits_dctlWord_modDctl _ _ _ _ _ (by decide), dctlWord_foldl_refillBucket c _ _ absent.1, bits_setBits_same]
  exact Nat.mod_eq_of_lt (Nat.lt_of_le_of_lt (Nat.min_le_right _ _) (bits_lt _ _ _))

/-- R278 to R282, R286, R457. -/
theorem sparingAndTokens : Claim.SparingAndTokens :=
  ⟨sparingStarts, sparingRowCopied, sparingEnds, remapEntryHolds,
    fun _ _ _ _ => ⟨fun off => ⟨exec_sparingRowCopy_idle (.inr (.inl (by rw [off]; rfl))), startSparing_disabled off⟩,
      exec_tokenRefill_disabled, fun absent => congrArg Host.Outcome.next (if_neg (Nat.not_lt.2 absent))⟩,
    bucketRefilled⟩

/-! The frame of upkeep. -/

theorem lessRegisters_of_activate {s t : State} {p b r : Nat} (h : exec (.activate p b r) s = .next t) :
    lessRegisters t = lessRegisters s := by
  rw [exec_activate, execActivate] at h
  cases h
  split
  · exact lessRegisters_activateRow s p b r
  · rfl

theorem lessRegisters_of_sparingStart {s t : State} {p src : Nat} (h : exec (.sparingStart p src) s = .next t) :
    lessRegisters t = lessRegisters s := by
  rw [exec_sparingStart, execSparingStart] at h
  cases h
  split
  · exact lessRegisters_startSparing _ p
  · rfl

theorem lessRegisters_of_tokenRefill {s t : State} {c : Nat} (h : exec (.tokenRefill c) s = .next t) :
    lessRegisters t = lessRegisters s := by
  cases on : chanEnabled s c with
  | false => rw [exec_tokenRefill_disabled on] at h; cases h; rfl
  | true =>
    rw [exec_tokenRefill_enabled on] at h
    cases h
    exact List.foldlRecOn _ _ (motive := fun t => lessRegisters t = lessRegisters s) rfl
      fun _ kept _ _ => (lessRegisters_modDctl _ _ _).trans kept

theorem upkept_of_sparingRowCopy {s t : State} {p : Nat} (h : exec (.sparingRowCopy p) s = .next t) : Upkept s t := by
  by_cases idle : p ≥ 512 ∨ (!pchEnabled s p) = true ∨ bits (dctlWord s (pchReg p 0x10)) 31 1 = 0
  · rw [exec_sparingRowCopy_idle idle] at h
    cases h
    exact .refl s
  · rw [exec_sparingRowCopy_copies idle] at h
    cases h
    exact ((upkept_rowCopied _ _ _ _).trans (upkept_bankSpared _ _ _ _)).trans (upkept_modDctl _ _ _)

theorem upkept_of_remapEntryWrite {s t : State} {k i : Nat} {v : Word} (h : exec (.remapEntryWrite k i v) s = .next t) : Upkept s t := by
  rw [exec_remapEntryWrite, execRemapEntryWrite] at h
  cases h
  split
  · exact upkept_writeRemap s k i _
  · exact .refl s

/-- R275, R277 to R282, R286: what writes registers and counters alone changes no mark; a sparing copy and a write of a remap entry
read atoms, and mark a sector only for one that is uncorrectable. -/
theorem dramKeepsMemory : Claim.DramKeepsMemory := by
  intro s t x upkeep done
  have registers (h : lessRegisters t = lessRegisters s) (P : Prop) :
      t.mem = s.mem ∧ t.warps = s.warps ∧ t.wgs = s.wgs ∧ t.l2 = s.l2 ∧ (P → t.poison = s.poison) := by
    obtain ⟨mem, warps, wgs, l2, -⟩ := upkept_of_lessRegisters h
    exact ⟨mem, warps, wgs, l2, fun _ => poison_of_lessRegisters h⟩
  have atoms (h : Upkept s t) {P : Prop} (reads : ¬ P) : t.mem = s.mem ∧ t.warps = s.warps ∧ t.wgs = s.wgs ∧ t.l2 = s.l2 ∧
      (s.uerr = [] ∨ P → t.poison = s.poison) := by
    obtain ⟨mem, warps, wgs, l2, sound⟩ := h
    exact ⟨mem, warps, wgs, l2, fun none => (sound (none.resolve_right reads)).2⟩
  rcases upkeep with ⟨p, b, r, rfl | rfl⟩ | ⟨p, b, rfl | rfl⟩ | ⟨p, rfl | rfl⟩ | ⟨k, i, v, rfl⟩
  case inl.inl => exact registers (lessRegisters_of_activate done) _
  case inl.inr => cases done; exact registers rfl _
  case inr.inl.inl => cases done; exact registers rfl _
  case inr.inl.inr => exact registers (lessRegisters_of_sparingStart done) _
  case inr.inr.inl.inl => exact atoms (upkept_of_sparingRowCopy done) fun other => other.1 p rfl
  case inr.inr.inl.inr => exact registers (lessRegisters_of_tokenRefill done) _
  case inr.inr.inr => exact atoms (upkept_of_remapEntryWrite done) fun other => other.2 k i v rfl

/-- Settles O46: the frame from what upkeep leaves alone, the fields from the words that each operation writes. -/
theorem dramUpkeep : Obligations.DramUpkeep := ⟨dramKeepsMemory, rowsTracked, sparingAndTokens⟩

end Sys2Proof.Machine
end
